-- ==== Sys2Proof/Word.lean ====
section
/-! DEFINITION. The two widths that the device's frames are made of (R192, R193). -/

namespace Sys2Proof

/-- One byte of the serial line (R182). -/
abbrev Byte := BitVec 8

/-- A two-byte field of a frame, and the width of a gain or an offset (R192). -/
abbrev Half := BitVec 16

end Sys2Proof
end

