-- ==== Sys2Proof/Machine/Bank.lean ====
section
/-! DEFINITION. The two fixed numbers of like things in the device: sixteen heads and eight lanes (scope, Numbering).
Each is plain data with one place per number, so that reading and writing a place needs no bound. -/

namespace Sys2Proof

/-- One value for each of the sixteen heads 0 to 15 (scope, Numbering). -/
structure Bank (α : Type) where
  (h0 h1 h2 h3 : α)
  (h4 h5 h6 h7 : α)
  (h8 h9 h10 h11 : α)
  (h12 h13 h14 h15 : α)
  deriving DecidableEq, Repr

namespace Bank

variable {α β : Type}

/-- The same value in every place. -/
def fill (a : α) : Bank α :=
  ⟨a, a, a, a, a, a, a, a, a, a, a, a, a, a, a, a⟩

/-- The value in place `i`. -/
def get (x : Bank α) (i : Fin 16) : α :=
  match i.val with
  | 0 => x.h0
  | 1 => x.h1
  | 2 => x.h2
  | 3 => x.h3
  | 4 => x.h4
  | 5 => x.h5
  | 6 => x.h6
  | 7 => x.h7
  | 8 => x.h8
  | 9 => x.h9
  | 10 => x.h10
  | 11 => x.h11
  | 12 => x.h12
  | 13 => x.h13
  | 14 => x.h14
  | _ => x.h15

/-- The value in place `i` replaced. -/
def set (x : Bank α) (i : Fin 16) (a : α) : Bank α :=
  match i.val with
  | 0 => { x with h0 := a }
  | 1 => { x with h1 := a }
  | 2 => { x with h2 := a }
  | 3 => { x with h3 := a }
  | 4 => { x with h4 := a }
  | 5 => { x with h5 := a }
  | 6 => { x with h6 := a }
  | 7 => { x with h7 := a }
  | 8 => { x with h8 := a }
  | 9 => { x with h9 := a }
  | 10 => { x with h10 := a }
  | 11 => { x with h11 := a }
  | 12 => { x with h12 := a }
  | 13 => { x with h13 := a }
  | 14 => { x with h14 := a }
  | _ => { x with h15 := a }

/-- Each place rewritten from its own number and value. -/
def mapIdx (f : Fin 16 → α → β) (x : Bank α) : Bank β :=
  ⟨f 0 x.h0, f 1 x.h1, f 2 x.h2, f 3 x.h3, f 4 x.h4, f 5 x.h5, f 6 x.h6, f 7 x.h7, f 8 x.h8, f 9 x.h9, f 10 x.h10, f 11 x.h11, f 12 x.h12, f 13 x.h13, f 14 x.h14, f 15 x.h15⟩

/-- Each place rewritten from its own value. -/
def map (f : α → β) (x : Bank α) : Bank β :=
  x.mapIdx fun _ a => f a

/-- The values in order, place 0 first. -/
def toList (x : Bank α) : List α :=
  [x.h0, x.h1, x.h2, x.h3, x.h4, x.h5, x.h6, x.h7, x.h8, x.h9, x.h10, x.h11, x.h12, x.h13, x.h14, x.h15]

/-- The value in place `i` rewritten. -/
def modify (x : Bank α) (i : Fin 16) (f : α → α) : Bank α :=
  x.set i (f (x.get i))

end Bank

/-- One value for each of the eight lanes 0 to 7 (scope, Numbering). -/
structure Lanes (α : Type) where
  (l0 l1 l2 l3 : α)
  (l4 l5 l6 l7 : α)
  deriving DecidableEq, Repr

namespace Lanes

variable {α β : Type}

/-- The same value in every place. -/
def fill (a : α) : Lanes α :=
  ⟨a, a, a, a, a, a, a, a⟩

/-- The value in place `i`. -/
def get (x : Lanes α) (i : Fin 8) : α :=
  match i.val with
  | 0 => x.l0
  | 1 => x.l1
  | 2 => x.l2
  | 3 => x.l3
  | 4 => x.l4
  | 5 => x.l5
  | 6 => x.l6
  | _ => x.l7

/-- The value in place `i` replaced. -/
def set (x : Lanes α) (i : Fin 8) (a : α) : Lanes α :=
  match i.val with
  | 0 => { x with l0 := a }
  | 1 => { x with l1 := a }
  | 2 => { x with l2 := a }
  | 3 => { x with l3 := a }
  | 4 => { x with l4 := a }
  | 5 => { x with l5 := a }
  | 6 => { x with l6 := a }
  | _ => { x with l7 := a }

/-- Each place rewritten from its own number and value. -/
def mapIdx (f : Fin 8 → α → β) (x : Lanes α) : Lanes β :=
  ⟨f 0 x.l0, f 1 x.l1, f 2 x.l2, f 3 x.l3, f 4 x.l4, f 5 x.l5, f 6 x.l6, f 7 x.l7⟩

/-- Each place rewritten from its own value. -/
def map (f : α → β) (x : Lanes α) : Lanes β :=
  x.mapIdx fun _ a => f a

/-- The values in order, place 0 first. -/
def toList (x : Lanes α) : List α :=
  [x.l0, x.l1, x.l2, x.l3, x.l4, x.l5, x.l6, x.l7]

/-- The value in place `i` rewritten. -/
def modify (x : Lanes α) (i : Fin 8) (f : α → α) : Lanes α :=
  x.set i (f (x.get i))

end Lanes

/-- The head numbers in order. -/
def allHeads : List (Fin 16) :=
  [0, 1, 2, 3, 4, 5, 6, 7, 8, 9, 10, 11, 12, 13, 14, 15]

/-- The lane numbers in order. -/
def allLanes : List (Fin 8) :=
  [0, 1, 2, 3, 4, 5, 6, 7]

end Sys2Proof
end

