-- ==== Sys2Proof/Syntax.lean ====
section
/-! DEFINITION. The commands of the device: one constructor for each row of spec/opcode_table.json. A request carries its
tag and the fields of its payload as R201 lays them out, byte and two-byte fields as they are carried; an event of a head
carries the head's number and the levels of the input lines that the event itself reads. -/

namespace Sys2Proof

/-- A frame without its sync bytes, length and check: what the receive buffer, a reply slot and the transmitter hold
(R193). -/
structure Frame where
  kind : Byte
  tag : Byte
  payload : List Byte
  deriving DecidableEq, Repr

/-- TRACK-SETUP's payload (R201). -/
structure TrackSetupReq where
  length : Byte
  form : Byte
  sealPos : Byte
  stallLimit : Half
  threshold : Byte
  flags : Byte
  deriving DecidableEq, Repr

/-- GATE-SETUP's payload (R201). -/
structure GateSetupReq where
  punchDelay : Half
  punchWidth : Half
  diverterDelay : Half
  diverterWidth : Half
  confirmGrace : Half
  deriving DecidableEq, Repr

/-- HEAD-SETUP's payload after its head number (R201). -/
structure HeadSetupReq where
  station : Byte
  lane : Byte
  source : Byte
  startDelay : Half
  samplePeriod : Byte
  standby : Half
  ceiling : Half
  band : Half
  settle : Half
  flags : Byte
  openLimit : Half
  loopMode : Byte
  deriving DecidableEq, Repr

/-- The base, cap and window of one station in a format record (R195). -/
structure DoseFields where
  base : Half
  cap : Half
  windowMin : Half
  windowMax : Half
  deriving DecidableEq, Repr

/-- A format record as FORMAT-PUT carries it (R195). -/
structure FormatReq where
  code : Byte
  laneMask : Byte
  flags : Byte
  formProfile : Byte
  sealProfile : Byte
  sealDose : DoseFields
  formDose : DoseFields
  deriving DecidableEq, Repr

/-- A segment record as PROFILE-PUT carries it (R194). -/
structure SegmentReq where
  kind : Byte
  flags : Byte
  temperature : Half
  pressure : Half
  duration : Half
  deriving DecidableEq, Repr

/-- The four data items of a coefficient record, in the order of R199, each a 16-bit two's-complement value (R174). -/
structure CoeffItems where
  tempGain : Half
  tempOffset : Half
  presGain : Half
  presOffset : Half
  deriving DecidableEq, Repr

/-- CYCLE-ONCE's payload after its head number (R201). -/
structure CycleOnceReq where
  profile : Byte
  flags : Byte
  windowMin : Half
  windowMax : Half
  deriving DecidableEq, Repr

/-- The commands: a request as the link takes it, or an event of the device's lines and timers. -/
inductive Instr where
  /-- DEVICE_RESET: power-on or the reset line, with the platen sensor levels as they stand, bit n for head n (R23, R95). -/
  | deviceReset (openLevels closedLevels : BitVec 16)
  /-- PART_RESET (R190). -/
  | partReset (tag : Byte)
  /-- FRAME_RECEIVED: the frame whose check bytes the receiver has collected is judged (R184, R185). -/
  | frameReceived
  /-- RECEIVE_GAP_TIMEOUT (R183). -/
  | receiveGapTimeout
  /-- UNKNOWN_KIND_FRAME: a whole frame of a kind that is no request kind (R186). -/
  | unknownKindFrame (kind tag : Byte) (payload : List Byte)
  /-- TRACK_SETUP (R2). -/
  | trackSetup (tag : Byte) (r : TrackSetupReq)
  /-- GATE_SETUP (R135). -/
  | gateSetup (tag : Byte) (r : GateSetupReq)
  /-- HEAD_SETUP (R65). -/
  | headSetup (tag head : Byte) (r : HeadSetupReq)
  /-- HEAD_ENABLES (R67). -/
  | headEnables (tag head mask flags : Byte)
  /-- FORMAT_PUT (R48). -/
  | formatPut (tag : Byte) (r : FormatReq)
  /-- FORMAT_DROP (R52). -/
  | formatDrop (tag code : Byte)
  /-- PROFILE_PUT; the segment count it carries is the number of its segments, as R186 requires (R56 to R60). -/
  | profilePut (tag id : Byte) (segments : List SegmentReq)
  /-- PROFILE_DROP (R61). -/
  | profileDrop (tag id : Byte)
  /-- TRACK_START (R3). -/
  | trackStart (tag flags : Byte)
  /-- TRACK_STOP (R4). -/
  | trackStop (tag : Byte)
  /-- MANIFEST_POST (R26). -/
  | manifestPost (tag : Byte) (codes : Lanes Byte)
  /-- MANIFEST_FLUSH (R28). -/
  | manifestFlush (tag : Byte)
  /-- VERDICT (R33). -/
  | verdict (tag : Byte) (serial : Half) (mask reason : Byte)
  /-- HOLD_RELEASE (R20). -/
  | holdRelease (tag : Byte)
  /-- HEAD_ONLINE (R68). -/
  | headOnline (tag head : Byte)
  /-- HEAD_OFFLINE (R70). -/
  | headOffline (tag head : Byte)
  /-- HEAD_HALT (R89). -/
  | headHalt (tag head : Byte)
  /-- HEAD_CANCEL (R90). -/
  | headCancel (tag head : Byte)
  /-- HEAD_CLEAR (R91). -/
  | headClear (tag head : Byte)
  /-- HEAD_RELEASE (R88). -/
  | headRelease (tag head : Byte)
  /-- STATUS_TAKE (R155). -/
  | statusTake (tag head : Byte)
  /-- TRACK_STATUS_TAKE (R160). -/
  | trackStatusTake (tag flags mask : Byte)
  /-- HEAD_QUERY (R94). -/
  | headQuery (tag head : Byte)
  /-- TRACK_QUERY (R16). -/
  | trackQuery (tag : Byte)
  /-- NEST_QUERY (R17). -/
  | nestQuery (tag : Byte) (serial : Half)
  /-- COUNT_SNAPSHOT (R131). -/
  | countSnapshot (tag : Byte)
  /-- COUNT_READ (R132). -/
  | countRead (tag head : Byte)
  /-- COUNT_ZERO (R133). -/
  | countZero (tag flags head : Byte)
  /-- COEFF_READ (R177). -/
  | coeffRead (tag head : Byte)
  /-- COEFF_WRITE (R178). -/
  | coeffWrite (tag head : Byte) (items : CoeffItems)
  /-- STORE_QUERY (R181). -/
  | storeQuery (tag : Byte)
  /-- CYCLE_ONCE (R170). -/
  | cycleOnce (tag head : Byte) (r : CycleOnceReq)
  /-- INJECT (R168). -/
  | inject (tag head count : Byte)
  /-- STEP (R8). -/
  | step (tag : Byte)
  /-- SYNTHETIC_INDEX_DONE (R8). -/
  | syntheticIndexDone
  /-- INDEX_START: an edge of the INDEX-START input (R5). -/
  | indexStart
  /-- INDEX_DONE: an edge of the INDEX-DONE input (R5). -/
  | indexDone
  /-- STALL_EXPIRY (R6). -/
  | stallExpiry
  /-- PLATEN_CLOSED_EDGE, with the level of the same head's OPEN sensor as it stands (R71). -/
  | platenClosedEdge (head : Fin 16) (openLevel : Bool)
  /-- PLATEN_OPEN_EDGE, with the level of the same head's CLOSED sensor as it stands (R71). -/
  | platenOpenEdge (head : Fin 16) (closedLevel : Bool)
  /-- START_LINE_EDGE (R74). -/
  | startLineEdge (head : Fin 16)
  /-- START_DELAY_EXPIRY (R74). -/
  | startDelayExpiry (head : Fin 16)
  /-- START_LIMIT_EXPIRY (R74). -/
  | startLimitExpiry (head : Fin 16)
  /-- SEGMENT_EXPIRY: the duration of a HOLD or a RAMP expires (R78). -/
  | segmentExpiry (head : Fin 16)
  /-- CLOSE_LIMIT_EXPIRY (R77). -/
  | closeLimitExpiry (head : Fin 16)
  /-- OPEN_LIMIT_EXPIRY (R79). -/
  | openLimitExpiry (head : Fin 16)
  /-- RAMP_STEP (R99). -/
  | rampStep (head : Fin 16)
  /-- RELEASE_OPEN_LIMIT_EXPIRY (R85). -/
  | releaseOpenLimitExpiry (head : Fin 16)
  /-- SAMPLE: the sample timer expires; what the converter port delivers (none: the sensor is open) and the levels of the
  two platen sensors (R111, R112). -/
  | sample (head : Fin 16) (reading : Option Nat) (closedLevel openLevel : Bool)
  /-- VIRTUAL_EDGE_EXPIRY (R165). -/
  | virtualEdgeExpiry (head : Fin 16)
  /-- REJECT_CONFIRM_EDGE (R142). -/
  | rejectConfirmEdge
  /-- PUNCH_DELAY_EXPIRY (R138). -/
  | punchDelayExpiry
  /-- PUNCH_WIDTH_EXPIRY (R138). -/
  | punchWidthExpiry
  /-- DIVERTER_DELAY_EXPIRY (R139). -/
  | diverterDelayExpiry
  /-- DIVERTER_WIDTH_EXPIRY (R141). -/
  | diverterWidthExpiry
  /-- CONFIRM_WINDOW_EXPIRY (R143). -/
  | confirmWindowExpiry
  /-- LOAD_RECORD_JUDGED (R175). -/
  | loadRecordJudged
  /-- COEFF_READ_END (R177). -/
  | coeffReadEnd
  /-- COEFF_WRITE_END (R179). -/
  | coeffWriteEnd
  /-- TRANSMIT_BEGIN, with the level of host-hold that the transmitter reads (R182, R188). -/
  | transmitBegin (hostHold : Bool)
  /-- MESSAGE_LAST_BYTE (R189). -/
  | messageLastByte
  /-- BYTE_RECEIVED: a byte of the receive line, and whether its stop bit was there (R183). -/
  | byteReceived (byte : Byte) (stopBit : Bool)
  deriving DecidableEq, Repr

end Sys2Proof
end

