-- ==== Sys2Proof/Decode.lean ====
section
/-! DEFINITION. What bits say: the table of commands gives its rows no bits, so no word spells a command; a frame of the
link does spell a request, by the kinds of R200 and the payloads of R201, and an encoder writes the frame of a request. -/

namespace Sys2Proof

/-- The command that a word spells by the table's bits: spec/opcode_table.json gives bits to no row, so none. -/
def decodeTableWord (_nbits _w : Nat) : Option Instr :=
  none

/-- The two-byte value of a high and a low byte (R192). -/
def be16 (hi lo : Byte) : Half :=
  hi ++ lo

/-- The bytes of a two-byte value, high byte first (R192). -/
def bytes16 (x : Half) : List Byte :=
  [x.extractLsb' 8 8, x.extractLsb' 0 8]

/-- The eight bytes of a station's dose items (R195). -/
def DoseFields.bytes (d : DoseFields) : List Byte :=
  bytes16 d.base ++ bytes16 d.cap ++ bytes16 d.windowMin ++ bytes16 d.windowMax

/-- The eight data bytes of a coefficient record (R199). -/
def CoeffItems.bytes (c : CoeffItems) : List Byte :=
  bytes16 c.tempGain ++ bytes16 c.tempOffset ++ bytes16 c.presGain ++ bytes16 c.presOffset

/-- The eight bytes of a segment record (R194). -/
def SegmentReq.bytes (g : SegmentReq) : List Byte :=
  [g.kind, g.flags] ++ bytes16 g.temperature ++ bytes16 g.pressure ++ bytes16 g.duration

/-- The segment records that a list of bytes holds, when its length is a multiple of eight (R194). -/
def segmentsOf : List Byte → Option (List SegmentReq)
  | [] => some []
  | k :: g :: t1 :: t0 :: p1 :: p0 :: d1 :: d0 :: rest =>
    (segmentsOf rest).map fun gs => ⟨k, g, be16 t1 t0, be16 p1 p0, be16 d1 d0⟩ :: gs
  | _ => none

/-! ### The request kinds (R200) -/

/-- partReset (R200). -/
def Kind.partReset : Byte := 0x01

/-- trackSetup (R200). -/
def Kind.trackSetup : Byte := 0x02

/-- gateSetup (R200). -/
def Kind.gateSetup : Byte := 0x03

/-- headSetup (R200). -/
def Kind.headSetup : Byte := 0x04

/-- headEnables (R200). -/
def Kind.headEnables : Byte := 0x05

/-- formatPut (R200). -/
def Kind.formatPut : Byte := 0x08

/-- formatDrop (R200). -/
def Kind.formatDrop : Byte := 0x09

/-- profilePut (R200). -/
def Kind.profilePut : Byte := 0x0A

/-- profileDrop (R200). -/
def Kind.profileDrop : Byte := 0x0B

/-- trackStart (R200). -/
def Kind.trackStart : Byte := 0x10

/-- trackStop (R200). -/
def Kind.trackStop : Byte := 0x11

/-- manifestPost (R200). -/
def Kind.manifestPost : Byte := 0x12

/-- manifestFlush (R200). -/
def Kind.manifestFlush : Byte := 0x13

/-- verdict (R200). -/
def Kind.verdict : Byte := 0x14

/-- holdRelease (R200). -/
def Kind.holdRelease : Byte := 0x15

/-- headOnline (R200). -/
def Kind.headOnline : Byte := 0x20

/-- headOffline (R200). -/
def Kind.headOffline : Byte := 0x21

/-- headHalt (R200). -/
def Kind.headHalt : Byte := 0x22

/-- headCancel (R200). -/
def Kind.headCancel : Byte := 0x23

/-- headClear (R200). -/
def Kind.headClear : Byte := 0x24

/-- headRelease (R200). -/
def Kind.headRelease : Byte := 0x25

/-- statusTake (R200). -/
def Kind.statusTake : Byte := 0x28

/-- trackStatusTake (R200). -/
def Kind.trackStatusTake : Byte := 0x29

/-- headQuery (R200). -/
def Kind.headQuery : Byte := 0x2A

/-- trackQuery (R200). -/
def Kind.trackQuery : Byte := 0x2B

/-- nestQuery (R200). -/
def Kind.nestQuery : Byte := 0x2C

/-- countSnapshot (R200). -/
def Kind.countSnapshot : Byte := 0x30

/-- countRead (R200). -/
def Kind.countRead : Byte := 0x31

/-- countZero (R200). -/
def Kind.countZero : Byte := 0x32

/-- coeffRead (R200). -/
def Kind.coeffRead : Byte := 0x38

/-- coeffWrite (R200). -/
def Kind.coeffWrite : Byte := 0x39

/-- storeQuery (R200). -/
def Kind.storeQuery : Byte := 0x3A

/-- cycleOnce (R200). -/
def Kind.cycleOnce : Byte := 0x40

/-- inject (R200). -/
def Kind.inject : Byte := 0x41

/-- step (R200). -/
def Kind.step : Byte := 0x42

/-- The request kinds of R200. -/
def requestKinds : List Byte :=
  [Kind.partReset, Kind.trackSetup, Kind.gateSetup, Kind.headSetup, Kind.headEnables,
   Kind.formatPut, Kind.formatDrop, Kind.profilePut, Kind.profileDrop, Kind.trackStart,
   Kind.trackStop, Kind.manifestPost, Kind.manifestFlush, Kind.verdict, Kind.holdRelease,
   Kind.headOnline, Kind.headOffline, Kind.headHalt, Kind.headCancel, Kind.headClear,
   Kind.headRelease, Kind.statusTake, Kind.trackStatusTake, Kind.headQuery, Kind.trackQuery,
   Kind.nestQuery, Kind.countSnapshot, Kind.countRead, Kind.countZero, Kind.coeffRead,
   Kind.coeffWrite, Kind.storeQuery, Kind.cycleOnce, Kind.inject, Kind.step]

/-- What R186 judges a taken frame to be. -/
inductive Judged where
  | unknownKind
  | badLength
  | request (i : Instr)
  deriving DecidableEq, Repr

/-- partReset's payload of R201, or a length that does not agree with the kind (R186). -/
def payloadPartReset (tag : Byte) : List Byte → Judged
  | [] => .request (.partReset tag)
  | _ => .badLength

/-- trackSetup's payload of R201, or a length that does not agree with the kind (R186). -/
def payloadTrackSetup (tag : Byte) : List Byte → Judged
  | [l, p, q, s1, s0, t, g] => .request (.trackSetup tag ⟨l, p, q, be16 s1 s0, t, g⟩)
  | _ => .badLength

/-- gateSetup's payload of R201, or a length that does not agree with the kind (R186). -/
def payloadGateSetup (tag : Byte) : List Byte → Judged
  | [a1, a0, b1, b0, c1, c0, d1, d0, e1, e0] => .request (.gateSetup tag ⟨be16 a1 a0, be16 b1 b0, be16 c1 c0, be16 d1 d0, be16 e1 e0⟩)
  | _ => .badLength

/-- headSetup's payload of R201, or a length that does not agree with the kind (R186). -/
def payloadHeadSetup (tag : Byte) : List Byte → Judged
  | [h, st, ln, so, d1, d0, p, b1, b0, c1, c0, w1, w0, t1, t0, g, o1, o0, m] => .request (.headSetup tag h ⟨st, ln, so, be16 d1 d0, p, be16 b1 b0, be16 c1 c0, be16 w1 w0, be16 t1 t0, g, be16 o1 o0, m⟩)
  | _ => .badLength

/-- headEnables's payload of R201, or a length that does not agree with the kind (R186). -/
def payloadHeadEnables (tag : Byte) : List Byte → Judged
  | [h, m, g] => .request (.headEnables tag h m g)
  | _ => .badLength

/-- formatPut's payload of R201, or a length that does not agree with the kind (R186). -/
def payloadFormatPut (tag : Byte) : List Byte → Judged
  | [c, m, g, p, q, a1, a0, b1, b0, c1, c0, d1, d0, e1, e0, f1, f0, g1, g0, h1, h0] => .request (.formatPut tag ⟨c, m, g, p, q, ⟨be16 a1 a0, be16 b1 b0, be16 c1 c0, be16 d1 d0⟩,
      ⟨be16 e1 e0, be16 f1 f0, be16 g1 g0, be16 h1 h0⟩⟩)
  | _ => .badLength

/-- formatDrop's payload of R201, or a length that does not agree with the kind (R186). -/
def payloadFormatDrop (tag : Byte) : List Byte → Judged
  | [c] => .request (.formatDrop tag c)
  | _ => .badLength

/-- PROFILE-PUT's payload: the length must be 2 + 8 × the segment count it carries (R186, R192, R201). -/
def payloadProfilePut (tag : Byte) : List Byte → Judged
  | id :: count :: rest =>
    match segmentsOf rest with
    | some gs => if gs.length = count.toNat then .request (.profilePut tag id gs) else .badLength
    | none => .badLength
  | _ => .badLength

/-- profileDrop's payload of R201, or a length that does not agree with the kind (R186). -/
def payloadProfileDrop (tag : Byte) : List Byte → Judged
  | [i] => .request (.profileDrop tag i)
  | _ => .badLength

/-- trackStart's payload of R201, or a length that does not agree with the kind (R186). -/
def payloadTrackStart (tag : Byte) : List Byte → Judged
  | [g] => .request (.trackStart tag g)
  | _ => .badLength

/-- trackStop's payload of R201, or a length that does not agree with the kind (R186). -/
def payloadTrackStop (tag : Byte) : List Byte → Judged
  | [] => .request (.trackStop tag)
  | _ => .badLength

/-- manifestPost's payload of R201, or a length that does not agree with the kind (R186). -/
def payloadManifestPost (tag : Byte) : List Byte → Judged
  | [a, b, c, d, e, g, h, i] => .request (.manifestPost tag ⟨a, b, c, d, e, g, h, i⟩)
  | _ => .badLength

/-- manifestFlush's payload of R201, or a length that does not agree with the kind (R186). -/
def payloadManifestFlush (tag : Byte) : List Byte → Judged
  | [] => .request (.manifestFlush tag)
  | _ => .badLength

/-- verdict's payload of R201, or a length that does not agree with the kind (R186). -/
def payloadVerdict (tag : Byte) : List Byte → Judged
  | [s1, s0, m, r] => .request (.verdict tag (be16 s1 s0) m r)
  | _ => .badLength

/-- holdRelease's payload of R201, or a length that does not agree with the kind (R186). -/
def payloadHoldRelease (tag : Byte) : List Byte → Judged
  | [] => .request (.holdRelease tag)
  | _ => .badLength

/-- headOnline's payload of R201, or a length that does not agree with the kind (R186). -/
def payloadHeadOnline (tag : Byte) : List Byte → Judged
  | [h] => .request (.headOnline tag h)
  | _ => .badLength

/-- headOffline's payload of R201, or a length that does not agree with the kind (R186). -/
def payloadHeadOffline (tag : Byte) : List Byte → Judged
  | [h] => .request (.headOffline tag h)
  | _ => .badLength

/-- headHalt's payload of R201, or a length that does not agree with the kind (R186). -/
def payloadHeadHalt (tag : Byte) : List Byte → Judged
  | [h] => .request (.headHalt tag h)
  | _ => .badLength

/-- headCancel's payload of R201, or a length that does not agree with the kind (R186). -/
def payloadHeadCancel (tag : Byte) : List Byte → Judged
  | [h] => .request (.headCancel tag h)
  | _ => .badLength

/-- headClear's payload of R201, or a length that does not agree with the kind (R186). -/
def payloadHeadClear (tag : Byte) : List Byte → Judged
  | [h] => .request (.headClear tag h)
  | _ => .badLength

/-- headRelease's payload of R201, or a length that does not agree with the kind (R186). -/
def payloadHeadRelease (tag : Byte) : List Byte → Judged
  | [h] => .request (.headRelease tag h)
  | _ => .badLength

/-- statusTake's payload of R201, or a length that does not agree with the kind (R186). -/
def payloadStatusTake (tag : Byte) : List Byte → Judged
  | [h] => .request (.statusTake tag h)
  | _ => .badLength

/-- trackStatusTake's payload of R201, or a length that does not agree with the kind (R186). -/
def payloadTrackStatusTake (tag : Byte) : List Byte → Judged
  | [g, m] => .request (.trackStatusTake tag g m)
  | _ => .badLength

/-- headQuery's payload of R201, or a length that does not agree with the kind (R186). -/
def payloadHeadQuery (tag : Byte) : List Byte → Judged
  | [h] => .request (.headQuery tag h)
  | _ => .badLength

/-- trackQuery's payload of R201, or a length that does not agree with the kind (R186). -/
def payloadTrackQuery (tag : Byte) : List Byte → Judged
  | [] => .request (.trackQuery tag)
  | _ => .badLength

/-- nestQuery's payload of R201, or a length that does not agree with the kind (R186). -/
def payloadNestQuery (tag : Byte) : List Byte → Judged
  | [s1, s0] => .request (.nestQuery tag (be16 s1 s0))
  | _ => .badLength

/-- countSnapshot's payload of R201, or a length that does not agree with the kind (R186). -/
def payloadCountSnapshot (tag : Byte) : List Byte → Judged
  | [] => .request (.countSnapshot tag)
  | _ => .badLength

/-- countRead's payload of R201, or a length that does not agree with the kind (R186). -/
def payloadCountRead (tag : Byte) : List Byte → Judged
  | [h] => .request (.countRead tag h)
  | _ => .badLength

/-- countZero's payload of R201, or a length that does not agree with the kind (R186). -/
def payloadCountZero (tag : Byte) : List Byte → Judged
  | [g, h] => .request (.countZero tag g h)
  | _ => .badLength

/-- coeffRead's payload of R201, or a length that does not agree with the kind (R186). -/
def payloadCoeffRead (tag : Byte) : List Byte → Judged
  | [h] => .request (.coeffRead tag h)
  | _ => .badLength

/-- coeffWrite's payload of R201, or a length that does not agree with the kind (R186). -/
def payloadCoeffWrite (tag : Byte) : List Byte → Judged
  | [h, a1, a0, b1, b0, c1, c0, d1, d0] => .request (.coeffWrite tag h ⟨be16 a1 a0, be16 b1 b0, be16 c1 c0, be16 d1 d0⟩)
  | _ => .badLength

/-- storeQuery's payload of R201, or a length that does not agree with the kind (R186). -/
def payloadStoreQuery (tag : Byte) : List Byte → Judged
  | [] => .request (.storeQuery tag)
  | _ => .badLength

/-- cycleOnce's payload of R201, or a length that does not agree with the kind (R186). -/
def payloadCycleOnce (tag : Byte) : List Byte → Judged
  | [h, p, g, a1, a0, b1, b0] => .request (.cycleOnce tag h ⟨p, g, be16 a1 a0, be16 b1 b0⟩)
  | _ => .badLength

/-- inject's payload of R201, or a length that does not agree with the kind (R186). -/
def payloadInject (tag : Byte) : List Byte → Judged
  | [h, n] => .request (.inject tag h n)
  | _ => .badLength

/-- step's payload of R201, or a length that does not agree with the kind (R186). -/
def payloadStep (tag : Byte) : List Byte → Judged
  | [] => .request (.step tag)
  | _ => .badLength

/-- The judgement of a taken frame by its kind and its length (R186). -/
def decodeFrame (f : Frame) : Judged :=
  match f.kind.toNat with
  | 0x01 => payloadPartReset f.tag f.payload
  | 0x02 => payloadTrackSetup f.tag f.payload
  | 0x03 => payloadGateSetup f.tag f.payload
  | 0x04 => payloadHeadSetup f.tag f.payload
  | 0x05 => payloadHeadEnables f.tag f.payload
  | 0x08 => payloadFormatPut f.tag f.payload
  | 0x09 => payloadFormatDrop f.tag f.payload
  | 0x0A => payloadProfilePut f.tag f.payload
  | 0x0B => payloadProfileDrop f.tag f.payload
  | 0x10 => payloadTrackStart f.tag f.payload
  | 0x11 => payloadTrackStop f.tag f.payload
  | 0x12 => payloadManifestPost f.tag f.payload
  | 0x13 => payloadManifestFlush f.tag f.payload
  | 0x14 => payloadVerdict f.tag f.payload
  | 0x15 => payloadHoldRelease f.tag f.payload
  | 0x20 => payloadHeadOnline f.tag f.payload
  | 0x21 => payloadHeadOffline f.tag f.payload
  | 0x22 => payloadHeadHalt f.tag f.payload
  | 0x23 => payloadHeadCancel f.tag f.payload
  | 0x24 => payloadHeadClear f.tag f.payload
  | 0x25 => payloadHeadRelease f.tag f.payload
  | 0x28 => payloadStatusTake f.tag f.payload
  | 0x29 => payloadTrackStatusTake f.tag f.payload
  | 0x2A => payloadHeadQuery f.tag f.payload
  | 0x2B => payloadTrackQuery f.tag f.payload
  | 0x2C => payloadNestQuery f.tag f.payload
  | 0x30 => payloadCountSnapshot f.tag f.payload
  | 0x31 => payloadCountRead f.tag f.payload
  | 0x32 => payloadCountZero f.tag f.payload
  | 0x38 => payloadCoeffRead f.tag f.payload
  | 0x39 => payloadCoeffWrite f.tag f.payload
  | 0x3A => payloadStoreQuery f.tag f.payload
  | 0x40 => payloadCycleOnce f.tag f.payload
  | 0x41 => payloadInject f.tag f.payload
  | 0x42 => payloadStep f.tag f.payload
  | _ => .unknownKind

/-- The frame of a request (R200, R201); an event of the device is no frame. -/
def encodeFrame (i : Instr) : Option Frame :=
  match i with
  | .partReset tag => some ⟨Kind.partReset, tag, []⟩
  | .trackSetup tag r =>
    some ⟨Kind.trackSetup, tag, [r.length, r.form, r.sealPos] ++ bytes16 r.stallLimit ++ [r.threshold, r.flags]⟩
  | .gateSetup tag r =>
    some ⟨Kind.gateSetup, tag, bytes16 r.punchDelay ++ bytes16 r.punchWidth ++ bytes16 r.diverterDelay ++ bytes16 r.diverterWidth ++
      bytes16 r.confirmGrace⟩
  | .headSetup tag h r =>
    some ⟨Kind.headSetup, tag, [h, r.station, r.lane, r.source] ++ bytes16 r.startDelay ++ [r.samplePeriod] ++ bytes16 r.standby ++
      bytes16 r.ceiling ++ bytes16 r.band ++ bytes16 r.settle ++ [r.flags] ++ bytes16 r.openLimit ++ [r.loopMode]⟩
  | .headEnables tag h m g => some ⟨Kind.headEnables, tag, [h, m, g]⟩
  | .formatPut tag r =>
    some ⟨Kind.formatPut, tag, [r.code, r.laneMask, r.flags, r.formProfile, r.sealProfile] ++ r.sealDose.bytes ++ r.formDose.bytes⟩
  | .formatDrop tag c => some ⟨Kind.formatDrop, tag, [c]⟩
  | .profilePut tag id gs =>
    some ⟨Kind.profilePut, tag, [id, BitVec.ofNat 8 gs.length] ++ gs.flatMap SegmentReq.bytes⟩
  | .profileDrop tag i => some ⟨Kind.profileDrop, tag, [i]⟩
  | .trackStart tag g => some ⟨Kind.trackStart, tag, [g]⟩
  | .trackStop tag => some ⟨Kind.trackStop, tag, []⟩
  | .manifestPost tag c => some ⟨Kind.manifestPost, tag, c.toList⟩
  | .manifestFlush tag => some ⟨Kind.manifestFlush, tag, []⟩
  | .verdict tag s m r => some ⟨Kind.verdict, tag, bytes16 s ++ [m, r]⟩
  | .holdRelease tag => some ⟨Kind.holdRelease, tag, []⟩
  | .headOnline tag h => some ⟨Kind.headOnline, tag, [h]⟩
  | .headOffline tag h => some ⟨Kind.headOffline, tag, [h]⟩
  | .headHalt tag h => some ⟨Kind.headHalt, tag, [h]⟩
  | .headCancel tag h => some ⟨Kind.headCancel, tag, [h]⟩
  | .headClear tag h => some ⟨Kind.headClear, tag, [h]⟩
  | .headRelease tag h => some ⟨Kind.headRelease, tag, [h]⟩
  | .statusTake tag h => some ⟨Kind.statusTake, tag, [h]⟩
  | .trackStatusTake tag g m => some ⟨Kind.trackStatusTake, tag, [g, m]⟩
  | .headQuery tag h => some ⟨Kind.headQuery, tag, [h]⟩
  | .trackQuery tag => some ⟨Kind.trackQuery, tag, []⟩
  | .nestQuery tag s => some ⟨Kind.nestQuery, tag, bytes16 s⟩
  | .countSnapshot tag => some ⟨Kind.countSnapshot, tag, []⟩
  | .countRead tag h => some ⟨Kind.countRead, tag, [h]⟩
  | .countZero tag g h => some ⟨Kind.countZero, tag, [g, h]⟩
  | .coeffRead tag h => some ⟨Kind.coeffRead, tag, [h]⟩
  | .coeffWrite tag h c => some ⟨Kind.coeffWrite, tag, [h] ++ c.bytes⟩
  | .storeQuery tag => some ⟨Kind.storeQuery, tag, []⟩
  | .cycleOnce tag h r =>
    some ⟨Kind.cycleOnce, tag, [h, r.profile, r.flags] ++ bytes16 r.windowMin ++ bytes16 r.windowMax⟩
  | .inject tag h n => some ⟨Kind.inject, tag, [h, n]⟩
  | .step tag => some ⟨Kind.step, tag, []⟩
  | .unknownKindFrame kind tag payload => some ⟨kind, tag, payload⟩
  | .deviceReset .. | .frameReceived | .receiveGapTimeout .. | .syntheticIndexDone ..
  | .indexStart .. | .indexDone .. | .stallExpiry .. | .platenClosedEdge ..
  | .platenOpenEdge .. | .startLineEdge .. | .startDelayExpiry .. | .startLimitExpiry ..
  | .segmentExpiry .. | .closeLimitExpiry .. | .openLimitExpiry .. | .rampStep ..
  | .releaseOpenLimitExpiry .. | .sample .. | .virtualEdgeExpiry .. | .rejectConfirmEdge ..
  | .punchDelayExpiry .. | .punchWidthExpiry .. | .diverterDelayExpiry .. | .diverterWidthExpiry ..
  | .confirmWindowExpiry .. | .loadRecordJudged .. | .coeffReadEnd .. | .coeffWriteEnd ..
  | .transmitBegin .. | .messageLastByte .. | .byteReceived .. => none

end Sys2Proof
end

