-- ==== Sys2Proof/Config.lean ====
section
/-! DEFINITION. The numbers the device fixes, each with the rule that gives it, and the free values: what the spec leaves
open and no proof may see. -/

namespace Sys2Proof.Config

/-- Manifests the manifest queue may hold (R25). -/
def manifestRoom : Nat := 32

/-- Reports the outcome queue may hold (R41). -/
def outcomeRoom : Nat := 16

/-- Outcome count at which OUTCOME_BACKLOG becomes present (R19). -/
def backlogMark : Nat := 12

/-- Outcome count at which OUTCOME_BACKLOG leaves (R19). -/
def backlogClear : Nat := 4

/-- Records the format table may hold (R47). -/
def formatRoom : Nat := 32

/-- Segments of the profile store's pool (R54). -/
def segmentPool : Nat := 192

/-- Whole frames the receive buffer may hold (R185). -/
def rxRoom : Nat := 4

/-- Reply slots (R187). -/
def replySlots : Nat := 8

/-- Milliseconds between two bytes of a frame that are not yet a gap (R183). -/
def gapLimit : Nat := 5

/-- Milliseconds a record takes to read (R175, R177). -/
def storeReadTime : Nat := 3

/-- Milliseconds a record takes to write (R178). -/
def storeWriteTime : Nat := 20

/-- Milliseconds from a virtual-edge timer's start to its edge (R165). -/
def virtualTime : Nat := 100

/-- Milliseconds between two ramp steps (R99). -/
def rampPeriod : Nat := 10

/-- Bits a second on the line (R182). -/
def lineRate : Nat := 460800

/-- Consecutive valid samples that clear LOW or HIGH (R117, R118). -/
def clearCount : Nat := 8

/-- Consecutive high samples that declare HIGH (R118). -/
def highDeclare : Nat := 4

/-- Consecutive low samples that declare LOW, normal and extended (R117). -/
def lowDeclare (extended : Bool) : Nat := if extended then 512 else 32

/-- Consecutive samples within the standby window that make a head READY (R69). -/
def readyCount : Nat := 16

/-- The highest value of the dose accumulator (R126). -/
def doseLimit : Nat := 4294967295

/-- FREE VALUE (log entry 3). Which of several events due at one moment the device takes first: the spec says that either
may be taken first. The argument counts the free values drawn. -/
opaque dueChoice : Nat → Nat

/-- FREE VALUE (log entry 4). Which of the eight data bytes of a record whose write a device reset interrupts hold new
values, a bit for a byte: R180 says the bytes may hold a mix of old and new. -/
opaque interruptedMix : Nat → BitVec 8

/-- FREE VALUE (log entry 4). The check bytes of a record whose write a device reset interrupts, before the one value that
would match the data is excluded (R180). -/
opaque interruptedCheck : Nat → BitVec 16

end Sys2Proof.Config
end

