-- ==== Sys2Proof/Machine/State.lean ====
section
/-! DEFINITION. The state of the device as plain data, block by block (scope, Functional blocks), the reasons a step could
stop, and the state right after a device reset. -/

namespace Sys2Proof.Machine

/-! ### Names (R203, §12.8) -/

/-- Track modes (§1.2). -/
inductive TrackMode where
  | halted | run | test
  deriving DecidableEq, Repr

/-- The two states of the index machine (§1.3). -/
inductive IndexState where
  | dwell | moving
  deriving DecidableEq, Repr

/-- Head states (§4.2). -/
inductive HeadState where
  | offline | releasing | heating | ready | pending | running | safe
  deriving DecidableEq, Repr

/-- Platen states (R71). -/
inductive PlatenState where
  | unknown | opened | closing | closed | opening
  deriving DecidableEq, Repr

/-- The two stations a head may be bound to (§4.1). -/
inductive Station where
  | form | sealing
  deriving DecidableEq, Repr

/-- Start sources (R74). -/
inductive StartSource where
  | index | delayed | line
  deriving DecidableEq, Repr

/-- Loop modes (R163). -/
inductive LoopMode where
  | normal | dry | monitor
  deriving DecidableEq, Repr

/-- Segment kinds (R55). -/
inductive SegKind where
  | close | hold | ramp | openUp
  deriving DecidableEq, Repr

/-- End reasons (§4.6, R200). -/
inductive EndReason where
  | complete | completeResealed | doseLow | doseHigh | closeLate | openLate | overrun | halted
  | safeHigh | safeSensor | platenFault | startTimeout | cancelled | skipped
  deriving DecidableEq, Repr

/-- Reject reasons (§2.7, R200). -/
inductive RejectReason where
  | verdict | noVerdict | noHead | formDoseLow | formDoseHigh | sealDoseLow | sealDoseHigh
  | closeLate | openLate | overrun | halted | cancelled | startTimeout | lowTemp | sensor
  | heatSafe | platenFault | dryRun | purged | closedAtIndex
  deriving DecidableEq, Repr

/-- The conditions of a head (§6.3). -/
inductive Cond where
  | low | high | sensor | platen | countFull | uncal
  deriving DecidableEq, Repr

/-- The line-hold causes (§1.7). -/
inductive Cause where
  | indexStall | indexWhileClosed | platenStuck | gateMismatch | gateCut | manifestEmpty
  | headSafe | outcomeBacklog
  deriving DecidableEq, Repr

/-- The members of the track changed set (§8.7). -/
inductive TrackEvent where
  | indexSequence | noManifest | gateMismatch | gateCut | holdChanged | manifestLow
  deriving DecidableEq, Repr

/-- Result codes of replies (R200). -/
inductive Result where
  | ok | unknownKind | badLength | badValue | wrongMode | wrongState | inUse | noRoom
  | unknownFormat | unknownProfile | laneNotAllowed | queueFull | notFound | late | storeBusy
  | notLoaded | conflict | profileInvalid
  deriving DecidableEq, Repr

/-! ### Recipe Library (chapter 3) -/

/-- A stored segment (R55). -/
structure Segment where
  kind : SegKind
  temperature : Option Nat
  pressure : Option Nat
  duration : Nat
  dose : Bool
  aux : Bool
  notify : Bool
  resealPoint : Bool
  deriving DecidableEq, Repr

/-- The dose items of one station (R47). -/
structure DoseItems where
  base : Nat
  cap : Nat
  windowMin : Nat
  windowMax : Nat
  deriving DecidableEq, Repr

/-- A format record without its code (R47). `form` is present exactly when the form profile id is. -/
structure Format where
  laneMask : Byte
  form : Option (Nat × DoseItems)
  sealProfile : Nat
  sealDose : DoseItems
  resealAllowed : Bool
  skipRejected : Bool
  deriving DecidableEq, Repr

/-- The format table and the profile store, each a list of keys and records with the keys rising (R47, R54). -/
structure Library where
  formats : List (Nat × Format)
  profiles : List (Nat × List Segment)
  deriving DecidableEq, Repr

/-! ### Nest Track (chapters 1 and 2) -/

/-- A station result (§1.5, R82). -/
structure StationResult where
  head : Nat
  reason : EndReason
  dose : Option Nat
  closure : Option Nat
  resealed : Bool
  ceilingClamped : Bool
  outputClamped : Bool
  lowSeen : Bool
  tainted : Bool
  deriving DecidableEq, Repr

/-- The verdict field of a pack (§2.5). -/
inductive Verdict where
  | pending | good | bad (reason : Nat) | lateBad
  deriving DecidableEq, Repr

/-- A pack record; its lane is its place in the nest (§1.5). `reasons` holds bit n − 1 for reason code n (R196). -/
structure Pack where
  format : Nat
  verdict : Verdict
  formResult : Option StationResult
  sealResult : Option StationResult
  reasons : BitVec 32
  diverted : Bool
  deriving DecidableEq, Repr

/-- A nest record, on the track or, as an outcome report, in the outcome queue (§1.5, R41). -/
structure Nest where
  serial : Nat
  entryCount : Nat
  noManifest : Bool
  purged : Bool
  confirm : Option Nat
  reportsLost : Option Nat
  packs : Lanes Pack
  deriving DecidableEq, Repr

/-- The track configuration, with its defaults (§1.1). -/
structure TrackConfig where
  length : Nat := 12
  form : Option Nat := none
  sealPos : Nat := 6
  stallLimit : Nat := 1000
  threshold : Option Nat := some 4
  verdictRequired : Bool := false
  manifestRequired : Bool := false
  deriving DecidableEq, Repr

/-- The Nest Track. A timer is the millisecond at which it expires; `steps` holds the milliseconds at which the synthetic
INDEX-DONEs of the STEPs taken are due, the earliest first (R8). -/
structure Track where
  mode : TrackMode := .halted
  index : IndexState := .dwell
  stallTimer : Option Nat := none
  slots : List (Option Nest) := List.replicate 12 none
  serial : Nat := 1
  indexCount : Nat := 0
  steps : List Nat := []
  config : TrackConfig := {}
  manifests : List (Lanes Nat) := []
  outcomes : List Nest := []
  lost : Nat := 0
  deriving DecidableEq, Repr

/-! ### Head Engines (chapters 4, 5, 6 and 9) -/

/-- The thirteen parameters with their defaults (§4.1). -/
structure HeadParams where
  binding : Option (Station × Fin 8) := none
  source : StartSource := .index
  startDelay : Nat := 0
  samplePeriod : Nat := 10
  standby : Nat := 0
  ceiling : Nat := 2500
  band : Nat := 50
  settle : Nat := 500
  lowExtended : Bool := false
  autoReject : Bool := true
  holdOnSafe : Bool := true
  openLimit : Nat := 1000
  loopMode : LoopMode := .normal
  deriving DecidableEq, Repr

/-- Whether a cycle runs on a pack or for CYCLE-ONCE (chapter 4). -/
inductive Origin where
  | pack | once
  deriving DecidableEq, Repr

/-- The verdict of a dose evaluation (R127). -/
inductive DoseVerdict where
  | ok | low | high
  deriving DecidableEq, Repr

/-- What a cycle record holds from the cycle's start (chapter 4, R75), with the segment copy, the dose accumulator, and
the start and expiry of the current segment. -/
structure Run where
  profile : Nat
  base : Nat
  cap : Nat
  window : Option (Nat × Nat)
  resealAllowed : Bool
  segments : List Segment
  current : Nat
  segStart : Nat
  segDue : Nat
  resealUsed : Bool
  ceilingClamped : Bool
  outputClamped : Bool
  lowSeen : Bool
  tainted : Bool
  closure : Option Nat
  verdict : Option DoseVerdict
  dose : Nat
  deriving DecidableEq, Repr

/-- A cycle record; `run` is absent while the cycle is PENDING (chapter 4). -/
structure Cycle where
  origin : Origin
  run : Option Run
  deriving DecidableEq, Repr

/-- A pack reference (chapter 4). -/
structure PackRef where
  serial : Nat
  lane : Fin 8
  station : Station
  deriving DecidableEq, Repr

/-- Where a release phase leads (R84). -/
inductive ReleaseDest where
  | ready | heating | safe
  deriving DecidableEq, Repr

/-- A release record (chapter 4). -/
structure Release where
  due : Nat
  dest : ReleaseDest
  secondaryOwed : Bool
  deriving DecidableEq, Repr

/-- A ramp record: the segment's start and duration, the elapsed time of the next step, and the start value S0 and target
T of each output the ramp moves (chapter 5). -/
structure Ramp where
  start : Nat
  duration : Nat
  next : Nat
  temperature : Option (Nat × Nat)
  pressure : Option (Nat × Nat)
  deriving DecidableEq, Repr

/-- The two edges a virtual-edge timer may be due to give (R165). -/
inductive VirtualEdge where
  | closed | opened
  deriving DecidableEq, Repr

/-- Monitor state (chapter 6). `live` holds the live conditions in the bits of R197. -/
structure Monitor where
  sampleTimer : Option Nat := none
  lowRun : Nat := 0
  nonLowRun : Nat := 0
  highRun : Nat := 0
  nonHighRun : Nat := 0
  live : Byte := 0
  ready : Nat := 0
  inject : Nat := 0
  deriving DecidableEq, Repr

/-- The six counters (§6.8). -/
structure Counters where
  deviations : Nat := 0
  sensorFaults : Nat := 0
  started : Nat := 0
  failed : Nat := 0
  reseals : Nat := 0
  longest : Nat := 0
  deriving DecidableEq, Repr

/-- One head engine (chapters 4, 5, 6 and 9). -/
structure Head where
  params : HeadParams := {}
  state : HeadState := .offline
  platen : PlatenState := .unknown
  cycle : Option Cycle := none
  packRef : Option PackRef := none
  startTimer : Option Nat := none
  release : Option Release := none
  tempSet : Nat := 0
  presSet : Nat := 0
  heaterCode : Nat := 0
  pressureCode : Nat := 0
  ramp : Option Ramp := none
  tempChanged : Option Nat := none
  coeffs : CoeffItems := ⟨0, 0, 0, 0⟩
  closeOut : Bool := false
  auxOut : Bool := false
  virtual : Option (VirtualEdge × Nat) := none
  monitor : Monitor := {}
  counters : Counters := {}
  held : Counters := {}
  deriving DecidableEq, Repr

/-! ### Status Unit (chapter 8) -/

/-- The first cycle record of solicited content (§8.1). -/
structure CycleRecord where
  origin : Origin
  serial : Option Nat
  lane : Option (Fin 8)
  result : StationResult
  deriving DecidableEq, Repr

/-- Solicited content (§8.1): `kinds` in the bits of R197, `reasons` with bit n − 1 for end reason code n. -/
structure Solicited where
  kinds : Byte
  reasons : BitVec 16
  first : Option CycleRecord
  notify : Option Nat
  merged : Nat
  deriving DecidableEq, Repr

/-- A head's pending status (R149). -/
inductive PendingStatus where
  | empty | solicited (c : Solicited) | alert
  deriving DecidableEq, Repr

/-- A head's status record (§8.1); its live set is the monitor's, stored there. -/
structure HeadStatus where
  pending : PendingStatus := .empty
  held : Option Solicited := none
  changed : Byte := 0
  enable : Byte := 0
  owed : Bool := false
  deriving DecidableEq, Repr

/-- The track status (§8.7): the changed set and the enable mask in the bits of R198, and the owed flag. -/
structure TrackStatus where
  changed : Byte := 0
  enable : Byte := 0x3F
  owed : Bool := false
  deriving DecidableEq, Repr

/-! ### Gate Unit (chapter 7) -/

/-- The gate configuration, with its defaults (§7.1). -/
structure GateConfig where
  punchDelay : Nat := 100
  punchWidth : Nat := 60
  diverterDelay : Nat := 150
  diverterWidth : Nat := 80
  confirmGrace : Nat := 100
  deriving DecidableEq, Repr

/-- Punch phases (§7.2). -/
inductive PunchPhase where
  | delay | asserted | done | cut
  deriving DecidableEq, Repr

/-- Diverter phases (§7.2). -/
inductive DiverterPhase where
  | delay | pulse | window | done | cut
  deriving DecidableEq, Repr

/-- The gate activity record (§7.2). -/
structure GateActivity where
  serial : Nat
  punch : PunchPhase
  diverter : DiverterPhase
  diverted : Option Byte
  confirm : Option Nat
  deriving DecidableEq, Repr

/-- The Gate Unit. `punchTimer` is the punch delay or width, `diverterTimer` the diverter delay or width, as the phases
say. -/
structure Gate where
  config : GateConfig := {}
  activity : Option GateActivity := none
  punchTimer : Option Nat := none
  diverterTimer : Option Nat := none
  windowTimer : Option Nat := none
  punchOut : Bool := false
  diverterOut : Byte := 0
  deriving DecidableEq, Repr

/-! ### Coefficient Store (chapter 10) -/

/-- A nonvolatile record: four data items and the check (R174). -/
structure StoreRecord where
  items : CoeffItems
  check : Half
  deriving DecidableEq, Repr

/-- The store state with what the operation under way holds (chapter 10): the results of a load, none for a record that
failed its check (R175); the head of a read; the head and the items of a write. -/
inductive StoreOp where
  | loading (judged : List (Option CoeffItems))
  | idle
  | reading (head : Fin 16)
  | writing (head : Fin 16) (items : CoeffItems)
  deriving DecidableEq, Repr

/-- The Coefficient Store; `due` is when the record being read or written is done. -/
structure Store where
  records : Bank StoreRecord
  op : StoreOp
  due : Nat
  lastWrite : Option (Fin 16)
  deriving DecidableEq, Repr

/-! ### Message Link (chapter 11) -/

/-- The receiver (R183). In CHECK with two check bytes collected the frame waits to be judged. -/
inductive Receiver where
  | hunt | sync | length
  | body (length : Nat) (bytes : List Byte)
  | check (length : Nat) (bytes : List Byte) (checks : List Byte)
  deriving DecidableEq, Repr

/-- Where the message being sent came from (R189): a reply slot, the outcome queue, a notice, or a source that a soft
reset has removed. -/
inductive Source where
  | reply | report | notice | removed
  deriving DecidableEq, Repr

/-- The message being sent and the millisecond by which its last byte is out. -/
structure Sending where
  frame : Frame
  source : Source
  due : Nat
  deriving DecidableEq, Repr

/-- A reserved reply slot: the request kind and tag of the reply it waits for (R186, R187). -/
structure Reserved where
  kind : Byte
  tag : Byte
  deriving DecidableEq, Repr

/-- The Message Link. The free slots are those of the eight that are neither reserved nor filled; `filled` stands in the
order in which the replies were formed (R187). -/
structure Link where
  receiver : Receiver := .hunt
  lastByte : Option Nat := none
  buffer : List Frame := []
  reserved : List Reserved := []
  filled : List Frame := []
  sending : Option Sending := none
  deriving DecidableEq, Repr

/-! ### Input lines -/

/-- The input lines of one head that are read as levels: what its temperature converter port delivers (none: the sensor
is open), and its two platen sensors (scope, Connections). -/
structure HeadLines where
  reading : Option Nat := none
  closedLevel : Bool := false
  openLevel : Bool := false
  deriving DecidableEq, Repr

/-- The input lines that are read as levels. -/
structure Lines where
  heads : Bank HeadLines := Bank.fill {}
  hostHold : Bool := false
  deriving DecidableEq, Repr

/-! ### The whole machine -/

/-- The device. `now` is the millisecond of the timebase, `draws` counts the free values drawn, `pending` is the queue of
commands that wait. -/
@[ext]
structure State where
  now : Nat
  link : Link
  track : Track
  causes : Byte
  trackStatus : TrackStatus
  library : Library
  heads : Bank Head
  statuses : Bank HeadStatus
  gate : Gate
  store : Store
  lines : Lines
  draws : Nat
  pending : List Instr
  deriving DecidableEq, Repr

/-- The reasons a step could fault: none. The spec describes no event that stops the device, so nothing raises a fault;
safe, since no command is cut short. -/
inductive Fault where
  deriving DecidableEq, Repr

/-- The reasons a step could be refused. -/
inductive Refusal where
  /-- A command without a meaning, raised by `exec` alone; no arm raises it. Safe: the machine stops by name. -/
  | notModelled (mnemonic : String)
  deriving DecidableEq, Repr

/-- A record of a new part: every byte 255 (R174's note; DESIGN CHOICE, log entry 6). -/
def StoreRecord.unprogrammed : StoreRecord :=
  ⟨⟨0xFFFF, 0xFFFF, 0xFFFF, 0xFFFF⟩, 0xFFFF⟩

/-- The device right after a device reset (R23, R64, R95, R109, R134, R147, R161, R162, R173, R175, R180, R191), a new
part at millisecond 0, with its input lines inactive (log entries 2, 5 and 6). -/
def State.reset : State where
  now := 0
  link := {}
  track := {}
  causes := 0
  trackStatus := {}
  library := ⟨[], []⟩
  heads := Bank.fill {}
  statuses := Bank.fill {}
  gate := {}
  store := ⟨Bank.fill StoreRecord.unprogrammed, .loading [], Config.storeReadTime, none⟩
  lines := {}
  draws := 0
  pending := []

end Sys2Proof.Machine
end

