-- ==== Sys2Proof/Machine/Codes.lean ====
section
/-! DEFINITION. The numeric codes and set bits of chapter 12 (R197, R198, R200, R203), sets as bit masks, and values as
bytes (R192). -/

namespace Sys2Proof.Machine

/-! ### Sets as bit masks (R192) -/

/-- Member `i` joins a set. -/
def BitSet.add {w : Nat} (x : BitVec w) (i : Nat) : BitVec w :=
  x ||| BitVec.twoPow w i

/-- Member `i` leaves a set. -/
def BitSet.remove {w : Nat} (x : BitVec w) (i : Nat) : BitVec w :=
  x &&& ~~~(BitVec.twoPow w i)

/-- Whether member `i` is in a set. -/
def BitSet.has {w : Nat} (x : BitVec w) (i : Nat) : Bool :=
  x.getLsbD i

/-- How many of the eight lanes a lane mask holds. -/
def laneCount (x : Byte) : Nat :=
  allLanes.countP fun i => BitSet.has x i.val

/-! ### Values as bytes, high byte first (R192) -/

/-- One byte. -/
def u8 (n : Nat) : List Byte :=
  [BitVec.ofNat 8 n]

/-- Two bytes. -/
def u16 (n : Nat) : List Byte :=
  bytes16 (BitVec.ofNat 16 n)

/-- Four bytes. -/
def u32 (n : Nat) : List Byte :=
  u16 (n / 65536) ++ u16 n

/-- `n` bytes of 0: an absent field (R192). -/
def zeros (n : Nat) : List Byte :=
  List.replicate n 0

/-- A mark as a number: 1 when set. -/
def mark (b : Bool) : Nat :=
  if b then 1 else 0

/-- A byte of marks, bit 0 first. -/
def marks : List Bool → Nat
  | [] => 0
  | b :: rest => mark b + 2 * marks rest

/-! ### Codes -/

/-- Result codes (R200). -/
def Result.code : Result → Nat
  | .ok => 0 | .unknownKind => 1 | .badLength => 2 | .badValue => 3 | .wrongMode => 4 | .wrongState => 5
  | .inUse => 6 | .noRoom => 7 | .unknownFormat => 8 | .unknownProfile => 9 | .laneNotAllowed => 10
  | .queueFull => 11 | .notFound => 12 | .late => 13 | .storeBusy => 14 | .notLoaded => 15 | .conflict => 16
  | .profileInvalid => 17

/-- Reject reason codes (R200). -/
def RejectReason.code : RejectReason → Nat
  | .verdict => 1 | .noVerdict => 2 | .noHead => 3 | .formDoseLow => 4 | .formDoseHigh => 5
  | .sealDoseLow => 6 | .sealDoseHigh => 7 | .closeLate => 8 | .openLate => 9 | .overrun => 10
  | .halted => 11 | .cancelled => 12 | .startTimeout => 13 | .lowTemp => 14 | .sensor => 15
  | .heatSafe => 16 | .platenFault => 17 | .dryRun => 18 | .purged => 19 | .closedAtIndex => 20

/-- The reject-reason set of one reason: bit n − 1 for code n (R196). -/
def RejectReason.set (r : RejectReason) : BitVec 32 :=
  BitVec.twoPow 32 (r.code - 1)

/-- End reason codes (R200); 5 is reserved. -/
def EndReason.code : EndReason → Nat
  | .complete => 1 | .completeResealed => 2 | .doseLow => 3 | .doseHigh => 4 | .closeLate => 6
  | .openLate => 7 | .overrun => 8 | .halted => 9 | .safeHigh => 10 | .safeSensor => 11
  | .platenFault => 12 | .startTimeout => 13 | .cancelled => 14 | .skipped => 15

/-- The end-reason set of one reason: bit n − 1 for code n (R197). -/
def EndReason.set (r : EndReason) : BitVec 16 :=
  BitVec.twoPow 16 (r.code - 1)

/-- The bit of a condition (R197). -/
def Cond.bit : Cond → Nat
  | .low => 0 | .high => 1 | .sensor => 2 | .platen => 3 | .countFull => 4 | .uncal => 5

/-- The bit of a track event in the changed set (R198). -/
def TrackEvent.bit : TrackEvent → Nat
  | .indexSequence => 0 | .noManifest => 1 | .gateMismatch => 2 | .gateCut => 3 | .holdChanged => 4
  | .manifestLow => 5

/-- The bit of a line-hold cause (R203). -/
def Cause.bit : Cause → Nat
  | .indexStall => 0 | .indexWhileClosed => 1 | .platenStuck => 2 | .gateMismatch => 3 | .gateCut => 4
  | .manifestEmpty => 5 | .headSafe => 6 | .outcomeBacklog => 7

/-- The live causes, HEAD_SAFE and OUTCOME_BACKLOG (§1.7). -/
def liveCauses : Byte := 0xC0

/-- The six conditions as a mask (R192: mask bits that name no member are ignored). -/
def condMask : Byte := 0x3F

/-- The six members of the track changed set as a mask (R198). -/
def trackEventMask : Byte := 0x3F

/-- The conditions that HEAD-OFFLINE drops: LOW, HIGH, SENSOR and PLATEN (R70). -/
def monitoredConds : Byte := 0x0F

/-- Track mode codes (R203). -/
def TrackMode.code : TrackMode → Nat
  | .halted => 0 | .run => 1 | .test => 2

/-- Index state codes (R203). -/
def IndexState.code : IndexState → Nat
  | .dwell => 0 | .moving => 1

/-- Head state codes (R203). -/
def HeadState.code : HeadState → Nat
  | .offline => 0 | .releasing => 1 | .heating => 2 | .ready => 3 | .pending => 4 | .running => 5 | .safe => 6

/-- Platen state codes (R203). -/
def PlatenState.code : PlatenState → Nat
  | .unknown => 0 | .opened => 1 | .closing => 2 | .closed => 3 | .opening => 4

/-- Station codes (R203); 0 is NONE. -/
def Station.code : Station → Nat
  | .form => 1 | .sealing => 2

/-- Start source codes (R203). -/
def StartSource.code : StartSource → Nat
  | .index => 0 | .delayed => 1 | .line => 2

/-- Loop mode codes (R203). -/
def LoopMode.code : LoopMode → Nat
  | .normal => 0 | .dry => 1 | .monitor => 2

/-- Store state codes (R203). -/
def StoreOp.code : StoreOp → Nat
  | .loading _ => 0 | .idle => 1 | .reading _ => 2 | .writing .. => 3

/-- A release destination as a head state (R202). -/
def ReleaseDest.code : ReleaseDest → Nat
  | .ready => HeadState.ready.code | .heating => HeadState.heating.code | .safe => HeadState.safe.code

/-- Origin codes (R197). -/
def Origin.code : Origin → Nat
  | .pack => 0 | .once => 1

/-- Verdict codes (R196). -/
def Verdict.code : Verdict → Nat
  | .pending => 0 | .good => 1 | .bad _ => 2 | .lateBad => 3

/-- The verdict reason number a pack record carries: 0 unless BAD (R196). -/
def Verdict.number : Verdict → Nat
  | .bad n => n | .pending | .good | .lateBad => 0

end Sys2Proof.Machine
end

