-- ==== Sys2Proof/Machine/Ops.lean ====
section
/-! DEFINITION. The named updates of the state and the operations that more than one block shares: the clock, the track
events, the line-hold cause set, writes to pack records, manifests' threshold, and one head's act within the device. -/

namespace Sys2Proof.Machine

/-! ### One field of the state replaced -/

def State.setNow (s : State) (x : Nat) : State := { s with now := x }
def State.setLink (s : State) (x : Link) : State := { s with link := x }
def State.setTrack (s : State) (x : Track) : State := { s with track := x }
def State.setCauseSet (s : State) (x : Byte) : State := { s with causes := x }
def State.setTrackStatus (s : State) (x : TrackStatus) : State := { s with trackStatus := x }
def State.setLibrary (s : State) (x : Library) : State := { s with library := x }
def State.setHeads (s : State) (x : Bank Head) : State := { s with heads := x }
def State.setStatuses (s : State) (x : Bank HeadStatus) : State := { s with statuses := x }
def State.setGate (s : State) (x : Gate) : State := { s with gate := x }
def State.setStore (s : State) (x : Store) : State := { s with store := x }
def State.setLines (s : State) (x : Lines) : State := { s with lines := x }
def State.setDraws (s : State) (x : Nat) : State := { s with draws := x }
def State.setPending (s : State) (x : List Instr) : State := { s with pending := x }

/-- The head engine of head `h`. -/
def State.head (s : State) (h : Fin 16) : Head :=
  s.heads.get h

/-- The status record of head `h`. -/
def State.status (s : State) (h : Fin 16) : HeadStatus :=
  s.statuses.get h

/-- The head engine of head `h` replaced. -/
def State.putHead (s : State) (h : Fin 16) (x : Head) : State :=
  s.setHeads (s.heads.set h x)

/-- The status record of head `h` replaced. -/
def State.putStatus (s : State) (h : Fin 16) (x : HeadStatus) : State :=
  s.setStatuses (s.statuses.set h x)

/-- The clock brought up to the moment `t` of an expiry, if it is not there yet (log entry 2). -/
def State.advanceTo (s : State) (t : Nat) : State :=
  s.setNow (max s.now t)

/-! ### Track events (R158, R159) -/

/-- A post to the track changed set: the notice becomes owed when an enabled member joins a set that holds no enabled
member (R159). -/
def TrackStatus.post (e : TrackEvent) (t : TrackStatus) : TrackStatus :=
  { t with
    changed := BitSet.add t.changed e.bit
    owed := t.owed || (BitSet.has t.enable e.bit && t.changed &&& t.enable == 0) }

/-- A track event posted to the Status Unit (R22, R158). -/
def State.postTrack (e : TrackEvent) (s : State) : State :=
  s.setTrackStatus (s.trackStatus.post e)

/-! ### Line-hold (R18 to R21) -/

/-- The level of the line-hold output: asserted exactly while the cause set is not empty (R21). -/
def State.holdAsserted (s : State) : Bool :=
  s.causes != 0

/-- The cause set replaced, with HOLD_CHANGED when the output changes level (R21). -/
def State.changeCauses (x : Byte) (s : State) : State :=
  let s' := s.setCauseSet x
  if s'.holdAsserted = s.holdAsserted then s' else s'.postTrack .holdChanged

/-- A cause made present; one already present stays as it is (R18). -/
def State.postCause (c : Cause) (s : State) : State :=
  s.changeCauses (BitSet.add s.causes c.bit)

/-- A cause removed. -/
def State.dropCause (c : Cause) (s : State) : State :=
  s.changeCauses (BitSet.remove s.causes c.bit)

/-- Whether a head makes HEAD_SAFE present: hold-on-safe on, and in SAFE (R19). -/
def Head.holdsSafe (x : Head) : Bool :=
  x.params.holdOnSafe && x.state == .safe

/-- HEAD_SAFE made to follow the heads (R19). -/
def State.evalHeadSafe (s : State) : State :=
  if s.heads.toList.any Head.holdsSafe then s.postCause .headSafe else s.dropCause .headSafe

/-! ### Nests and packs (R14, R15) -/

/-- Reasons joined to a pack's reject-reason set; an empty pack accepts none (R14). -/
def Pack.addReasons (x : BitVec 32) (p : Pack) : Pack :=
  if p.format = 0 then p else { p with reasons := p.reasons ||| x }

/-- A station result stored whole in the field of the head's station (R15). -/
def Pack.putResult (st : Station) (r : StationResult) (p : Pack) : Pack :=
  match st with
  | .form => { p with formResult := some r }
  | .sealing => { p with sealResult := some r }

/-- The first nest with a serial number among slots that begin at position `p`, with its position. -/
def findNestFrom (serial : Nat) : Nat → List (Option Nest) → Option (Nat × Nest)
  | _, [] => none
  | p, none :: rest => findNestFrom serial (p + 1) rest
  | p, some n :: rest => if n.serial = serial then some (p, n) else findNestFrom serial (p + 1) rest

/-- The nest in the track with a serial number, with its position (R15, R17). -/
def Track.find (t : Track) (serial : Nat) : Option (Nat × Nest) :=
  findNestFrom serial 0 t.slots

/-- The nest at a position (R1). -/
def Track.nestAt (t : Track) (p : Nat) : Option Nest :=
  (t.slots[p]?).join

/-- A write addressed by serial number, at whatever position the nest stands; dropped where no nest in the track carries it
(R15). -/
def Track.updateNest (serial : Nat) (f : Nest → Nest) (t : Track) : Track :=
  { t with slots := t.slots.map (Option.map fun n => if n.serial = serial then f n else n) }

/-- A pack of a nest rewritten. -/
def Nest.updatePack (lane : Fin 8) (f : Pack → Pack) (n : Nest) : Nest :=
  { n with packs := n.packs.modify lane f }

/-- A write to a pack record, addressed by nest serial number and lane (R15). -/
def Track.updatePack (serial : Nat) (lane : Fin 8) (f : Pack → Pack) (t : Track) : Track :=
  t.updateNest serial (Nest.updatePack lane f)

/-- The pack that a pack reference names, while its nest is in the track. -/
def Track.packOf (t : Track) (r : PackRef) : Option Pack :=
  (t.find r.serial).map fun x => x.2.packs.get r.lane

/-! ### The manifest threshold (R30) -/

/-- Whether MANIFEST_LOW is present (R30). -/
def Track.manifestLow (t : Track) : Bool :=
  match t.config.threshold with
  | none => false
  | some k => decide (t.manifests.length ≤ k)

/-- The track replaced by an act that may change the manifest count or the threshold: a change of MANIFEST_LOW's presence is
a crossing and sets its changed flag (R30). -/
def State.crossManifest (t : Track) (s : State) : State :=
  let s' := s.setTrack t
  if t.manifestLow = s.track.manifestLow then s' else s'.postTrack .manifestLow

/-- The track live set in the bits of R198 (R158). -/
def State.trackLive (s : State) : Byte :=
  BitVec.ofNat 8 (marks [s.track.manifestLow, s.holdAsserted, BitSet.has s.causes Cause.outcomeBacklog.bit])

/-! ### One head's act (R15, R20, R83) -/

/-- What a head's act does outside its own record and status. -/
inductive HeadEffect where
  /-- A station result and reject reasons written to a pack in one write (R82). -/
  | result (ref : PackRef) (r : StationResult) (reasons : BitVec 32)
  /-- Reject reasons added to a pack (R73, R92). -/
  | reasons (serial : Nat) (lane : Fin 8) (reasons : BitVec 32)
  /-- A latching line-hold cause posted (R85, R92). -/
  | cause (c : Cause)
  deriving DecidableEq, Repr

/-- One head while it acts: the moment, its number, the levels of its platen sensors, its own record and status record, and
what it has done outside them so far. -/
structure HeadCtx where
  now : Nat
  id : Fin 16
  closedLevel : Bool
  openLevel : Bool
  head : Head
  status : HeadStatus
  out : List HeadEffect
  deriving DecidableEq, Repr

/-- Head `h` about to act. -/
def State.ctx (s : State) (h : Fin 16) : HeadCtx :=
  let l := s.lines.heads.get h
  ⟨s.now, h, l.closedLevel, l.openLevel, s.head h, s.status h, []⟩

/-- One effect of a head taken by the Nest Track. -/
def HeadEffect.apply (e : HeadEffect) (s : State) : State :=
  match e with
  | .result ref r x =>
    s.setTrack (s.track.updatePack ref.serial ref.lane fun p => (p.putResult ref.station r).addReasons x)
  | .reasons serial lane x => s.setTrack (s.track.updatePack serial lane (Pack.addReasons x))
  | .cause c => s.postCause c

/-- The effects of a head in order. -/
def applyEffects : List HeadEffect → State → State
  | [], s => s
  | e :: rest, s => applyEffects rest (e.apply s)

/-- Head `h` acts: its record and status change, its effects are taken, and HEAD_SAFE is evaluated when it has entered or
left SAFE (R19). -/
def State.actHead (h : Fin 16) (f : HeadCtx → HeadCtx) (s : State) : State :=
  let c := f (s.ctx h)
  let s' := applyEffects c.out ((s.putHead h c.head).putStatus h c.status)
  if (c.head.state == .safe) = ((s.head h).state == .safe) then s' else s'.evalHeadSafe

/-- The heads act in turn, head 0 first. -/
def State.actHeads (f : Fin 16 → HeadCtx → HeadCtx) (hs : List (Fin 16)) (s : State) : State :=
  match hs with
  | [] => s
  | h :: rest => State.actHeads f rest (s.actHead h (f h))

end Sys2Proof.Machine
end

