-- ==== Sys2Proof/Machine/Flags.lean ====
section
/-! DEFINITION. A head's status record: solicited events and their merging, condition changes, and alerts (chapter 8). -/

namespace Sys2Proof.Machine

/-- A solicited event of a head (R150). -/
inductive SolicitedEvent where
  | primary (r : CycleRecord)
  | secondary
  | intermediate (segment : Nat)
  deriving DecidableEq, Repr

/-- The bit of an event's kind (R197). -/
def SolicitedEvent.bit : SolicitedEvent → Nat
  | .primary _ => 0 | .secondary => 1 | .intermediate _ => 2

/-- The cycle record an event carries, if it is a PRIMARY. -/
def SolicitedEvent.record : SolicitedEvent → Option CycleRecord
  | .primary r => some r | .secondary | .intermediate _ => none

/-- The end reason an event adds, as a set (R152). -/
def SolicitedEvent.reasons : SolicitedEvent → BitVec 16
  | .primary r => r.result.reason.set | .secondary | .intermediate _ => 0

/-- The segment number an event carries, if it is an INTERMEDIATE. -/
def SolicitedEvent.segment : SolicitedEvent → Option Nat
  | .intermediate n => some n | .primary _ | .secondary => none

/-- The content of one event alone (R151). -/
def Solicited.one (e : SolicitedEvent) : Solicited :=
  ⟨BitSet.add 0 e.bit, e.reasons, e.record, e.segment, 1⟩

/-- An event merged into content (R152). -/
def Solicited.merge (e : SolicitedEvent) (c : Solicited) : Solicited where
  kinds := BitSet.add c.kinds e.bit
  reasons := c.reasons ||| e.reasons
  first := c.first.or e.record
  notify := e.segment.or c.notify
  merged := min 255 (c.merged + 1)

/-- A solicited event taken by the Status Unit, by the head's pending status (R151). -/
def HeadStatus.post (e : SolicitedEvent) (t : HeadStatus) : HeadStatus :=
  match t.pending with
  | .empty => { t with pending := .solicited (.one e), owed := true }
  | .solicited c => { t with pending := .solicited (c.merge e) }
  | .alert =>
    match t.held with
    | none => { t with held := some (.one e) }
    | some c => { t with held := some (c.merge e) }

/-- The alert test: with the pending status empty and an enabled member in the changed set, alert content becomes pending
and a notice owed (R154). -/
def HeadStatus.alertTest (t : HeadStatus) : HeadStatus :=
  if t.pending = .empty ∧ t.changed &&& t.enable ≠ 0 then { t with pending := .alert, owed := true } else t

/-- A condition change taken by the Status Unit: the condition joins the changed set, and the alert test is made (R153,
R154). -/
def HeadStatus.change (c : Cond) (t : HeadStatus) : HeadStatus :=
  HeadStatus.alertTest { t with changed := BitSet.add t.changed c.bit }

/-- STATUS-TAKE's steps 2 to 5 (R155). -/
def HeadStatus.take (t : HeadStatus) : HeadStatus :=
  let t' : HeadStatus :=
    { t with
      pending := .empty
      owed := false
      changed := if t.pending = .alert then 0 else t.changed }
  match t.held with
  | some c => { t' with pending := .solicited c, held := none, owed := true }
  | none => t'.alertTest

/-- HEAD-CLEAR's discard of the status record; the enable mask stays (R157). -/
def HeadStatus.discard (t : HeadStatus) : HeadStatus :=
  { t with pending := .empty, held := none, changed := 0, owed := false }

/-- Whether a condition of the head is live. -/
def Head.isLive (x : Head) (c : Cond) : Bool :=
  BitSet.has x.monitor.live c.bit

/-- A condition's presence in the live set. -/
def Monitor.setLive (c : Cond) (on : Bool) (m : Monitor) : Monitor :=
  { m with live := if on then BitSet.add m.live c.bit else BitSet.remove m.live c.bit }

/-- A declaration or a clearing of a condition, posted to the Status Unit in the same act (R122). -/
def HeadCtx.setCond (c : Cond) (on : Bool) (x : HeadCtx) : HeadCtx :=
  { x with
    head := { x.head with monitor := x.head.monitor.setLive c on }
    status := x.status.change c }

/-- A solicited event posted by a head (R150). -/
def HeadCtx.post (e : SolicitedEvent) (x : HeadCtx) : HeadCtx :=
  { x with status := x.status.post e }

/-- An effect outside the head's own record. -/
def HeadCtx.emit (e : HeadEffect) (x : HeadCtx) : HeadCtx :=
  { x with out := x.out ++ [e] }

end Sys2Proof.Machine
end

