-- ==== Sys2Proof/Machine/Operands.lean ====
section
/-! DEFINITION. The operand forms: what the fields of a request stand for, with the range of each (R192, R201, R203). A
field outside its range gives none, which the owning block answers BAD_VALUE. -/

namespace Sys2Proof.Machine

/-- Whether `n` lies in a range, ends included. -/
def within (lo n hi : Nat) : Bool :=
  decide (lo ≤ n) && decide (n ≤ hi)

/-- A value when a check holds. -/
def checked {α : Type} (ok : Bool) (a : α) : Option α :=
  if ok then some a else none

/-- A mark carried at bit `i` of a byte of flags. -/
def flag (g : Byte) (i : Nat) : Bool :=
  BitSet.has g i

/-- The head that a request names; none above 15 (R65). -/
def headOf (b : Byte) : Option (Fin 16) :=
  if h : b.toNat < 16 then some ⟨b.toNat, h⟩ else none

/-- A lane number (R203); none above 7. -/
def laneOf (b : Byte) : Option (Fin 8) :=
  if h : b.toNat < 8 then some ⟨b.toNat, h⟩ else none

/-! ### TRACK-SETUP (§1.1, R2) -/

/-- A form position: 0xFF for NONE (R201). -/
def formPosition (b : Byte) : Option Nat :=
  if b.toNat = 0xFF then none else some b.toNat

/-- A manifest threshold: 0 for OFF (R201). -/
def manifestThreshold (b : Byte) : Option Nat :=
  if b.toNat = 0 then none else some b.toNat

/-- The configuration a TRACK-SETUP carries (R201). -/
def trackConfigOf (r : TrackSetupReq) : TrackConfig where
  length := r.length.toNat
  form := formPosition r.form
  sealPos := r.sealPos.toNat
  stallLimit := r.stallLimit.toNat
  threshold := manifestThreshold r.threshold
  verdictRequired := flag r.flags 0
  manifestRequired := flag r.flags 1

/-- The value check of R2: every item within the range of §1.1. -/
def TrackConfig.valid (c : TrackConfig) : Bool :=
  within 4 c.length 24 &&
  (match c.form with
   | none => true
   | some f => decide (f + 3 ≤ c.length) && decide (f < c.sealPos)) &&
  (decide (1 ≤ c.sealPos) && decide (c.sealPos + 2 ≤ c.length)) &&
  within 100 c.stallLimit 3000 &&
  (match c.threshold with
   | none => true
   | some k => k == 2 || k == 4 || k == 8)

/-! ### GATE-SETUP (§7.1, R135) -/

/-- The configuration a GATE-SETUP carries (R201). -/
def gateConfigOf (r : GateSetupReq) : GateConfig where
  punchDelay := r.punchDelay.toNat
  punchWidth := r.punchWidth.toNat
  diverterDelay := r.diverterDelay.toNat
  diverterWidth := r.diverterWidth.toNat
  confirmGrace := r.confirmGrace.toNat

/-- The ranges of §7.1. -/
def GateConfig.valid (c : GateConfig) : Bool :=
  within 0 c.punchDelay 1000 && within 10 c.punchWidth 500 && within 0 c.diverterDelay 2000 &&
  within 20 c.diverterWidth 500 && within 0 c.confirmGrace 500

/-! ### HEAD-SETUP (§4.1, R65) -/

/-- A binding: the lane is not examined when the station is NONE (R201). The outer none is a code outside the range. -/
def bindingOf (station lane : Byte) : Option (Option (Station × Fin 8)) :=
  match station.toNat with
  | 0 => some none
  | 1 => (laneOf lane).map fun l => some (.form, l)
  | 2 => (laneOf lane).map fun l => some (.sealing, l)
  | _ => none

/-- A start source (R203). -/
def startSourceOf (b : Byte) : Option StartSource :=
  match b.toNat with
  | 0 => some .index
  | 1 => some .delayed
  | 2 => some .line
  | _ => none

/-- A loop mode (R203). -/
def loopModeOf (b : Byte) : Option LoopMode :=
  match b.toNat with
  | 0 => some .normal
  | 1 => some .dry
  | 2 => some .monitor
  | _ => none

/-- A value brought into a range: the sample period and the band are clamped, not refused (R65). -/
def clampTo (lo hi n : Nat) : Nat :=
  max lo (min hi n)

/-- The thirteen parameters a HEAD-SETUP carries, the sample period and the band clamped; none when another item lies
outside its range (R65). -/
def headParamsOf (r : HeadSetupReq) : Option HeadParams :=
  match bindingOf r.station r.lane, startSourceOf r.source, loopModeOf r.loopMode with
  | some binding, some source, some loopMode =>
    checked
      (within 0 r.startDelay.toNat 2000 && within 500 r.ceiling.toNat 3000 &&
        decide (r.standby.toNat ≤ r.ceiling.toNat) && within 0 r.settle.toNat 5000 &&
        within 100 r.openLimit.toNat 3000)
      { binding, source, loopMode
        startDelay := r.startDelay.toNat
        samplePeriod := clampTo 5 100 r.samplePeriod.toNat
        standby := r.standby.toNat
        ceiling := r.ceiling.toNat
        band := clampTo 5 300 r.band.toNat
        settle := r.settle.toNat
        lowExtended := flag r.flags 0
        autoReject := flag r.flags 1
        holdOnSafe := flag r.flags 2
        openLimit := r.openLimit.toNat }
  | _, _, _ => none

/-! ### FORMAT-PUT (R47, R48) -/

/-- The dose items of one station. -/
def doseItemsOf (d : DoseFields) : DoseItems where
  base := d.base.toNat
  cap := d.cap.toNat
  windowMin := d.windowMin.toNat
  windowMax := d.windowMax.toNat

/-- The ranges of R47 for one station's dose items. -/
def DoseItems.valid (d : DoseItems) : Bool :=
  decide (d.base ≤ 3000) && decide (d.base < d.cap) && decide (d.cap ≤ 4000) && decide (d.windowMin ≤ d.windowMax)

/-- A format code (scope, Identifiers). -/
def formatCodeOk (n : Nat) : Bool :=
  within 1 n 250

/-- A profile id (scope, Identifiers). -/
def profileIdOk (n : Nat) : Bool :=
  within 1 n 24

/-- The record a FORMAT-PUT carries; none for a value that R48's first check refuses. The form fields are not examined when
the form profile is absent. -/
def formatOf (r : FormatReq) : Option Format :=
  let form := if flag r.flags 0 then some (r.formProfile.toNat, doseItemsOf r.formDose) else none
  checked
    (formatCodeOk r.code.toNat && r.laneMask != 0 && profileIdOk r.sealProfile.toNat &&
      (doseItemsOf r.sealDose).valid &&
      (match form with
       | none => true
       | some (id, d) => profileIdOk id && d.valid))
    { laneMask := r.laneMask, form
      sealProfile := r.sealProfile.toNat
      sealDose := doseItemsOf r.sealDose
      resealAllowed := flag r.flags 1
      skipRejected := flag r.flags 2 }

/-! ### PROFILE-PUT (R55, R56, R194) -/

/-- A segment kind (R194). -/
def segKindOf (b : Byte) : Option SegKind :=
  match b.toNat with
  | 1 => some .close
  | 2 => some .hold
  | 3 => some .ramp
  | 4 => some .openUp
  | _ => none

/-- A target at most `top` when its presence bit is set; the bytes of an absent target are not examined (R192). The outer
none is a value outside the range. -/
def targetOf (present : Bool) (x : Half) (top : Nat) : Option (Option Nat) :=
  if present then checked (decide (x.toNat ≤ top)) (some x.toNat) else some none

/-- A segment; none for a value that R56 refuses. -/
def segmentOf (r : SegmentReq) : Option Segment :=
  match segKindOf r.kind, targetOf (flag r.flags 4) r.temperature 3000, targetOf (flag r.flags 5) r.pressure 800 with
  | some kind, some temperature, some pressure =>
    some
      { kind, temperature, pressure
        duration := r.duration.toNat
        dose := flag r.flags 0
        aux := flag r.flags 1
        notify := flag r.flags 2
        resealPoint := flag r.flags 3 }
  | _, _, _ => none

/-- The segments of a PROFILE-PUT; none when one is refused. -/
def segmentList : List SegmentReq → Option (List Segment)
  | [] => some []
  | r :: rest =>
    match segmentOf r, segmentList rest with
    | some g, some gs => some (g :: gs)
    | _, _ => none

/-! ### CYCLE-ONCE (R170) -/

/-- The window a CYCLE-ONCE carries, when its mark is set. -/
def windowOf (r : CycleOnceReq) : Option (Nat × Nat) :=
  if flag r.flags 0 then some (r.windowMin.toNat, r.windowMax.toNat) else none

/-- The value check of R170 on the profile id and the window. -/
def cycleOnceOk (r : CycleOnceReq) : Bool :=
  profileIdOk r.profile.toNat &&
  (match windowOf r with
   | none => true
   | some (lo, hi) => decide (lo ≤ hi))

end Sys2Proof.Machine
end

