-- ==== Sys2Proof/Machine/Setpoint.lean ====
section
/-! DEFINITION. The Setpoint Path of a head: targets and the ceiling, ramps, ideal codes, calibration correction, and what
the converter ports present (chapter 5). -/

namespace Sys2Proof.Machine

/-! ### Correction (R102 to R104) -/

/-- The two converter outputs of a head. -/
inductive Output where
  | heater | pressure
  deriving DecidableEq, Repr

/-- The ideal code of a setpoint (R102). -/
def idealCode (o : Output) (setpoint : Nat) : Nat :=
  match o with
  | .heater => setpoint * 20
  | .pressure => setpoint * 64

/-- The rounded sum of R103 before its limit, in the whole-number form the rule gives. -/
def correctedSum (ideal : Nat) (gain offset : Half) : Int :=
  ((ideal : Int) * (262144 + gain.toInt) + offset.toInt * 65536 + 131072) / 262144

/-- A corrected value limited to 0 to 65535, and whether the limit changed it (R103). -/
def limitCode (x : Int) : Nat × Bool :=
  if x < 0 then (0, true) else if 65535 < x then (65535, true) else (x.toNat, false)

/-- The corrected code of a setpoint; 0 is off, without correction (R104). -/
def correctedCode (o : Output) (c : CoeffItems) (setpoint : Nat) : Nat × Bool :=
  if setpoint = 0 then (0, false)
  else
    match o with
    | .heater => limitCode (correctedSum (idealCode .heater setpoint) c.tempGain c.tempOffset)
    | .pressure => limitCode (correctedSum (idealCode .pressure setpoint) c.presGain c.presOffset)

/-! ### Presentation (R105, R106) -/

/-- Whether both ports are held at 0: OFFLINE, SAFE, or DRY mode (R106). -/
def Head.portsOff (x : Head) : Bool :=
  x.state == .offline || x.state == .safe || x.params.loopMode == .dry

/-- The code an output presents for a setpoint, and whether the limit acted (R106). -/
def Head.present (o : Output) (setpoint : Nat) (x : Head) : Nat × Bool :=
  if x.portsOff then (0, false) else correctedCode o x.coeffs setpoint

/-- The cycle record of what has started rewritten, if there is one. -/
def Head.updateRun (f : Run → Run) (x : Head) : Head :=
  { x with cycle := x.cycle.map fun c => { c with run := c.run.map f } }

/-- The cycle record of a cycle that has started. -/
def Head.run? (x : Head) : Option Run :=
  x.cycle.bind Cycle.run

/-- The output-clamped flag, set while a cycle is present when the limit acted (R103). -/
def Head.noteClamp (clamped : Bool) (x : Head) : Head :=
  if clamped then x.updateRun fun r => { r with outputClamped := true } else x

/-- The temperature setpoint changed inside a cycle: a value it already holds is no change (R101, R105). -/
def Head.setTemp (now v : Nat) (x : Head) : Head :=
  if v = x.tempSet then x
  else
    Head.noteClamp (x.present .heater v).2
      { x with tempSet := v, tempChanged := some now, heaterCode := (x.present .heater v).1 }

/-- The pressure setpoint changed inside a cycle (R101, R105). -/
def Head.setPres (v : Nat) (x : Head) : Head :=
  if v = x.presSet then x
  else Head.noteClamp (x.present .pressure v).2 { x with presSet := v, pressureCode := (x.present .pressure v).1 }

/-- A state entered outside a running cycle, with the setpoints R96 gives it and the codes R106 gives those; the time of a
temperature change is recorded (R101). -/
def Head.rest (now : Nat) (st : HeadState) (temperature : Nat) (x : Head) : Head :=
  let y := { x with state := st }
  { y with
    tempSet := temperature
    presSet := 0
    tempChanged := if temperature = x.tempSet then x.tempChanged else some now
    heaterCode := (y.present .heater temperature).1
    pressureCode := (y.present .pressure 0).1 }

/-! ### Targets (R97, R98) -/

/-- A temperature target limited to the ceiling (R98). -/
def Head.ceiled (target : Nat) (x : Head) : Nat :=
  min target x.params.ceiling

/-- The ceiling-clamped flag, set when a target lies above the ceiling (R98). -/
def Head.noteCeiling (target : Nat) (x : Head) : Head :=
  if x.params.ceiling < target then x.updateRun fun r => { r with ceilingClamped := true } else x

/-- A temperature target applied as a step; an absent one leaves the setpoint (R76, R97). -/
def Head.stepTemp (now : Nat) (target : Option Nat) (x : Head) : Head :=
  match target with
  | none => x
  | some t => (x.noteCeiling t).setTemp now (x.ceiled t)

/-- A pressure target applied as a step; an absent one leaves the setpoint (R76, R97). -/
def Head.stepPres (target : Option Nat) (x : Head) : Head :=
  match target with
  | none => x
  | some t => x.setPres t

/-! ### Ramps (R99, R100) -/

/-- The value of a ramp step: S0 plus the whole part of (T − S0) × e / D, truncated toward zero (R99). -/
def rampValue (start target elapsed duration : Nat) : Nat :=
  ((start : Int) + Int.tdiv (((target : Int) - start) * elapsed) duration).toNat

/-- Both outputs of a ramp at an elapsed time (R99). -/
def Head.rampTo (now elapsed : Nat) (p : Ramp) (x : Head) : Head :=
  let y := match p.temperature with
    | none => x
    | some (s0, t) => x.setTemp now (rampValue s0 t elapsed p.duration)
  match p.pressure with
  | none => y
  | some (s0, t) => y.setPres (rampValue s0 t elapsed p.duration)

/-- Both outputs of a ramp at its target (R100). -/
def Head.rampEnd (now : Nat) (p : Ramp) (x : Head) : Head :=
  let y := match p.temperature with
    | none => x
    | some (_, t) => x.setTemp now t
  match p.pressure with
  | none => y
  | some (_, t) => y.setPres t

/-- A ramp begun: each output with a target moves from where it stands to its target, the temperature's limited to the
ceiling (R98, R99). A ramp of duration 0 reaches its target at once (R100). -/
def Head.startRamp (now : Nat) (g : Segment) (x : Head) : Head :=
  let y := match g.temperature with
    | none => x
    | some t => x.noteCeiling t
  let p : Ramp :=
    { start := now
      duration := g.duration
      next := Config.rampPeriod
      temperature := g.temperature.map fun t => (x.tempSet, x.ceiled t)
      pressure := g.pressure.map fun t => (x.presSet, t) }
  if g.duration = 0 then y.rampEnd now p
  else if g.temperature.isSome || g.pressure.isSome then { y with ramp := some p }
  else y

/-- When a ramp's next step is due: at each multiple of 10 ms below the duration (R99). -/
def Ramp.due (p : Ramp) : Option Nat :=
  if p.next < p.duration then some (p.start + p.next) else none

/-- The setpoints of a segment at its start: a step for CLOSE, HOLD and OPEN, a ramp for RAMP; OPEN sets pressure to 0
(R97). -/
def Head.applyTargets (now : Nat) (g : Segment) (x : Head) : Head :=
  match g.kind with
  | .close | .hold => (x.stepTemp now g.temperature).stepPres g.pressure
  | .openUp => (x.setPres 0).stepTemp now g.temperature
  | .ramp => x.startRamp now g

end Sys2Proof.Machine
end

