-- ==== Sys2Proof/Machine/Head.lean ====
section
/-! DEFINITION. Head cycles: the platen, selection and start, segments, the ends of a cycle, the release phase, SAFE, and
what an index edge does (chapters 4 and 9). Every operation acts on one head alone; what it does to packs and to line-hold
is an effect that the Nest Track takes. -/

namespace Sys2Proof.Machine

/-! ### The recipe library as a head reads it (R50, R63) -/

/-- The record under a key. -/
def lookupKey {α : Type} (k : Nat) : List (Nat × α) → Option α
  | [] => none
  | (k', a) :: rest => if k' = k then some a else lookupKey k rest

/-- The format stored under a code (R47). -/
def Library.format (l : Library) (code : Nat) : Option Format :=
  lookupKey code l.formats

/-- The profile stored under an id (R54). -/
def Library.profile (l : Library) (id : Nat) : Option (List Segment) :=
  lookupKey id l.profiles

/-- The profile id and dose items a format gives a station (R47). -/
def Format.forStation (st : Station) (f : Format) : Option (Nat × DoseItems) :=
  match st with
  | .form => f.form
  | .sealing => some (f.sealProfile, f.sealDose)

/-! ### Small pieces -/

/-- The head's own record rewritten. -/
def HeadCtx.mapHead (f : Head → Head) (x : HeadCtx) : HeadCtx :=
  { x with head := f x.head }

/-- What a command does to a platen that is not open: CLOSING and CLOSED become OPENING (R71). -/
def PlatenState.retract : PlatenState → PlatenState
  | .closing | .closed => .opening
  | .unknown => .unknown
  | .opened => .opened
  | .opening => .opening

/-- Whether the head runs in DRY loop mode (R164). -/
def Head.isDry (x : Head) : Bool :=
  x.params.loopMode == .dry

/-- Whether the head drives its close and aux outputs: NORMAL mode (R72). -/
def Head.drives (x : Head) : Bool :=
  x.params.loopMode == .normal

/-- In DRY, the virtual-edge timer becomes due to give CLOSED (R165). -/
def Head.virtualClose (now : Nat) (x : Head) : Head :=
  if x.isDry then { x with virtual := some (.closed, now + Config.virtualTime) } else x

/-- In DRY, the virtual-edge timer becomes due to give OPEN; an OPEN already due keeps its time (R165). -/
def Head.virtualOpen (now : Nat) (x : Head) : Head :=
  if x.isDry then
    match x.virtual with
    | some (.opened, _) => x
    | some (.closed, _) | none => { x with virtual := some (.opened, now + Config.virtualTime) }
  else x

/-- The segment that is current (chapter 4). -/
def Run.segment (r : Run) : Option Segment :=
  r.segments[r.current]?

/-- The current segment of a RUNNING head. -/
def Head.segment (x : Head) : Option Segment :=
  x.run?.bind Run.segment

/-- When the current segment's timer expires, if the segment is of one of the kinds. -/
def Head.segmentDue (kinds : List SegKind) (x : Head) : Option Nat :=
  match x.run? with
  | none => none
  | some r =>
    match r.segment with
    | none => none
    | some g => if g.kind ∈ kinds then some r.segDue else none

/-- Whether a segment ends in the act of its start: a HOLD or RAMP of duration 0 (R76). -/
def Segment.instant (g : Segment) : Bool :=
  (g.kind == .hold || g.kind == .ramp) && g.duration == 0

/-! ### Dose judgement (R126, R127) -/

/-- The number of the last DOSE segment of segments numbered from `n`. -/
def lastDoseFrom : Nat → List Segment → Option Nat
  | _, [] => none
  | n, g :: rest => (lastDoseFrom (n + 1) rest).or (if g.dose then some n else none)

/-- The number of the RESEAL_POINT segment of segments numbered from `n`. -/
def resealPointFrom : Nat → List Segment → Option Nat
  | _, [] => none
  | n, g :: rest => if g.resealPoint then some n else resealPointFrom (n + 1) rest

/-- Whether the profile copy has a DOSE segment. -/
def Run.hasDose (r : Run) : Bool :=
  r.segments.any Segment.dose

/-- The reported dose: the whole part of the accumulator divided by 10000, limited to 65535 (R126). -/
def Run.reportedDose (r : Run) : Nat :=
  min 65535 (r.dose / 10000)

/-- What a dose evaluation calls for. -/
inductive Evaluation where
  | reseal (segment : Nat)
  | verdict (v : DoseVerdict)
  deriving DecidableEq, Repr

/-- The dose evaluation at the end of the last DOSE segment (R127). -/
def Run.evaluate (r : Run) : Evaluation :=
  match r.window with
  | none => .verdict .ok
  | some (lo, hi) =>
    if r.reportedDose < lo then
      match resealPointFrom 0 r.segments with
      | some p => if r.resealAllowed && !r.resealUsed then .reseal p else .verdict .low
      | none => .verdict .low
    else if hi < r.reportedDose then .verdict .high
    else .verdict .ok

/-! ### States entered outside a cycle (R69, R96) -/

/-- READY entered, with the standby setpoint. -/
def Head.enterReady (now : Nat) (x : Head) : Head :=
  x.rest now .ready x.params.standby

/-- HEATING entered with the readiness count at 0; with a standby temperature of 0 the head moves on to READY in the same
act (R69). -/
def Head.enterHeating (now : Nat) (x : Head) : Head :=
  let y := { x with monitor := { x.monitor with ready := 0 } }
  y.rest now (if x.params.standby = 0 then .ready else .heating) x.params.standby

/-! ### The station result and reject reasons of an end (R82) -/

/-- The reason an end reason adds, by station (R82). -/
def EndReason.rejects (st : Station) : EndReason → BitVec 32
  | .complete | .completeResealed | .skipped => 0
  | .doseLow => (match st with | .form => RejectReason.formDoseLow | .sealing => .sealDoseLow).set
  | .doseHigh => (match st with | .form => RejectReason.formDoseHigh | .sealing => .sealDoseHigh).set
  | .safeSensor => RejectReason.sensor.set
  | .safeHigh => RejectReason.heatSafe.set
  | .closeLate => RejectReason.closeLate.set
  | .openLate => RejectReason.openLate.set
  | .overrun => RejectReason.overrun.set
  | .halted => RejectReason.halted.set
  | .platenFault => RejectReason.platenFault.set
  | .startTimeout => RejectReason.startTimeout.set
  | .cancelled => RejectReason.cancelled.set

/-- The station result of an end (R82). -/
def HeadCtx.endResult (reason : EndReason) (x : HeadCtx) : StationResult where
  head := x.id.val
  reason := reason
  dose := x.head.run?.bind fun r => if r.hasDose then some r.reportedDose else none
  closure := x.head.run?.bind Run.closure
  resealed := x.head.run?.any Run.resealUsed
  ceilingClamped := x.head.run?.any Run.ceilingClamped
  outputClamped := x.head.run?.any Run.outputClamped
  lowSeen := x.head.run?.any Run.lowSeen
  tainted := x.head.run?.any Run.tainted

/-- The reject reasons of an end: that of the end reason, LOW_TEMP when low-seen is set and auto-reject on, DRY_RUN for a
cycle that had started in DRY (R82). -/
def HeadCtx.endRejects (reason : EndReason) (st : Station) (x : HeadCtx) : BitVec 32 :=
  reason.rejects st |||
    (if x.head.run?.any Run.lowSeen && x.head.params.autoReject then RejectReason.lowTemp.set else 0) |||
    (if x.head.run?.isSome && x.head.isDry then RejectReason.dryRun.set else 0)

/-- The write of an end to its pack; a CYCLE-ONCE writes nothing (R82). -/
def HeadCtx.writeEnd (reason : EndReason) (x : HeadCtx) : HeadCtx :=
  match x.head.cycle, x.head.packRef with
  | some ⟨.pack, _⟩, some ref => x.emit (.result ref (x.endResult reason) (x.endRejects reason ref.station))
  | _, _ => x

/-- The cycle record that a PRIMARY carries (R150). -/
def HeadCtx.endRecord (reason : EndReason) (x : HeadCtx) : CycleRecord :=
  match x.head.cycle, x.head.packRef with
  | some ⟨.pack, _⟩, some ref => ⟨.pack, some ref.serial, some ref.lane, x.endResult reason⟩
  | some ⟨o, _⟩, _ => ⟨o, none, none, x.endResult reason⟩
  | none, _ => ⟨.pack, none, none, x.endResult reason⟩

/-- The cycle record and segment copy discarded, with the cycle's timers; both outputs are released, since only a RUNNING head
drives them (R72, R81, R83). -/
def Head.dropCycle (x : Head) : Head :=
  { x with cycle := none, startTimer := none, ramp := none, closeOut := false, auxOut := false }

/-- Steps 1 to 4 of an abnormal end: the write to the pack, the PRIMARY where one is posted, the failed counter, and the
cycle's discard (R83, R130). -/
def HeadCtx.finish (reason : EndReason) (primary : Bool) (x : HeadCtx) : HeadCtx :=
  let y := x.writeEnd reason
  let z := if primary then y.post (.primary (x.endRecord reason)) else y
  z.mapHead fun h =>
    { h.dropCycle with counters := { h.counters with failed := min 65535 (h.counters.failed + 1) } }

/-! ### The release phase (R84, R85) -/

/-- A release phase confirmed: an owed SECONDARY is posted and the destination entered (R85). -/
def HeadCtx.confirm (r : Release) (x : HeadCtx) : HeadCtx :=
  let y := x.mapHead fun h => { h with platen := .opened, release := none, packRef := none }
  let z := if r.secondaryOwed then y.post .secondary else y
  match r.dest with
  | .ready => z.mapHead (Head.enterReady x.now)
  | .heating => z.mapHead (Head.enterHeating x.now)
  | .safe => z

/-- The state of a head while a release phase leads to a destination, and its temperature setpoint (R84). -/
def Head.restFor (now : Nat) (dest : ReleaseDest) (x : Head) : Head :=
  match dest with
  | .ready | .heating => x.rest now .releasing x.params.standby
  | .safe => x.rest now .safe 0

/-- A release phase begun. With the OPEN sensor level active and the CLOSED level not, it is confirmed in the act of its
beginning; in DRY the levels are not read and a virtual OPEN is due instead (R84, R165). -/
def HeadCtx.beginRelease (dest : ReleaseDest) (owed : Bool) (x : HeadCtx) : HeadCtx :=
  let r : Release := ⟨x.now + x.head.params.openLimit, dest, owed⟩
  let y := x.mapHead fun h =>
    Head.virtualOpen x.now
      (Head.restFor x.now dest
        { h with closeOut := false, auxOut := false, platen := h.platen.retract, release := some r })
  if !x.head.isDry && x.openLevel && !x.closedLevel then y.confirm r else y

/-! ### Abnormal ends and SAFE (R83, R86) -/

/-- The destination of an abnormal end entered directly, the platen being OPEN (R83). -/
def Head.enterDest (now : Nat) (dest : ReleaseDest) (x : Head) : Head :=
  match dest with
  | .ready => x.enterReady now
  | .heating => x.enterHeating now
  | .safe => x.rest now .safe 0

/-- A cycle ended abnormally, as one act (R83). -/
def HeadCtx.abnormal (reason : EndReason) (dest : ReleaseDest) (primary : Bool) (x : HeadCtx) : HeadCtx :=
  let y := x.finish reason primary
  if y.head.platen = .opened then y.mapHead fun h => Head.enterDest x.now dest { h with packRef := none }
  else y.beginRelease dest primary

/-- A head sent to SAFE: a cycle ends with the cause's end reason; a release phase in progress goes on toward SAFE; without
one, one begins when the platen is not OPEN. A head in SAFE stays so, and an OFFLINE head does not enter it (R86). -/
def HeadCtx.enterSafe (reason : EndReason) (x : HeadCtx) : HeadCtx :=
  if x.head.state = .safe ∨ x.head.state = .offline then x
  else if x.head.cycle.isSome then x.abnormal reason .safe true
  else
    match x.head.release with
    | some r => x.mapHead fun h => Head.rest x.now .safe 0 { h with release := some { r with dest := .safe } }
    | none =>
      if x.head.platen = .opened then
        x.mapHead fun h => Head.rest x.now .safe 0 { h with closeOut := false, auxOut := false }
      else x.beginRelease .safe false

/-! ### Segments (R76 to R81) -/

/-- What a segment's kind does to the close output, the platen and the virtual-edge timer (R72, R77, R79, R165). -/
def Head.movePlaten (now : Nat) (g : Segment) (x : Head) : Head :=
  match g.kind with
  | .close => Head.virtualClose now { x with closeOut := x.drives, platen := .closing }
  | .openUp => Head.virtualOpen now { x with closeOut := false, platen := x.platen.retract }
  | .hold | .ramp => x

/-- A segment begun: the current segment, its targets, the aux output, a NOTIFY's INTERMEDIATE, and the segment timer
(R76). -/
def HeadCtx.beginSegment (n : Nat) (g : Segment) (x : HeadCtx) : HeadCtx :=
  let y := x.mapHead fun h =>
    let h1 := h.updateRun fun r => { r with current := n, segStart := x.now, segDue := x.now + g.duration }
    let h2 := (h1.applyTargets x.now g).movePlaten x.now g
    if g.aux && h2.drives && !g.instant then { h2 with auxOut := true } else h2
  if g.notify then y.post (.intermediate n) else y

/-- A segment ended: its ramp and aux output end, the dose is evaluated at the last DOSE segment, and the number of the
segment that follows is given (R80, R127). -/
def HeadCtx.endSegment (r : Run) (x : HeadCtx) : Nat × HeadCtx :=
  let y := x.mapHead fun h => { h with ramp := none, auxOut := false }
  if lastDoseFrom 0 r.segments = some r.current then
    match r.evaluate with
    | .reseal p =>
      (p, y.mapHead fun h =>
        { h.updateRun (fun r => { r with resealUsed := true }) with
          counters := { h.counters with reseals := min 65535 (h.counters.reseals + 1) } })
    | .verdict v => (r.current + 1, y.mapHead (Head.updateRun fun r => { r with verdict := some v }))
  else (r.current + 1, y)

/-- The end reason of a completed cycle (R81). -/
def Run.completion (r : Run) : EndReason :=
  match r.verdict with
  | some .low => .doseLow
  | some .high => .doseHigh
  | some .ok => if r.resealUsed then .completeResealed else .complete
  | none => .complete

/-- A cycle completed: the station result and reasons, a PRIMARY for a CYCLE-ONCE alone, and READY (R81, R171). -/
def HeadCtx.complete (x : HeadCtx) : HeadCtx :=
  let reason := (x.head.run?.map Run.completion).getD .complete
  let y := x.writeEnd reason
  let z :=
    if (x.head.cycle.map Cycle.origin) = some .once then y.post (.primary (x.endRecord reason)) else y
  z.mapHead fun h => Head.enterReady x.now { h.dropCycle with packRef := none }

/-- The cycle goes on at segment `n`: the segment begins, and one that ends in the act of its start is followed by the
next; past the last segment the cycle completes (R76, R80). The first argument bounds the segments begun. -/
def HeadCtx.runFrom : Nat → Nat → HeadCtx → HeadCtx
  | 0, _, x => x
  | fuel + 1, n, x =>
    match x.head.run? with
    | none => x
    | some r =>
      match r.segments[n]? with
      | none => x.complete
      | some g =>
        let y := x.beginSegment n g
        if g.instant then
          match y.head.run? with
          | none => y
          | some r' =>
            let z := y.endSegment r'
            HeadCtx.runFrom fuel z.1 z.2
        else y

/-- Segments that one act can begin at most: both passes through the profile, and the completion. -/
def Run.span (r : Run) : Nat :=
  2 * r.segments.length + 2

/-- The current segment ends and the cycle goes on (R80). -/
def HeadCtx.advance (x : HeadCtx) : HeadCtx :=
  match x.head.run? with
  | none => x
  | some r =>
    let z := x.endSegment r
    z.2.runFrom r.span z.1

/-! ### Selection and start (R73 to R75) -/

/-- What a cycle works with from its start (R75, R170). -/
def Run.fresh (profile : Nat) (segments : List Segment) (base cap : Nat) (window : Option (Nat × Nat))
    (resealAllowed : Bool) : Run where
  profile := profile
  base := base
  cap := cap
  window := window
  resealAllowed := resealAllowed
  segments := segments
  current := 0
  segStart := 0
  segDue := 0
  resealUsed := false
  ceilingClamped := false
  outputClamped := false
  lowSeen := false
  tainted := false
  closure := none
  verdict := none
  dose := 0

/-- A cycle started: RUNNING, the started counter, and segment 0 (R75, R130). -/
def HeadCtx.launch (origin : Origin) (r : Run) (x : HeadCtx) : HeadCtx :=
  let y := x.mapHead fun h =>
    { h with
      state := .running
      cycle := some ⟨origin, some r⟩
      startTimer := none
      counters := { h.counters with started := (h.counters.started + 1) % 4294967296 } }
  y.runFrom r.span 0

/-- A pending cycle dropped without a trace; the head is READY (R51). -/
def HeadCtx.dropPending (x : HeadCtx) : HeadCtx :=
  x.mapHead fun h => { h.dropCycle with state := .ready, packRef := none }

/-- The start of a cycle on a pack whose format code is `code`: the format is read again; without a profile for the station
the pending cycle is dropped (R51, R75). -/
def HeadCtx.startPack (lib : Library) (code : Option Nat) (x : HeadCtx) : HeadCtx :=
  match x.head.packRef, code.bind lib.format with
  | some ref, some f =>
    match f.forStation ref.station with
    | none => x.dropPending
    | some (id, d) =>
      match lib.profile id with
      | none => x.dropPending
      | some gs => x.launch .pack (.fresh id gs d.base d.cap (some (d.windowMin, d.windowMax)) f.resealAllowed)
  | _, _ => x.dropPending

/-- The SKIPPED station result (R73). -/
def skippedResult (id : Fin 16) : StationResult :=
  ⟨id.val, .skipped, none, none, false, false, false, false, false⟩

/-- A cycle chosen: it starts, or waits, by the head's start source (R74). -/
def HeadCtx.choose (lib : Library) (ref : PackRef) (code : Nat) (x : HeadCtx) : HeadCtx :=
  let y := x.mapHead fun h => { h with cycle := some ⟨.pack, none⟩, packRef := some ref }
  let wait := fun t : Option Nat => y.mapHead fun h => { h with state := .pending, startTimer := t }
  match x.head.params.source with
  | .index => y.startPack lib (some code)
  | .delayed =>
    if x.head.params.startDelay = 0 then y.startPack lib (some code)
    else wait (some (x.now + x.head.params.startDelay))
  | .line => wait (if x.head.params.startDelay = 0 then none else some (x.now + x.head.params.startDelay))

/-- Cycle selection at an arrival: the first condition that holds gives the result (R73). -/
def HeadCtx.select (lib : Library) (ref : PackRef) (p : Pack) (x : HeadCtx) : HeadCtx :=
  if p.format = 0 then x
  else
    match lib.format p.format with
    | none => x
    | some f =>
      if (f.forStation ref.station).isNone then x
      else if f.skipRejected && p.reasons != 0 then x.emit (.result ref (skippedResult x.id) 0)
      else if x.head.state ≠ .ready ∨ x.head.params.loopMode = .monitor then
        x.emit (.reasons ref.serial ref.lane RejectReason.noHead.set)
      else x.choose lib ref p.format

/-! ### Platen edges (R71, R77, R79, R85) -/

/-- A CLOSED edge, physical or virtual: in CLOSING it records the closure time and ends the CLOSE segment (R71, R77). -/
def HeadCtx.closedEdge (x : HeadCtx) : HeadCtx :=
  match x.head.platen, x.head.run? with
  | .closing, some r =>
    let t := min (x.now - r.segStart) (r.segDue - r.segStart)
    let y := x.mapHead fun h =>
      { h.updateRun (fun r => { r with closure := some t }) with
        platen := .closed
        counters := { h.counters with longest := max h.counters.longest t } }
    if x.head.segment.map Segment.kind = some .close then y.advance else y
  | .closing, none => x.mapHead fun h => { h with platen := .closed }
  | _, _ => x

/-- An OPEN edge, physical or virtual: in UNKNOWN or OPENING the platen is OPEN; a release phase is confirmed, or a current
OPEN segment ends (R71, R79, R85). -/
def HeadCtx.openEdge (x : HeadCtx) : HeadCtx :=
  match x.head.platen with
  | .unknown | .opening =>
    let y := x.mapHead fun h => { h with platen := .opened }
    match x.head.release with
    | some r => y.confirm r
    | none => if x.head.segment.map Segment.kind = some .openUp then y.advance else y
  | .opened | .closing | .closed => x

/-! ### Index edges and track events at a head (R92, R93) -/

/-- An INDEX-START at a head: both checks are made against the state the edge finds (R92). -/
def HeadCtx.indexStart (x : HeadCtx) : HeadCtx :=
  if x.head.state = .offline then x
  else
    let y := if x.head.cycle.isSome then x.abnormal .overrun .ready true else x
    if x.head.platen = .opened then y
    else
      let z := y.emit (.cause .indexWhileClosed)
      match x.head.packRef with
      | some ref => z.emit (.reasons ref.serial ref.lane RejectReason.closedAtIndex.set)
      | none => z

/-- TRACK-STOP at a head: a cycle PENDING or RUNNING ends HALTED (R93). -/
def HeadCtx.trackStop (x : HeadCtx) : HeadCtx :=
  if x.head.cycle.isSome then x.abnormal .halted .ready true else x

/-! ### Host requests on a head (R68 to R70, R88 to R91) -/

/-- The monitor as HEAD-ONLINE starts it: sampling begins, runs and readiness at 0, the monitored conditions not live
(R110, R122). -/
def Monitor.fresh (due : Nat) (m : Monitor) : Monitor :=
  { m with
    sampleTimer := some due
    lowRun := 0
    nonLowRun := 0
    highRun := 0
    nonHighRun := 0
    ready := 0
    live := m.live &&& ~~~monitoredConds }

/-- HEAD-ONLINE accepted (R68). -/
def HeadCtx.online (x : HeadCtx) : HeadCtx :=
  let y := x.mapHead fun h => { h with monitor := h.monitor.fresh (x.now + h.params.samplePeriod) }
  if x.head.platen = .opened then y.mapHead (Head.enterHeating x.now) else y.beginRelease .heating false

/-- The monitor as HEAD-OFFLINE leaves it: sampling stopped, the monitored conditions dropped without a condition change,
runs and injection at 0 (R70, R122). -/
def Monitor.stop (m : Monitor) : Monitor :=
  { m with
    sampleTimer := none
    lowRun := 0
    nonLowRun := 0
    highRun := 0
    nonHighRun := 0
    inject := 0
    live := m.live &&& ~~~monitoredConds }

/-- HEAD-OFFLINE (R70). -/
def HeadCtx.offline (x : HeadCtx) : HeadCtx :=
  if x.head.state = .offline then x
  else
    let y := if x.head.cycle.isSome then x.finish .halted true else x
    y.mapHead fun h =>
      Head.rest x.now .offline 0
        { h.dropCycle with
          packRef := none
          release := none
          closeOut := false
          platen := h.platen.retract
          virtual := none
          monitor := h.monitor.stop }

/-- HEAD-CLEAR in a state other than OFFLINE (R91, R157). -/
def HeadCtx.clear (x : HeadCtx) : HeadCtx :=
  let y :=
    if x.head.cycle.isSome then x.abnormal .halted .heating false
    else if x.head.state = .safe then x
    else
      match x.head.release with
      | some r =>
        x.mapHead fun h => { h with release := some { r with dest := .heating, secondaryOwed := false } }
      | none =>
        if x.head.platen = .opened then x.mapHead (Head.enterHeating x.now) else x.beginRelease .heating false
  { y with
    head := { y.head with monitor := { y.head.monitor with inject := 0 } }
    status := y.status.discard }

/-- HEAD-RELEASE taken in SAFE (R88). -/
def HeadCtx.releaseSafe (x : HeadCtx) : HeadCtx :=
  match x.head.release with
  | some r =>
    x.mapHead fun h => Head.restFor x.now .heating { h with release := some { r with dest := .heating } }
  | none =>
    if x.head.platen = .opened then x.mapHead (Head.enterHeating x.now) else x.beginRelease .heating false

/-- A release phase's open limit expires: the phase ends unconfirmed, PLATEN_STUCK is posted, and the head is in SAFE
(R85, R86). -/
def HeadCtx.releaseExpiry (x : HeadCtx) : HeadCtx :=
  (x.mapHead fun h => Head.rest x.now .safe 0 { h with release := none, packRef := none }).emit (.cause .platenStuck)

/-- The limit of an OPEN segment expires: the cycle ends OPEN_LATE toward SAFE, and PLATEN_STUCK is posted (R79). -/
def HeadCtx.openLate (x : HeadCtx) : HeadCtx :=
  (x.enterSafe .openLate).emit (.cause .platenStuck)

/-- A HOLD or RAMP segment's duration expires; a ramp takes its last step in the same act (R78, R100). -/
def HeadCtx.segmentExpiry (x : HeadCtx) : HeadCtx :=
  let y :=
    match x.head.ramp with
    | some p => x.mapHead (Head.rampEnd x.now p)
    | none => x
  y.advance

/-- A ramp step at its elapsed time (R99). -/
def HeadCtx.rampStep (p : Ramp) (x : HeadCtx) : HeadCtx :=
  x.mapHead fun h => { h.rampTo x.now p.next p with ramp := some { p with next := p.next + Config.rampPeriod } }

end Sys2Proof.Machine
end

