-- ==== Sys2Proof/Machine/Library.lean ====
section
/-! DEFINITION. The Recipe Library: the checks of profiles, the segment pool, and what holds a format or a profile
(chapter 3). -/

namespace Sys2Proof.Machine

/-! ### Tables kept by rising key -/

/-- A record stored under a key, replacing the one that was there. -/
def insertKey {α : Type} (k : Nat) (a : α) : List (Nat × α) → List (Nat × α)
  | [] => [(k, a)]
  | (k', b) :: rest =>
    if k < k' then (k, a) :: (k', b) :: rest
    else if k = k' then (k, a) :: rest
    else (k', b) :: insertKey k a rest

/-- The record under a key removed. -/
def eraseKey {α : Type} (k : Nat) (l : List (Nat × α)) : List (Nat × α) :=
  l.filter fun x => x.1 != k

/-! ### The pool (R54, R59) -/

/-- Segments in use. -/
def Library.used (l : Library) : Nat :=
  (l.profiles.map fun x => x.2.length).sum

/-- The pool's free count (R54). -/
def Library.free (l : Library) : Nat :=
  Config.segmentPool - l.used

/-- The segments of the profile stored under an id, or 0 (R59). -/
def Library.held (l : Library) (id : Nat) : Nat :=
  match l.profile id with
  | some gs => gs.length
  | none => 0

/-! ### Structure and timing (R57, R58) -/

/-- Whether a segment is of a kind. -/
def Segment.is (k : SegKind) (g : Segment) : Bool :=
  g.kind == k

/-- The structure tests of one segment, by its place in the whole profile (R57). -/
def segmentFits (earlier : List Segment) (g : Segment) (later : List Segment) : Bool :=
  let afterClose := earlier.any (Segment.is .close)
  let afterOpen := earlier.any (Segment.is .openUp)
  (!g.is .close || !afterClose) &&
  (!g.is .openUp || (afterClose && !afterOpen && g.pressure.isNone)) &&
  (!g.dose || (g.is .hold && afterClose && !afterOpen)) &&
  (!g.resealPoint ||
    (!earlier.any Segment.resealPoint && (g.is .hold || g.is .ramp) && afterClose && (g :: later).any Segment.dose))

/-- The number of the first segment that fails the structure tests, among segments numbered from `n` (R57). -/
def firstUnfit (n : Nat) (earlier : List Segment) : List Segment → Option Nat
  | [] => none
  | g :: rest => if segmentFits earlier g rest then firstUnfit (n + 1) (earlier ++ [g]) rest else some n

/-- The number of the first segment of a kind, among segments numbered from `n`. -/
def firstOfKind (k : SegKind) : Nat → List Segment → Option Nat
  | _, [] => none
  | n, g :: rest => if g.is k then some n else firstOfKind k (n + 1) rest

/-- The CLOSE of a profile that has no OPEN (R57). -/
def unopened (gs : List Segment) : Option Nat :=
  if gs.any (Segment.is .openUp) then none else firstOfKind .close 0 gs

/-- The timing test of one segment (R58). -/
def Segment.timed (g : Segment) : Bool :=
  match g.kind with
  | .close | .openUp => within 50 g.duration 5000
  | .hold | .ramp => decide (g.duration ≤ 10000)

/-- The number of the first segment that fails the timing test, among segments numbered from `n` (R58). -/
def firstUntimed : Nat → List Segment → Option Nat
  | _, [] => none
  | n, g :: rest => if g.timed then firstUntimed (n + 1) rest else some n

/-- The whole-profile mark of a PROFILE_INVALID reply (R58, R202). -/
def wholeProfile : Nat := 0xFF

/-- The whole-profile timing tests (R58). -/
def badTotal (gs : List Segment) : Option Nat :=
  if 30000 < (gs.map Segment.duration).sum || gs.all Segment.instant then some wholeProfile else none

/-- What a PROFILE_INVALID reply carries, in the order of R57 and R58; none for a profile that passes. -/
def profileFault (gs : List Segment) : Option Nat :=
  (firstUnfit 0 [] gs).or ((unopened gs).or ((firstUntimed 0 gs).or (badTotal gs)))

/-! ### What holds a record (R52, R61) -/

/-- Whether a code stands in a manifest of the queue (R52). -/
def Track.codeQueued (t : Track) (code : Nat) : Bool :=
  t.manifests.any fun m => m.toList.contains code

/-- Whether a code is the format of a pack in the track (R52). -/
def Track.codeOnTrack (t : Track) (code : Nat) : Bool :=
  t.slots.any fun o => o.any fun n => n.packs.toList.any fun p => p.format == code

/-- Whether a format names a profile (R61). -/
def Format.names (id : Nat) (f : Format) : Bool :=
  f.sealProfile == id || f.form.any fun x => x.1 == id

/-- The lowest format code that names a profile (R61). -/
def Library.lowestNaming (l : Library) (id : Nat) : Option Nat :=
  (l.formats.find? fun x => x.2.names id).map Prod.fst

/-! ### Checks of a manifest (R26) -/

/-- What is wrong with a lane code of a manifest (R26). -/
def Library.laneFault (l : Library) (lane : Fin 8) (code : Nat) : Option Result :=
  if code = 0 then none
  else
    match l.format code with
    | none => some .unknownFormat
    | some f => if BitSet.has f.laneMask lane.val then none else some .laneNotAllowed

/-- The first lane that fails, of the lanes given, with its result (R26). -/
def Library.manifestFault (l : Library) (codes : Lanes Nat) : List (Fin 8) → Option (Result × Fin 8)
  | [] => none
  | lane :: rest =>
    match l.laneFault lane (codes.get lane) with
    | some r => some (r, lane)
    | none => l.manifestFault codes rest

end Sys2Proof.Machine
end

