-- ==== Sys2Proof/Machine/Monitor.lean ====
section
/-! DEFINITION. The Temperature Monitor of a head: one sample as the seven steps of R112, and the counters (chapter 6). -/

namespace Sys2Proof.Machine

/-! ### The reading and the dose (R111, R125, R126) -/

/-- The reading of a sample: in DRY the temperature setpoint, otherwise what the port delivers, a reading above 4000 taken
as 4000; none is a fault sample (R111). -/
def Head.obtain (port : Option Nat) (x : Head) : Option Nat :=
  if x.isDry then some x.tempSet else port.map (min 4000)

/-- Whether a sample counts toward the dose (R125). -/
def Head.countsDose (x : Head) : Bool :=
  x.state == .running && x.platen == .closed && x.segment.any Segment.dose

/-- A counting sample's contribution, or the tainted flag of a counting fault sample (R126). -/
def Run.addDose (period : Nat) (m : Option Nat) (r : Run) : Run :=
  match m with
  | some m => { r with dose := min Config.doseLimit (r.dose + (min m r.cap - r.base) * period) }
  | none => { r with tainted := true }

/-- Step 2 of a sample (R112). -/
def Head.doseStep (m : Option Nat) (x : Head) : Head :=
  if x.countsDose then x.updateRun (Run.addDose x.params.samplePeriod m) else x

/-! ### Classification (R113 to R116) -/

/-- Whether a RAMP segment is current. -/
def Head.inRamp (x : Head) : Bool :=
  x.segment.any fun g => g.kind == .ramp

/-- Whether window evaluation is active in the head's state and loop mode (R113). -/
def Head.windowState (x : Head) : Bool :=
  match x.state with
  | .running | .pending | .ready => true
  | .releasing => x.params.loopMode == .monitor
  | .offline | .heating | .safe => false

/-- Whether window evaluation is active at a sample (R113). -/
def Head.windowActive (now : Nat) (x : Head) : Bool :=
  x.windowState && x.tempSet != 0 && !x.inRamp &&
  (match x.tempChanged with
   | some t => decide (x.params.settle ≤ now - t)
   | none => false)

/-- Whether a valid sample is high (R114). -/
def Head.isHigh (now m : Nat) (x : Head) : Bool :=
  decide (x.params.ceiling + x.params.band < m) ||
  (x.windowActive now && decide (x.tempSet + x.params.band < m))

/-- Whether a valid sample consumes an injection (R115). -/
def Head.injects (x : Head) : Bool :=
  x.state != .heating && x.monitor.inject != 0

/-- Whether a valid sample is low (R115). -/
def Head.isLow (now m : Nat) (x : Head) : Bool :=
  x.injects || (x.windowActive now && decide (m + x.params.band < x.tempSet))

/-- How a sample is classified (§6.2). -/
structure SampleClass where
  valid : Bool
  low : Bool
  high : Bool
  deriving DecidableEq, Repr

/-- Step 3 of a sample: its class (R112, R114 to R116). -/
def Head.classify (now : Nat) (m : Option Nat) (x : Head) : SampleClass :=
  match m with
  | some m => ⟨true, x.isLow now m, x.isHigh now m⟩
  | none => ⟨false, false, false⟩

/-- Step 3 of a sample: the injection count consumed by a valid sample outside HEATING (R115, R116). -/
def Head.consume (k : SampleClass) (x : Head) : Head :=
  if k.valid && x.injects then { x with monitor := { x.monitor with inject := x.monitor.inject - 1 } } else x

/-! ### Runs (R117, R118) -/

/-- The two runs of a condition and, when it is declared or cleared, its new presence. -/
structure RunMove where
  hits : Nat
  misses : Nat
  change : Option Bool
  deriving DecidableEq, Repr

/-- One valid sample moves a condition's runs: while it is not live, hits count up to the declare count and a miss returns
them to 0; while it is live, misses count up to 8 and a hit returns them to 0 (R117, R118). -/
def moveRun (live hit : Bool) (declare hits misses : Nat) : RunMove :=
  if live then
    if hit then ⟨hits, 0, none⟩
    else if Config.clearCount ≤ misses + 1 then ⟨hits, 0, some false⟩
    else ⟨hits, misses + 1, none⟩
  else if hit then
    if declare ≤ hits + 1 then ⟨0, misses, some true⟩ else ⟨hits + 1, misses, none⟩
  else ⟨0, misses, none⟩

/-- A declaration or clearing posted, if there is one (R122). -/
def HeadCtx.settleCond (c : Cond) (change : Option Bool) (x : HeadCtx) : HeadCtx :=
  match change with
  | some on => x.setCond c on
  | none => x

/-- LOW moved by a valid sample (R117). -/
def HeadCtx.moveLow (k : SampleClass) (x : HeadCtx) : HeadCtx :=
  if k.valid then
    let m := x.head.monitor
    let r := moveRun (x.head.isLive .low) k.low (Config.lowDeclare x.head.params.lowExtended) m.lowRun m.nonLowRun
    HeadCtx.settleCond .low r.change
      (x.mapHead fun h => { h with monitor := { h.monitor with lowRun := r.hits, nonLowRun := r.misses } })
  else x

/-- HIGH moved by a valid sample (R118). -/
def HeadCtx.moveHigh (k : SampleClass) (x : HeadCtx) : HeadCtx :=
  if k.valid then
    let m := x.head.monitor
    let r := moveRun (x.head.isLive .high) k.high Config.highDeclare m.highRun m.nonHighRun
    HeadCtx.settleCond .high r.change
      (x.mapHead fun h => { h with monitor := { h.monitor with highRun := r.hits, nonHighRun := r.misses } })
  else x

/-- SENSOR moved: declared by the first fault sample, cleared by the first valid one (R119). -/
def HeadCtx.moveSensor (k : SampleClass) (x : HeadCtx) : HeadCtx :=
  if k.valid = x.head.isLive .sensor then x.setCond .sensor (!k.valid) else x

/-- PLATEN moved: declared at a sample with both sensor levels active, cleared at the first without; in DRY the levels are
not read (R120). -/
def HeadCtx.movePlatenCond (x : HeadCtx) : HeadCtx :=
  let both := x.closedLevel && x.openLevel
  if x.head.isDry || both == x.head.isLive .platen then x else x.setCond .platen both

/-- The deviation and sensor-fault counters of a sample (R130). -/
def Counters.sample (k : SampleClass) (c : Counters) : Counters :=
  { c with
    deviations := if k.low || k.high then min 65535 (c.deviations + 1) else c.deviations
    sensorFaults := if k.valid then c.sensorFaults else min 65535 (c.sensorFaults + 1) }

/-- The counters of a sample, and COUNT_FULL declared at the one that brings the deviations to 65535 (R121, R130). -/
def HeadCtx.countSample (k : SampleClass) (x : HeadCtx) : HeadCtx :=
  let y := x.mapHead fun h => { h with counters := h.counters.sample k }
  if y.head.counters.deviations = 65535 ∧ x.head.counters.deviations ≠ 65535 then y.setCond .countFull true else y

/-! ### Low-seen and readiness (R69, R123, R124) -/

/-- Step 5 of a sample: low-seen is set in a cycle that has started while LOW is live (R123). -/
def HeadCtx.markLowSeen (x : HeadCtx) : HeadCtx :=
  if x.head.isLive .low then x.mapHead (Head.updateRun fun r => { r with lowSeen := true }) else x

/-- Whether a reading lies in the standby window, ends included (R69). -/
def Head.inStandby (m : Nat) (x : Head) : Bool :=
  decide (x.params.standby ≤ m + x.params.band) && decide (m ≤ x.params.standby + x.params.band)

/-- Step 6 of a sample: in HEATING the readiness count is moved, and at 16 the head is READY (R69, R124). -/
def HeadCtx.moveReady (m : Option Nat) (x : HeadCtx) : HeadCtx :=
  if x.head.state = .heating then
    let n := if m.any x.head.inStandby then x.head.monitor.ready + 1 else 0
    x.mapHead fun h =>
      let h' := { h with monitor := { h.monitor with ready := n } }
      if Config.readyCount ≤ n then Head.enterReady x.now h' else h'
  else x

/-! ### One sample (R112) -/

/-- Step 7 of a sample: SAFE entry for a HIGH or SENSOR that this sample declared, then the PLATEN fault of a cycle still
running (R86, R87, R112). `before` is the head as the sample found it. -/
def HeadCtx.takeDeclared (before : Head) (x : HeadCtx) : HeadCtx :=
  let declared := fun c : Cond => x.head.isLive c && !before.isLive c
  let y :=
    if declared .high then x.enterSafe .safeHigh
    else if declared .sensor then x.enterSafe .safeSensor
    else x
  if declared .platen ∧ y.head.state = .running then y.abnormal .platenFault .ready true else y

/-- One sample, as one act of the head in the order of R112; the sample timer runs on (R110). -/
def HeadCtx.sample (port : Option Nat) (x : HeadCtx) : HeadCtx :=
  let m := x.head.obtain port
  let x2 := x.mapHead (Head.doseStep m)
  let k := x2.head.classify x.now m
  let x3 := x2.mapHead (Head.consume k)
  let x4 := ((((x3.moveLow k).moveHigh k).moveSensor k).movePlatenCond).countSample k
  let x5 := x4.markLowSeen
  let x6 := x5.moveReady m
  x6.takeDeclared x.head

/-- The sample timer set to the next expiry, one sample period after the one taken (R110). -/
def Head.nextSample (due : Nat) (x : Head) : Head :=
  { x with monitor := { x.monitor with sampleTimer := some (due + x.params.samplePeriod) } }

/-! ### Counter requests (R131, R133) -/

/-- The live counters copied to the held counters (R131). -/
def Head.snapshot (x : Head) : Head :=
  { x with held := x.counters }

/-- The live counters returned to 0; COUNT_FULL clears where the deviations stood at 65535 (R133). -/
def HeadCtx.zeroCounters (x : HeadCtx) : HeadCtx :=
  let y := x.mapHead fun h => { h with counters := {} }
  if x.head.counters.deviations = 65535 then y.setCond .countFull false else y

end Sys2Proof.Machine
end

