-- ==== Sys2Proof/Machine/Gate.lean ====
section
/-! DEFINITION. The Gate Unit: arrival, punch, diverter decision and pulses, confirm window, and an index or a TRACK-STOP
during gate activity (chapter 7). -/

namespace Sys2Proof.Machine

/-- Whether a pack is empty: format code 0 (scope, Identifiers). -/
def Pack.isEmpty (p : Pack) : Bool :=
  p.format == 0

/-- Whether a pack is diverted at a decision: non-empty with a non-empty reject-reason set (R139). -/
def Pack.diverts (p : Pack) : Bool :=
  !p.isEmpty && p.reasons != 0

/-- Steps 1 and 2 of the diverter decision on one pack (R139). -/
def Pack.decide (verdictRequired : Bool) (p : Pack) : Pack :=
  let q := if verdictRequired && p.verdict == .pending then p.addReasons RejectReason.noVerdict.set else p
  if q.diverts then { q with diverted := true } else q

/-- The diverter decision on the packs of a nest (R139). -/
def Nest.decide (verdictRequired : Bool) (n : Nest) : Nest :=
  { n with packs := n.packs.map (Pack.decide verdictRequired) }

/-- The lanes whose packs the decision diverts. -/
def Nest.divertedLanes (n : Nest) : Byte :=
  BitVec.ofNat 8 (marks (n.packs.toList.map Pack.diverts))

/-- Whether the diverter decision of the nest with this serial number has been made (R34). -/
def Gate.decided (g : Gate) (serial : Nat) : Bool :=
  g.activity.any fun a => a.serial == serial && a.diverted.isSome

/-- The gate activity record rewritten. -/
def Gate.update (f : GateActivity → GateActivity) (g : Gate) : Gate :=
  { g with activity := g.activity.map f }

/-- The punch strikes: the output is asserted and the width timer started (R138). -/
def Gate.strike (now : Nat) (g : Gate) : Gate :=
  { g.update fun a => { a with punch := .asserted } with
    punchOut := true
    punchTimer := some (now + g.config.punchWidth) }

/-- The punch is released (R138). -/
def Gate.punchDone (g : Gate) : Gate :=
  { g.update fun a => { a with punch := .done } with punchOut := false, punchTimer := none }

/-- Steps 3 to 5 of the diverter decision for the lanes it diverts (R139). -/
def Gate.pulse (now : Nat) (lanes : Byte) (g : Gate) : Gate :=
  { g.update fun a =>
      { a with
        diverter := if lanes = 0 then .window else .pulse
        diverted := some lanes
        confirm := some 0 } with
    diverterOut := lanes
    diverterTimer := if lanes = 0 then none else some (now + g.config.diverterWidth)
    windowTimer := some (now + g.config.diverterWidth + g.config.confirmGrace) }

/-- The diverter decision, as one act against the gate nest's packs as they stand (R139). -/
def State.divert (s : State) : State :=
  match s.gate.activity with
  | none => s
  | some a =>
    let t := s.track.updateNest a.serial (Nest.decide s.track.config.verdictRequired)
    let lanes := match t.find a.serial with
      | some (_, n) => n.divertedLanes
      | none => 0
    (s.setTrack t).setGate (s.gate.pulse s.now lanes)

/-- A nest arrives at the gate: a new activity record, and the two delay timers when a pack is non-empty; a delay of 0
expires in the act of the arrival (R137). -/
def State.gateArrival (n : Nest) (s : State) : State :=
  if n.packs.toList.all Pack.isEmpty then
    s.setGate
      { s.gate with
        activity := some ⟨n.serial, .done, .done, none, none⟩
        punchTimer := none
        diverterTimer := none
        windowTimer := none }
  else
    let s1 := s.setGate
      { s.gate with
        activity := some ⟨n.serial, .delay, .delay, none, none⟩
        punchTimer := some (s.now + s.gate.config.punchDelay)
        diverterTimer := some (s.now + s.gate.config.diverterDelay)
        windowTimer := none }
    let s2 := if s.gate.config.punchDelay = 0 then s1.setGate (s1.gate.strike s.now) else s1
    if s.gate.config.diverterDelay = 0 then s2.divert else s2

/-- The diverter outputs released at the end of their width (R141). -/
def Gate.pulseDone (g : Gate) : Gate :=
  { g.update fun a => { a with diverter := .window } with diverterOut := 0, diverterTimer := none }

/-- The confirm counter counts an edge and stops at 255 (R142). -/
def Gate.count (g : Gate) : Gate :=
  g.update fun a => { a with confirm := a.confirm.map fun n => min 255 (n + 1) }

/-- A confirm count written into the gate nest's record, addressed by serial number (R143). -/
def Track.putConfirm (serial count : Nat) (t : Track) : Track :=
  t.updateNest serial fun n => { n with confirm := some count }

/-- The confirm window over and the diverter outputs released; the phase it leaves (R143, R144). -/
def Gate.closeWindow (phase : DiverterPhase) (g : Gate) : Gate :=
  { g.update fun a => { a with diverter := phase, confirm := none } with
    diverterOut := 0
    diverterTimer := none
    windowTimer := none }

/-- The end of the confirm window by its own expiry: the count is written and compared with the diverted count (R143). -/
def State.windowEnd (a : GateActivity) (s : State) : State :=
  let count := a.confirm.getD 0
  let s1 := (s.setTrack (s.track.putConfirm a.serial count)).setGate (s.gate.closeWindow .done)
  if count = laneCount (a.diverted.getD 0) then s1
  else (s1.postCause .gateMismatch).postTrack .gateMismatch

/-- Whether the punch is still to end (R136). -/
def GateActivity.punchBusy (a : GateActivity) : Bool :=
  a.punch == .delay || a.punch == .asserted

/-- Whether the confirm window is open (R136, R142). -/
def GateActivity.windowOpen (a : GateActivity) : Bool :=
  a.diverter == .pulse || a.diverter == .window

/-- Whether the activity is in progress (R136). -/
def GateActivity.inProgress (a : GateActivity) : Bool :=
  a.punchBusy || a.diverter == .delay || a.windowOpen

/-- The punch cut (R144). -/
def Gate.cutPunch (g : Gate) : Gate :=
  { g.update fun a => { a with punch := .cut } with punchOut := false, punchTimer := none }

/-- A running diverter delay cut (R144). -/
def Gate.cutDelay (g : Gate) : Gate :=
  { g.update fun a => { a with diverter := .cut } with diverterTimer := none }

/-- An INDEX-START at the Gate Unit: activity in progress is cut, as one act (R144). -/
def State.gateIndexStart (s : State) : State :=
  match s.gate.activity with
  | none => s
  | some a =>
    if a.inProgress then
      let s1 := if a.punchBusy then s.setGate s.gate.cutPunch else s
      let s2 :=
        if a.diverter = .delay then s1.setGate s1.gate.cutDelay
        else if a.windowOpen then
          (s1.setTrack (s1.track.putConfirm a.serial (a.confirm.getD 0))).setGate (s1.gate.closeWindow .cut)
        else s1
      (s2.postCause .gateCut).postTrack .gateCut
    else s

/-- TRACK-STOP or a soft reset at the Gate Unit: timers cancelled, outputs released, the record discarded, the
configuration kept (R146, R147). -/
def Gate.abandon (g : Gate) : Gate :=
  { config := g.config }

end Sys2Proof.Machine
end

