-- ==== Sys2Proof/Machine/Track.lean ====
section
/-! DEFINITION. The Nest Track: discharge, entry, the shift and its arrivals, the index, TRACK-STOP and verdicts (chapters 1
and 2). -/

namespace Sys2Proof.Machine

/-! ### Discharge (R12, R41, R43) -/

/-- A nest made an outcome report at the tail of the outcome queue, carrying the lost-report count when that is not 0; at a
full queue the report is lost and counted (R12, R43). -/
def Track.report (n : Nest) (t : Track) : Track :=
  if t.outcomes.length < Config.outcomeRoom then
    { t with
      outcomes := t.outcomes ++ [{ n with reportsLost := if t.lost = 0 then none else some t.lost }]
      lost := 0 }
  else { t with lost := min 255 (t.lost + 1) }

/-- A nest discharged; OUTCOME_BACKLOG becomes present at the report that brings the count to 12 (R12, R19). -/
def State.discharge (n : Nest) (s : State) : State :=
  let s1 := s.setTrack (s.track.report n)
  if s.track.outcomes.length < Config.outcomeRoom ∧ s1.track.outcomes.length = Config.backlogMark then
    s1.postCause .outcomeBacklog
  else s1

/-! ### Entry (R11, R32) -/

/-- The serial number after this one: from 65535 to 1 (R1, R11). The counter is followed even where it comes round to the number of
a report that still waits, which R1 and R41 exclude: DESIGN CHOICE (log entry 20). -/
def nextSerial (n : Nat) : Nat :=
  if 65535 ≤ n then 1 else n + 1

/-- A pack at entry (R11). -/
def Pack.entering (code : Nat) : Pack :=
  ⟨code, .pending, none, none, 0, false⟩

/-- A nest at entry (R11). -/
def Nest.entering (serial entryCount : Nat) (noManifest : Bool) (codes : Lanes Nat) : Nest :=
  ⟨serial, entryCount, noManifest, false, none, none, codes.map Pack.entering⟩

/-- A nest put at position 0, and the serial counter advanced (R11). -/
def Track.enter (n : Nest) (t : Track) : Track :=
  { t with slots := t.slots.set 0 (some n), serial := nextSerial t.serial }

/-- The entry of a nest at position 0, with the oldest manifest or, with the queue empty, eight empty packs (R11, R32). -/
def State.entry (s : State) : State :=
  match s.track.manifests with
  | codes :: rest =>
    let n := Nest.entering s.track.serial s.track.indexCount false codes
    s.crossManifest { s.track.enter n with manifests := rest }
  | [] =>
    let n := Nest.entering s.track.serial s.track.indexCount true (Lanes.fill 0)
    let s1 := (s.setTrack (s.track.enter n)).postTrack .noManifest
    if s.track.config.manifestRequired then s1.postCause .manifestEmpty else s1

/-! ### Arrivals (R13) -/

/-- The lane a head is bound to at a station (R66). -/
def Head.boundLane (st : Station) (x : Head) : Option (Fin 8) :=
  match x.params.binding with
  | some (st', lane) => if st' = st then some lane else none
  | none => none

/-- Whether some head is bound to a lane of a station (R13, R66). -/
def State.laneBound (s : State) (st : Station) (lane : Fin 8) : Bool :=
  s.heads.toList.any fun x => x.boundLane st == some lane

/-- Whether a pack's format has a profile for a station (R13). -/
def Library.dueAt (l : Library) (st : Station) (p : Pack) : Bool :=
  !p.isEmpty && ((l.format p.format).bind (Format.forStation st)).isSome

/-- NO_HEAD for each lane of the station that has no bound head and whose pack was due a cycle there (R13). -/
def State.noHeads (st : Station) (n : Nest) (s : State) : State :=
  s.setTrack (s.track.updateNest n.serial fun m =>
    { m with
      packs := m.packs.mapIdx fun lane p =>
        if s.library.dueAt st p && !s.laneBound st lane then p.addReasons RejectReason.noHead.set else p })

/-- A nest arrives at a station: each head bound there makes its selection for the pack in its lane, and the NTK looks at
the lanes without a head (R13, R73). -/
def State.stationArrival (st : Station) (n : Nest) (s : State) : State :=
  let select := fun (_ : Fin 16) (x : HeadCtx) =>
    match x.head.boundLane st with
    | some lane => x.select s.library ⟨n.serial, lane, st⟩ (n.packs.get lane)
    | none => x
  (s.actHeads select (allHeads.filter fun h => ((s.head h).boundLane st).isSome)).noHeads st n

/-- What is done with the nest at a position, if there is one. -/
def State.withNestAt (p : Nat) (f : Nest → State → State) (s : State) : State :=
  match s.track.nestAt p with
  | some n => f n s
  | none => s

/-- The arrival at the form station, where the track has one (R13). -/
def State.formArrival (s : State) : State :=
  match s.track.config.form with
  | some f => s.withNestAt f (State.stationArrival .form)
  | none => s

/-- The arrivals of a shift: the form station, the seal station and the gate (R13). -/
def State.arrivals (s : State) : State :=
  let s1 := s.formArrival
  let s2 := s1.withNestAt s1.track.config.sealPos (State.stationArrival .sealing)
  s2.withNestAt (s2.track.config.length - 1) State.gateArrival

/-! ### The shift (R9, R10) -/

/-- Every nest moved up one position, position 0 left empty, and the index count advanced (R9, R10). -/
def Track.move (t : Track) : Track :=
  { t with
    slots := (none :: t.slots).take t.config.length
    indexCount := (t.indexCount + 1) % 4294967296 }

/-- The shift (R10). -/
def State.shift (s : State) : State :=
  let s1 := s.withNestAt (s.track.config.length - 1) State.discharge
  (s1.setTrack s1.track.move).entry.arrivals

/-! ### The index (R5 to R8) -/

/-- An INDEX-START at the Nest Track (R5 to R7). -/
def State.trackIndexStart (s : State) : State :=
  match s.track.index with
  | .moving => s.postTrack .indexSequence
  | .dwell =>
    s.setTrack
      { s.track with
        index := .moving
        stallTimer := if s.track.mode = .halted then s.track.stallTimer else some (s.now + s.track.config.stallLimit) }

/-- An INDEX-START, physical or synthetic, at the Nest Track, every head and the Gate Unit (R5, R92, R144). -/
def State.takeIndexStart (s : State) : State :=
  (s.trackIndexStart.actHeads (fun _ => HeadCtx.indexStart) allHeads).gateIndexStart

/-- An INDEX-DONE at the Nest Track, which shifts in one track mode: RUN for a physical edge, TEST for a synthetic one. It
gives the serial number of the nest that entered, or 0 (R5, R7, R8, R10). -/
def State.takeIndexDone (shiftMode : TrackMode) (s : State) : State × Nat :=
  match s.track.index with
  | .dwell => (s.postTrack .indexSequence, 0)
  | .moving =>
    let s1 := s.setTrack { s.track with index := .dwell, stallTimer := none }
    if s.track.mode = shiftMode then (s1.shift, s.track.serial) else (s1, 0)

/-! ### TRACK-STOP (R4) -/

/-- A nest as TRACK-STOP discharges it: flagged PURGED, and PURGED added to its non-empty packs unless its diverter decision
has been made (R4). -/
def Nest.purge (decided : Bool) (n : Nest) : Nest :=
  { n with
    purged := true
    packs := if decided then n.packs else n.packs.map (Pack.addReasons RejectReason.purged.set) }

/-- Nests discharged in order. -/
def dischargeAll : List Nest → State → State
  | [], s => s
  | n :: rest, s => dischargeAll rest (s.discharge n)

/-- The nests in the track, position L − 1 first. -/
def Track.nests (t : Track) : List Nest :=
  (t.slots.filterMap id).reverse

/-- TRACK-STOP taken in RUN or TEST, as one act (R4, R93, R146). -/
def State.stopTrack (s : State) : State :=
  let purged := s.track.nests.map fun n => n.purge (s.gate.decided n.serial)
  let s1 := dischargeAll purged (s.setTrack { s.track with stallTimer := none })
  let s2 := s1.setTrack { s1.track with slots := List.replicate s1.track.config.length none, mode := .halted }
  let s3 := s2.actHeads (fun _ => HeadCtx.trackStop) allHeads
  s3.setGate s3.gate.abandon

/-! ### Verdicts (R33 to R36) -/

/-- Whether a verdict names a pack that is not empty. -/
def verdictNames (mask : Byte) (lane : Fin 8) (p : Pack) : Bool :=
  BitSet.has mask lane.val && !p.isEmpty

/-- A verdict before the decision, on one pack (R35). -/
def Pack.judge (mask : Byte) (reason : Nat) (lane : Fin 8) (p : Pack) : Pack :=
  if p.isEmpty then p
  else
    match p.verdict with
    | .pending | .good =>
      if BitSet.has mask lane.val then
        Pack.addReasons RejectReason.verdict.set { p with verdict := .bad reason }
      else { p with verdict := .good }
    | .bad _ | .lateBad => p

/-- A verdict after the decision, on one pack (R36). -/
def Pack.judgeLate (mask : Byte) (lane : Fin 8) (p : Pack) : Pack :=
  if verdictNames mask lane p then
    match p.verdict with
    | .pending | .good => { p with verdict := .lateBad }
    | .bad _ | .lateBad => p
  else p

/-- How many lanes a verdict newly rejects, or newly turns LATE-BAD: named, not empty, and PENDING or GOOD (R35, R36). -/
def Nest.newlyNamed (mask : Byte) (n : Nest) : Nat :=
  allLanes.countP fun lane =>
    verdictNames mask lane (n.packs.get lane) &&
    ((n.packs.get lane).verdict == .pending || (n.packs.get lane).verdict == .good)

end Sys2Proof.Machine
end

