-- ==== Sys2Proof/Machine/Replies.lean ====
section
/-! DEFINITION. What replies, reports and notices carry, byte by byte (chapter 12, R196 to R202). -/

namespace Sys2Proof.Machine

/-- What a block answers to a request: the result and the content after the result byte (R193, R202). -/
structure Answer where
  result : Result
  content : List Byte
  deriving DecidableEq, Repr

/-- The payload of a reply (R193). -/
def Answer.payload (a : Answer) : List Byte :=
  u8 a.result.code ++ a.content

/-- An OK reply. -/
def Answer.ok (content : List Byte) : Answer :=
  ⟨.ok, content⟩

/-- A refusal whose content, of the size R202 gives the request, is all absent. -/
def Answer.refuse (r : Result) (size : Nat) : Answer :=
  ⟨r, zeros size⟩

/-- The value of an optional field, 0 when it is absent (R192). -/
def orZero (x : Option Nat) : Nat :=
  x.getD 0

/-! ### Nest records (R196) -/

/-- The flags of a station result, bits 0 to 6 (R196, R197). -/
def StationResult.flags (r : StationResult) : List Bool :=
  [r.resealed, r.ceilingClamped, r.outputClamped, r.lowSeen, r.tainted, r.dose.isSome, r.closure.isSome]

/-- A station result of 7 bytes (R196). -/
def resultBytes (r : Option StationResult) : List Byte :=
  match r with
  | none => zeros 7
  | some r =>
    u8 r.head ++ u8 r.reason.code ++ u8 (marks (r.flags ++ [true])) ++ u16 (orZero r.dose) ++ u16 (orZero r.closure)

/-- A pack record of 23 bytes (R196). -/
def Pack.bytes (lane : Nat) (p : Pack) : List Byte :=
  u8 lane ++ u8 p.format ++ u8 p.verdict.code ++ u8 p.verdict.number ++ u8 (marks [p.diverted]) ++
  u32 p.reasons.toNat ++ resultBytes p.formResult ++ resultBytes p.sealResult

/-- A nest record of 193 bytes: the OUTCOME payload (R196). -/
def Nest.bytes (n : Nest) : List Byte :=
  u16 n.serial ++ u32 n.entryCount ++
  u8 (marks [n.noManifest, n.purged, n.confirm.isSome, n.reportsLost.isSome]) ++
  u8 (orZero n.confirm) ++ u8 (orZero n.reportsLost) ++
  (n.packs.mapIdx fun lane p => p.bytes lane.val).toList.flatten

/-! ### Head status (R197) -/

/-- The content code of a pending status (R197, R198). -/
def PendingStatus.code : PendingStatus → Nat
  | .empty => 0 | .solicited _ => 1 | .alert => 2

/-- Offsets 10 to 19 of a STATUS-TAKE reply: the first cycle record (R197). -/
def recordBytes (r : Option CycleRecord) : List Byte :=
  match r with
  | none => zeros 10
  | some r =>
    u8 r.origin.code ++ u16 (orZero r.serial) ++
    u8 (match r.lane with
        | some l => l.val
        | none => 0xFF) ++
    u8 r.result.reason.code ++ u8 (marks r.result.flags) ++ u16 (orZero r.result.dose) ++ u16 (orZero r.result.closure)

/-- Offsets 4 to 19 of a STATUS-TAKE reply: 0 unless the content is solicited (R197). -/
def PendingStatus.bytes (p : PendingStatus) : List Byte :=
  match p with
  | .empty | .alert => zeros 16
  | .solicited c =>
    [c.kinds] ++ u8 (marks [c.first.isSome, c.notify.isSome]) ++ u8 c.merged ++ bytes16 c.reasons ++
    u8 (orZero c.notify) ++ recordBytes c.first

/-- The 22 bytes of a STATUS-TAKE reply (R197). -/
def statusBytes (h : Fin 16) (live : Byte) (t : HeadStatus) : List Byte :=
  u8 h.val ++ u8 t.pending.code ++ [live, t.changed] ++ t.pending.bytes ++ zeros 2

/-! ### Queries (R202) -/

/-- The track configuration as the TRACK-SETUP payload (R201, R202). -/
def TrackConfig.bytes (c : TrackConfig) : List Byte :=
  u8 c.length ++ u8 (c.form.getD 0xFF) ++ u8 c.sealPos ++ u16 c.stallLimit ++ u8 (orZero c.threshold) ++
  u8 (marks [c.verdictRequired, c.manifestRequired])

/-- The serial number at a position below the configured length, or 0 (R16, R202). -/
def Track.serialAt (t : Track) (p : Nat) : Nat :=
  if p < t.config.length then (t.nestAt p).elim 0 Nest.serial else 0

/-- The 67 bytes of a TRACK-QUERY reply (R16, R202). -/
def State.trackBytes (s : State) : List Byte :=
  u8 s.track.mode.code ++ u8 s.track.index.code ++ s.track.config.bytes ++ u32 s.track.indexCount ++ u16 s.track.serial ++
  (List.range 24).flatMap (fun p => u16 (s.track.serialAt p)) ++
  u8 s.track.manifests.length ++ u8 s.track.outcomes.length ++ [s.causes] ++ u8 (mark s.holdAsserted)

/-- The parameters as the HEAD-SETUP payload from offset 1 to offset 18; the lane of a binding of NONE is sent as 0 (R202,
log entry 11). -/
def HeadParams.bytes (p : HeadParams) : List Byte :=
  (match p.binding with
   | none => [0, 0]
   | some (st, lane) => u8 st.code ++ u8 lane.val) ++
  u8 p.source.code ++ u16 p.startDelay ++ u8 p.samplePeriod ++ u16 p.standby ++ u16 p.ceiling ++ u16 p.band ++
  u16 p.settle ++ u8 (marks [p.lowExtended, p.autoReject, p.holdOnSafe]) ++ u16 p.openLimit ++ u8 p.loopMode.code

/-- Offsets 41 to 48 of a HEAD-QUERY reply: the cycle, while one is PENDING or RUNNING (R94, R202). -/
def Head.cycleBytes (x : Head) : List Byte :=
  match x.cycle with
  | none => zeros 8
  | some c =>
    u8 c.origin.code ++
    (match x.packRef with
     | some r => u16 r.serial ++ u8 r.lane.val ++ u8 r.station.code
     | none => zeros 4) ++
    (match c.run with
     | some r => u8 r.current ++ u16 (orZero r.closure)
     | none => zeros 3)

/-- The 49 bytes of a HEAD-QUERY reply (R94, R202). -/
def Head.bytes (h : Fin 16) (x : Head) : List Byte :=
  u8 h.val ++ u8 x.state.code ++ u8 x.platen.code ++ x.params.bytes ++
  u16 x.tempSet ++ u16 x.presSet ++ u16 x.heaterCode ++ u16 x.pressureCode ++ x.coeffs.bytes ++
  [x.monitor.live] ++ u8 x.monitor.inject ++
  u8 (marks
    [x.release.isSome, x.cycle.isSome, x.cycle.isSome && x.packRef.isSome, x.run?.any Run.resealUsed,
     (x.run?.bind Run.closure).isSome]) ++
  u8 (x.release.elim 0 fun r => r.dest.code) ++ x.cycleBytes

/-- The 15 bytes of a COUNT-READ reply (R132, R202). -/
def Counters.bytes (h : Fin 16) (c : Counters) : List Byte :=
  u8 h.val ++ u16 c.deviations ++ u16 c.sensorFaults ++ u32 c.started ++ u16 c.failed ++ u16 c.reseals ++ u16 c.longest

/-- The head whose record is concerned while READING or WRITING (R181). -/
def StoreOp.head : StoreOp → Option (Fin 16)
  | .reading h => some h | .writing h _ => some h | .loading _ | .idle => none

/-- The records judged so far while LOADING (R181). -/
def StoreOp.judged : StoreOp → Nat
  | .loading l => l.length | .idle | .reading _ | .writing .. => 0

/-- The 5 bytes of a STORE-QUERY reply (R181, R202). -/
def Store.bytes (t : Store) : List Byte :=
  u8 t.op.code ++ u8 t.op.judged ++ u8 (marks [t.op.head.isSome, t.lastWrite.isSome]) ++
  u8 (t.op.head.elim 0 Fin.val) ++ u8 (t.lastWrite.elim 0 Fin.val)

/-- The 10 bytes of a COEFF-READ reply (R177, R202). -/
def readBytes (h : Fin 16) (r : StoreRecord) (valid : Bool) : List Byte :=
  u8 h.val ++ r.items.bytes ++ u8 (mark valid)

end Sys2Proof.Machine
end

