-- ==== Sys2Proof/Machine/Link.lean ====
section
/-! DEFINITION. The Message Link: frames as bytes and their check, the receiver, the receive buffer and the reply slots, and
the transmitter (chapter 11). -/

namespace Sys2Proof

/-! ### Frames as bytes (R184, R193) -/

/-- One bit fed to the check register, generator polynomial 0x1021 (R184). -/
def crcBit (r : Half) (bit : Bool) : Half :=
  if r.msb ^^ bit then (r <<< 1) ^^^ 0x1021 else r <<< 1

/-- One byte fed to the check register, most significant bit first (R184). -/
def crcByte (r : Half) (b : Byte) : Half :=
  [7, 6, 5, 4, 3, 2, 1, 0].foldl (fun r i => crcBit r (b.getLsbD i)) r

/-- The check over bytes in order (R184). -/
def crc16 (l : List Byte) : Half :=
  l.foldl crcByte 0xFFFF

/-- The bytes that the length byte counts: kind, tag and payload (R193). -/
def Frame.counted (f : Frame) : List Byte :=
  [f.kind, f.tag] ++ f.payload

/-- The length byte (R193). -/
def Frame.lengthByte (f : Frame) : Byte :=
  BitVec.ofNat 8 f.counted.length

/-- The check of a frame (R184). -/
def Frame.check (f : Frame) : Half :=
  crc16 (f.lengthByte :: f.counted)

/-- A frame as it stands on the line (R193). -/
def Frame.wire (f : Frame) : List Byte :=
  [0xA5, 0x5A, f.lengthByte] ++ f.counted ++ bytes16 f.check

/-- The milliseconds to the first whole millisecond at which a frame's last byte is out: ten bits a byte (R182, log
entry 7). -/
def Frame.sendTime (f : Frame) : Nat :=
  (f.wire.length * 10 * 1000 + Config.lineRate - 1) / Config.lineRate

/-! ### Kinds that the device sends (R186, R200) -/

/-- The reply kind of a request kind (R186). -/
def replyKind (kind : Byte) : Byte :=
  kind + 0x80

/-- The reply kind to a frame that is no request (R186). -/
def Kind.unknownReply : Byte := 0xFF

/-- HEAD-NOTICE (R200). -/
def Kind.headNotice : Byte := 0xE0

/-- TRACK-NOTICE (R200). -/
def Kind.trackNotice : Byte := 0xE1

/-- OUTCOME (R200). -/
def Kind.outcome : Byte := 0xE2

end Sys2Proof

namespace Sys2Proof.Machine

/-! ### The receiver (R183) -/

/-- One good byte at the receiver (R183). In CHECK the bytes are collected; the frame is judged when two are there. -/
def Receiver.take (b : Byte) (r : Receiver) : Receiver :=
  match r with
  | .hunt => if b = 0xA5 then .sync else .hunt
  | .sync => if b = 0x5A then .length else if b = 0xA5 then .sync else .hunt
  | .length => if within 2 b.toNat 252 then .body b.toNat [] else .hunt
  | .body n l => if n ≤ l.length + 1 then .check n (l ++ [b]) [] else .body n (l ++ [b])
  | .check n l c => .check n l (c ++ [b])

/-- The receiver with its time of the last byte, which only a frame in progress has. -/
def Link.setReceiver (now : Nat) (r : Receiver) (k : Link) : Link :=
  { k with receiver := r, lastByte := if r = .hunt then none else some now }

/-- A frame whose two check bytes are collected, and whether its check agrees (R184). -/
def Receiver.complete (r : Receiver) : Option (Frame × Bool) :=
  match r with
  | .check n (kind :: tag :: payload) [hi, lo] =>
    some (⟨kind, tag, payload⟩, crc16 (BitVec.ofNat 8 n :: kind :: tag :: payload) == be16 hi lo)
  | _ => none

/-- Whether a gap of more than 5 ms has passed since the last byte of a frame in progress (R183). -/
def Link.gapPassed (now : Nat) (k : Link) : Bool :=
  k.receiver.complete.isNone &&
  (match k.lastByte with
   | some t => decide (t + Config.gapLimit < now)
   | none => false)

/-- A byte at the receiver: after a gap it is judged in HUNT, and one with a missing stop bit leaves HUNT (R183). -/
def Link.byte (now : Nat) (b : Byte) (stopBit : Bool) (k : Link) : Link :=
  let r := if k.gapPassed now then .hunt else k.receiver
  k.setReceiver now (if stopBit then r.take b else .hunt)

/-! ### The buffer and the slots (R185, R187) -/

/-- Slots that are reserved or filled. -/
def Link.slotsUsed (k : Link) : Nat :=
  k.reserved.length + k.filled.length

/-- Whether a reply slot is free (R187). -/
def Link.slotFree (k : Link) : Bool :=
  decide (k.slotsUsed < Config.replySlots)

/-- A whole frame offered to the buffer: it joins the tail, or is discarded when the buffer holds four (R185). -/
def Link.push (f : Frame) (k : Link) : Link :=
  if k.buffer.length < Config.rxRoom then { k with buffer := k.buffer ++ [f] } else k

/-- A reply formed: it is the youngest of the filled slots (R187). -/
def Link.fill (f : Frame) (k : Link) : Link :=
  { k with filled := k.filled ++ [f] }

/-- A slot left reserved for a reply that is not yet formed (R186). -/
def Link.reserve (r : Reserved) (k : Link) : Link :=
  { k with reserved := k.reserved ++ [r] }

/-- The oldest reserved slot of a request kind filled; without one, nothing (R186, R8, R177). -/
def Link.complete (kind : Byte) (a : Answer) (k : Link) : Link :=
  match k.reserved.find? fun r => r.kind == kind with
  | some r => { k with reserved := k.reserved.erase r }.fill ⟨replyKind kind, r.tag, a.payload⟩
  | none => k

/-- The receiver, buffer and slots as a soft reset leaves them; a message being sent goes on without its source (R189,
R190). -/
def Link.softReset (k : Link) : Link where
  receiver := .hunt
  lastByte := none
  buffer := []
  reserved := []
  filled := []
  sending := k.sending.map fun m =>
    { m with
      source := match m.source with
        | .reply | .report | .removed => .removed
        | .notice => .notice }

/-- What the link does to the state. -/
def State.mapLink (f : Link → Link) (s : State) : State :=
  s.setLink (f s.link)

/-! ### The transmitter (R188, R189) -/

/-- The owed flag of a head's notice cleared as the notice is chosen (R156). -/
def HeadStatus.notified (t : HeadStatus) : HeadStatus :=
  { t with owed := false }

/-- The owed flag of the track notice cleared as the notice is chosen (R159). -/
def TrackStatus.notified (t : TrackStatus) : TrackStatus :=
  { t with owed := false }

/-- The message the transmitter chooses, with its source and what the choice does to the state: the oldest reply, the oldest
report, the lowest owed head notice, the track notice (R188). -/
def State.nextMessage (s : State) : Option (Frame × Source × State) :=
  match s.link.filled, s.track.outcomes, allHeads.find? fun h => (s.status h).owed with
  | f :: _, _, _ => some (f, .reply, s)
  | [], n :: _, _ => some (⟨Kind.outcome, 0, n.bytes⟩, .report, s)
  | [], [], some h =>
    some (⟨Kind.headNotice, 0, u8 h.val ++ u8 (s.status h).pending.code⟩, .notice,
      s.putStatus h (s.status h).notified)
  | [], [], none =>
    if s.trackStatus.owed then
      some (⟨Kind.trackNotice, 0, [s.trackStatus.changed]⟩, .notice, s.setTrackStatus s.trackStatus.notified)
    else none

/-- The transmitter, if it is free and host-hold inactive, begins the next message (R188). -/
def State.beginMessage (s : State) : State :=
  if s.link.sending.isNone && !s.lines.hostHold then
    match s.nextMessage with
    | some (f, source, s') => s'.mapLink fun k => { k with sending := some ⟨f, source, s.now + f.sendTime⟩ }
    | none => s
  else s

/-- A report sent leaves the outcome queue; at the removal that leaves four, OUTCOME_BACKLOG leaves (R19, R42). -/
def State.removeReport (s : State) : State :=
  let s1 := s.setTrack { s.track with outcomes := s.track.outcomes.tail }
  if s.track.outcomes.length = Config.backlogClear + 1 then s1.dropCause .outcomeBacklog else s1

/-- What the last byte of a message does to its source; the transmitter is free (R189). -/
def State.endMessage (source : Source) (s : State) : State :=
  let s1 := s.mapLink fun k => { k with sending := none }
  match source with
  | .reply => s1.mapLink fun k => { k with filled := k.filled.tail }
  | .report => s1.removeReport
  | .notice | .removed => s1

end Sys2Proof.Machine
end

