-- ==== Sys2Proof/Machine/StoreOps.lean ====
section
/-! DEFINITION. The Coefficient Store: records and their check, the load, a read and a write (chapter 10). -/

namespace Sys2Proof.Machine

/-- The sum of a record's eight data bytes (R174). -/
def dataSum (c : CoeffItems) : Nat :=
  (c.bytes.map BitVec.toNat).sum

/-- The check formed from four data items: 65535 less the sum of the eight data bytes (R174). -/
def formCheck (c : CoeffItems) : Half :=
  BitVec.ofNat 16 (65535 - dataSum c)

/-- Whether a record is valid (R174). -/
def StoreRecord.valid (r : StoreRecord) : Bool :=
  r.check == formCheck r.items

/-- The record a completed write leaves (R174, R179). -/
def StoreRecord.written (c : CoeffItems) : StoreRecord :=
  ⟨c, formCheck c⟩

/-- One two-byte item of an interrupted record: each byte new where the mix says so, old elsewhere. -/
def mixItem (newHigh newLow : Bool) (old new : Half) : Half :=
  be16 ((if newHigh then new else old).extractLsb' 8 8) ((if newLow then new else old).extractLsb' 0 8)

/-- The record a device reset leaves in the middle of a write: its data bytes a mix of old and new, and its check not the
one they form (R180). The mix and the check are free values (log entry 4). -/
def StoreRecord.interrupted (draw : Nat) (old : StoreRecord) (new : CoeffItems) : StoreRecord :=
  let m := Config.interruptedMix draw
  let items : CoeffItems :=
    ⟨mixItem (m.getLsbD 0) (m.getLsbD 1) old.items.tempGain new.tempGain,
     mixItem (m.getLsbD 2) (m.getLsbD 3) old.items.tempOffset new.tempOffset,
     mixItem (m.getLsbD 4) (m.getLsbD 5) old.items.presGain new.presGain,
     mixItem (m.getLsbD 6) (m.getLsbD 7) old.items.presOffset new.presOffset⟩
  let check := Config.interruptedCheck draw
  ⟨items, if check = formCheck items then check + 1 else check⟩

/-- The records after a device reset: one being written is left invalid, the others are not touched (R180). -/
def Store.recordsAfterReset (draw : Nat) (t : Store) : Bank StoreRecord :=
  match t.op with
  | .writing h new => t.records.modify h fun old => old.interrupted draw new
  | .loading _ | .idle | .reading _ => t.records

/-- The store as a device reset leaves it: LOADING from head 0 (R175, R180). -/
def Store.deviceReset (now draw : Nat) (t : Store) : Store :=
  ⟨t.recordsAfterReset draw, .loading [], now + Config.storeReadTime, none⟩

/-- The store as a soft reset leaves it: a read is abandoned, a load or a write goes on (R180). -/
def Store.softReset (t : Store) : Store :=
  match t.op with
  | .reading _ => { t with op := .idle }
  | .loading _ | .idle | .writing .. => t

/-- Whether the store is LOADING. -/
def Store.isLoading (t : Store) : Bool :=
  match t.op with
  | .loading _ => true
  | .idle | .reading _ | .writing .. => false

/-- Whether the store is writing the record of a head (R68). -/
def Store.isWriting (h : Fin 16) (t : Store) : Bool :=
  match t.op with
  | .writing h' _ => h' == h
  | .loading _ | .idle | .reading _ => false

/-- The result of judging a record at the load: its items, or none for one that fails its check (R175). -/
def StoreRecord.judge (r : StoreRecord) : Option CoeffItems :=
  if r.valid then some r.items else none

/-- What the end of the load does to a head: the active coefficients, zero for a record that failed, and UNCAL (R175). -/
def HeadCtx.loadCoeffs (items : Option CoeffItems) (x : HeadCtx) : HeadCtx :=
  match items with
  | some c => { x with head := { x.head with coeffs := c, monitor := x.head.monitor.setLive .uncal false } }
  | none => HeadCtx.setCond .uncal true { x with head := { x.head with coeffs := ⟨0, 0, 0, 0⟩ } }

/-- The end of the load, as one act (R175). -/
def State.endLoad (judged : List (Option CoeffItems)) (s : State) : State :=
  let s1 := s.setStore { s.store with op := .idle }
  s1.actHeads (fun h x => x.loadCoeffs ((judged[h.val]?).join)) allHeads

/-- The results of a load with the next record's added (R175). -/
def Store.judgedWith (judged : List (Option CoeffItems)) (t : Store) : List (Option CoeffItems) :=
  judged ++ [if h : judged.length < 16 then (t.records.get ⟨judged.length, h⟩).judge else none]

/-- One record of the load judged; the sixteenth ends the load (R175). -/
def State.judgeRecord (judged : List (Option CoeffItems)) (due : Nat) (s : State) : State :=
  if 16 ≤ judged.length + 1 then s.endLoad (s.store.judgedWith judged)
  else s.setStore { s.store with op := .loading (s.store.judgedWith judged), due := due + Config.storeReadTime }

/-- The end of a write at its head: the active coefficients, and UNCAL cleared if it is live (R179). -/
def HeadCtx.writeCoeffs (c : CoeffItems) (x : HeadCtx) : HeadCtx :=
  let y := { x with head := { x.head with coeffs := c } }
  if x.head.isLive .uncal then y.setCond .uncal false else y

/-- The end of a write, as one act (R179). -/
def State.endWrite (h : Fin 16) (c : CoeffItems) (s : State) : State :=
  let s1 := s.setStore { s.store with op := .idle, records := s.store.records.set h (.written c) }
  s1.actHead h (HeadCtx.writeCoeffs c)

end Sys2Proof.Machine
end

