-- ==== Sys2Proof/Machine/Resets.lean ====
section
/-! DEFINITION. The two resets of every block (R23, R45, R64, R95, R109, R134, R147, R161, R162, R173, R180, R190, R191). -/

namespace Sys2Proof.Machine

/-! ### Soft reset -/

/-- The Nest Track: the index state and the configuration stay (R23, R45). -/
def Track.softReset (t : Track) : Track where
  mode := .halted
  index := t.index
  slots := List.replicate t.config.length none
  config := t.config

/-- The track status: the enable mask stays (R162). -/
def TrackStatus.softReset (t : TrackStatus) : TrackStatus where
  enable := t.enable

/-- The monitor: UNCAL alone stays (R134). -/
def Monitor.softReset (m : Monitor) : Monitor where
  live := m.live &&& BitSet.add 0 Cond.uncal.bit

/-- A head: the parameters and active coefficients stay, and the platen as R71 moves it (R95, R109, R134, R173). -/
def Head.softReset (x : Head) : Head where
  params := x.params
  platen := x.platen.retract
  coeffs := x.coeffs
  monitor := x.monitor.softReset

/-- A head's status record: the enable mask stays (R161). -/
def HeadStatus.softReset (t : HeadStatus) : HeadStatus where
  enable := t.enable

/-- The soft reset of every block, as one act (R190). The Recipe Library is kept (R64). -/
def State.softReset (s : State) : State :=
  { s with
    link := s.link.softReset
    track := s.track.softReset
    causes := 0
    trackStatus := s.trackStatus.softReset
    heads := s.heads.map Head.softReset
    statuses := s.statuses.map HeadStatus.softReset
    gate := s.gate.abandon
    store := s.store.softReset }

/-! ### Device reset -/

/-- The platen sensor levels set. -/
def Lines.setPlatens (openLevels closedLevels : BitVec 16) (l : Lines) : Lines :=
  { l with
    heads := l.heads.mapIdx fun h x =>
      { x with openLevel := BitSet.has openLevels h.val, closedLevel := BitSet.has closedLevels h.val } }

/-- A head after a device reset (R95). -/
def Head.deviceReset (openLevel : Bool) : Head where
  platen := if openLevel then .opened else .unknown

/-- The device after a device reset: the nonvolatile records, the input lines and the queue of commands stay, and the clock
runs on (R23, R64, R95, R180, R191, log entries 2 and 5). -/
def State.deviceReset (openLevels closedLevels : BitVec 16) (s : State) : State :=
  let lines := s.lines.setPlatens openLevels closedLevels
  { State.reset with
    now := s.now
    heads := lines.heads.map fun l => Head.deviceReset l.openLevel
    store := s.store.deviceReset s.now s.draws
    lines := lines
    draws := s.draws + 1
    pending := s.pending }

end Sys2Proof.Machine
end

