-- ==== Sys2Proof/Machine/TrackRequests.lean ====
section
/-! DEFINITION. What the Nest Track, the Gate Unit and the track status do with the requests they own (chapters 1, 2, 7, 8 and
9). An act gives the state after the request and its answer, or no answer yet where the reply is formed later (R186). -/

namespace Sys2Proof.Machine

/-- A request answered in its act. -/
def answered (a : Answer) (s : State) : State × Option Answer :=
  (s, some a)

/-- PART-RESET: the soft reset of every block (R190). -/
def actPartReset (s : State) : State × Option Answer :=
  answered (.ok []) s.softReset

/-! ### Setup -/

/-- Whether any head is bound to a station (R2). -/
def State.anyBound (st : Station) (s : State) : Bool :=
  s.heads.toList.any fun x => (x.boundLane st).isSome

/-- The track configuration replaced; the track is empty (R2). -/
def Track.configure (c : TrackConfig) (t : Track) : Track :=
  { t with config := c, slots := List.replicate c.length none }

/-- TRACK-SETUP (R2, R31). -/
def actTrackSetup (r : TrackSetupReq) (s : State) : State × Option Answer :=
  let c := trackConfigOf r
  if s.track.mode ≠ .halted then answered (.refuse .wrongMode 0) s
  else if !c.valid then answered (.refuse .badValue 0) s
  else if c.form.isNone && s.anyBound .form then answered (.refuse .inUse 0) s
  else answered (.ok []) (s.crossManifest (s.track.configure c))

/-- GATE-SETUP (R135). -/
def actGateSetup (r : GateSetupReq) (s : State) : State × Option Answer :=
  let c := gateConfigOf r
  if s.track.mode ≠ .halted then answered (.refuse .wrongMode 0) s
  else if !c.valid then answered (.refuse .badValue 0) s
  else answered (.ok []) (s.setGate { s.gate with config := c })

/-! ### Track mode -/

/-- The mode that a TRACK-START asks for (R3, R201). -/
def startMode (flags : Byte) : TrackMode :=
  if flag flags 0 then .test else .run

/-- TRACK-START (R3). -/
def actTrackStart (flags : Byte) (s : State) : State × Option Answer :=
  if s.track.mode ≠ .halted then answered (.refuse .wrongMode 0) s
  else if s.store.isLoading then answered (.refuse .notLoaded 0) s
  else answered (.ok []) (s.setTrack { s.track with mode := startMode flags })

/-- TRACK-STOP (R4). -/
def actTrackStop (s : State) : State × Option Answer :=
  if s.track.mode = .halted then answered (.refuse .wrongMode 1) s
  else answered (.ok (u8 s.track.nests.length)) s.stopTrack

/-- STEP: the synthetic INDEX-START in this act, the synthetic INDEX-DONE due 1 ms later; the reply is formed then (R8). -/
def actStep (s : State) : State × Option Answer :=
  if s.track.mode ≠ .test then answered (.refuse .wrongMode 2) s
  else if s.track.index = .moving then answered (.refuse .wrongState 2) s
  else
    let s1 := s.takeIndexStart
    (s1.setTrack { s1.track with steps := s1.track.steps ++ [s.now + 1] }, none)

/-! ### Manifests, verdicts and line-hold -/

/-- MANIFEST-POST (R26, R30). -/
def actManifestPost (codes : Lanes Byte) (s : State) : State × Option Answer :=
  let m := codes.map BitVec.toNat
  if Config.manifestRoom ≤ s.track.manifests.length then answered (.refuse .queueFull 2) s
  else
    match s.library.manifestFault m allLanes with
    | some (r, lane) => answered ⟨r, u8 0 ++ u8 lane.val⟩ s
    | none =>
      answered (.ok (u8 (s.track.manifests.length + 1) ++ u8 0))
        (s.crossManifest { s.track with manifests := s.track.manifests ++ [m] })

/-- MANIFEST-FLUSH (R28, R30). -/
def actManifestFlush (s : State) : State × Option Answer :=
  answered (.ok (u8 s.track.manifests.length)) (s.crossManifest { s.track with manifests := [] })

/-- VERDICT (R33 to R36). -/
def actVerdict (serial : Half) (mask reason : Byte) (s : State) : State × Option Answer :=
  if serial = 0 ∨ within 1 reason.toNat 15 = false then answered (.refuse .badValue 1) s
  else
    match s.track.find serial.toNat with
    | none => answered (.refuse .notFound 1) s
    | some (_, n) =>
      let judge : Fin 8 → Pack → Pack :=
        if s.gate.decided serial.toNat then Pack.judgeLate mask else Pack.judge mask reason.toNat
      answered ⟨if s.gate.decided serial.toNat then .late else .ok, u8 (n.newlyNamed mask)⟩
        (s.setTrack (s.track.updateNest serial.toNat fun n => { n with packs := n.packs.mapIdx judge }))

/-- HOLD-RELEASE: the latching causes leave (R20). -/
def actHoldRelease (s : State) : State × Option Answer :=
  let s1 := s.changeCauses (s.causes &&& liveCauses)
  answered (.ok [s1.causes]) s1

/-! ### Queries and track status -/

/-- TRACK-QUERY (R16). -/
def actTrackQuery (s : State) : State × Option Answer :=
  answered (.ok s.trackBytes) s

/-- NEST-QUERY (R17). -/
def actNestQuery (serial : Half) (s : State) : State × Option Answer :=
  if serial = 0 then answered (.refuse .badValue 194) s
  else
    match s.track.find serial.toNat with
    | none => answered (.refuse .notFound 194) s
    | some (p, n) => answered (.ok (u8 p ++ n.bytes)) s

/-- TRACK-STATUS-TAKE on the track status (R160). -/
def TrackStatus.take (flags mask : Byte) (t : TrackStatus) : TrackStatus where
  changed := 0
  enable := if flag flags 0 then mask &&& trackEventMask else t.enable
  owed := false

/-- TRACK-STATUS-TAKE (R160). -/
def actTrackStatusTake (flags mask : Byte) (s : State) : State × Option Answer :=
  answered (.ok [s.trackStatus.changed, s.trackLive]) (s.setTrackStatus (s.trackStatus.take flags mask))

end Sys2Proof.Machine
end

