-- ==== Sys2Proof/Machine/RecipeRequests.lean ====
section
/-! DEFINITION. What the Recipe Library and the Coefficient Store do with the requests they own (chapters 3 and 10). -/

namespace Sys2Proof.Machine

/-! ### Formats (R48, R49, R52) -/

/-- Whether the profiles a format names are stored, the seal profile looked at first (R48). -/
def Library.hasProfiles (l : Library) (f : Format) : Bool :=
  (l.profile f.sealProfile).isSome &&
  (match f.form with
   | none => true
   | some (id, _) => (l.profile id).isSome)

/-- FORMAT-PUT (R48, R49). -/
def actFormatPut (r : FormatReq) (s : State) : State × Option Answer :=
  match formatOf r with
  | none => answered (.refuse .badValue 2) s
  | some f =>
    let replaced := (s.library.format r.code.toNat).isSome
    let formats := insertKey r.code.toNat f s.library.formats
    if !s.library.hasProfiles f then answered (.refuse .unknownProfile 2) s
    else if !replaced && decide (Config.formatRoom ≤ s.library.formats.length) then answered (.refuse .noRoom 2) s
    else answered (.ok (u8 formats.length ++ u8 (mark replaced))) (s.setLibrary { s.library with formats := formats })

/-- FORMAT-DROP (R52). -/
def actFormatDrop (code : Byte) (s : State) : State × Option Answer :=
  let c := code.toNat
  let queued := s.track.codeQueued c
  let onTrack := s.track.codeOnTrack c
  let formats := eraseKey c s.library.formats
  if !formatCodeOk c then answered (.refuse .badValue 2) s
  else if (s.library.format c).isNone then answered (.refuse .notFound 2) s
  else if queued || onTrack then answered ⟨.inUse, u8 0 ++ u8 (marks [queued, onTrack])⟩ s
  else answered (.ok (u8 formats.length ++ u8 0)) (s.setLibrary { s.library with formats := formats })

/-! ### Profiles (R56 to R61) -/

/-- PROFILE-PUT: value checks, structure and timing checks, and room (R56 to R60). -/
def actProfilePut (id : Byte) (segments : List SegmentReq) (s : State) : State × Option Answer :=
  if !profileIdOk id.toNat || !within 1 segments.length 16 then answered (.refuse .badValue 2) s
  else
    match segmentList segments with
    | none => answered (.refuse .badValue 2) s
    | some gs =>
      match profileFault gs with
      | some n => answered ⟨.profileInvalid, u8 0 ++ u8 n⟩ s
      | none =>
        if s.library.free + s.library.held id.toNat < gs.length then
          answered ⟨.noRoom, u8 s.library.free ++ u8 0⟩ s
        else
          let l := { s.library with profiles := insertKey id.toNat gs s.library.profiles }
          answered (.ok (u8 l.free ++ u8 0)) (s.setLibrary l)

/-- PROFILE-DROP (R61). -/
def actProfileDrop (id : Byte) (s : State) : State × Option Answer :=
  if !profileIdOk id.toNat then answered (.refuse .badValue 2) s
  else if (s.library.profile id.toNat).isNone then answered (.refuse .notFound 2) s
  else
    match s.library.lowestNaming id.toNat with
    | some code => answered ⟨.inUse, u8 0 ++ u8 code⟩ s
    | none =>
      let l := { s.library with profiles := eraseKey id.toNat s.library.profiles }
      answered (.ok (u8 l.free ++ u8 0)) (s.setLibrary l)

/-! ### Coefficient Store (R177, R178, R181) -/

/-- Whether the store is IDLE. -/
def Store.isIdle (t : Store) : Bool :=
  match t.op with
  | .idle => true
  | .loading _ | .reading _ | .writing .. => false

/-- COEFF-READ: accepted, its slot stays reserved for the reply 3 ms later (R177). -/
def actCoeffRead (head : Byte) (s : State) : State × Option Answer :=
  match headOf head with
  | none => answered (.refuse .badValue 10) s
  | some h =>
    if !s.store.isIdle then answered (.refuse .storeBusy 10) s
    else (s.setStore { s.store with op := .reading h, due := s.now + Config.storeReadTime }, none)

/-- COEFF-WRITE: the write begins and its reply is formed at once (R178). -/
def actCoeffWrite (head : Byte) (items : CoeffItems) (s : State) : State × Option Answer :=
  match headOf head with
  | none => answered (.refuse .badValue 0) s
  | some h =>
    if !s.store.isIdle then answered (.refuse .storeBusy 0) s
    else if (s.head h).state ≠ .offline then answered (.refuse .wrongState 0) s
    else
      answered (.ok [])
        (s.setStore { s.store with op := .writing h items, due := s.now + Config.storeWriteTime, lastWrite := some h })

/-- STORE-QUERY (R181). -/
def actStoreQuery (s : State) : State × Option Answer :=
  answered (.ok s.store.bytes) s

end Sys2Proof.Machine
end

