-- ==== Sys2Proof/Machine/HeadRequests.lean ====
section
/-! DEFINITION. What the heads and their status do with the requests that name them (chapters 4, 6, 8 and 9). -/

namespace Sys2Proof.Machine

/-- The reply that carries the state a head has entered (R202). -/
def stateEntered (h : Fin 16) (s : State) : Answer :=
  .ok (u8 (s.head h).state.code)

/-! ### Parameters and enables (R65, R66, R67) -/

/-- Whether another head holds a binding (R65). -/
def State.boundElsewhere (h : Fin 16) (b : Option (Station × Fin 8)) (s : State) : Bool :=
  b.isSome && allHeads.any fun h' => h' != h && (s.head h').params.binding == b

/-- Whether a binding names the FORM station while the track has none (R65). -/
def State.formAbsent (b : Option (Station × Fin 8)) (s : State) : Bool :=
  s.track.config.form.isNone && b.any fun x => x.1 == .form

/-- HEAD-SETUP (R65). -/
def actHeadSetup (head : Byte) (r : HeadSetupReq) (s : State) : State × Option Answer :=
  match headOf head with
  | none => answered (.refuse .badValue 3) s
  | some h =>
    if (s.head h).state ≠ .offline then answered (.refuse .wrongState 3) s
    else
      match headParamsOf r with
      | none => answered (.refuse .badValue 3) s
      | some p =>
        if s.formAbsent p.binding then answered (.refuse .badValue 3) s
        else if s.boundElsewhere h p.binding then answered (.refuse .conflict 3) s
        else answered (.ok (u8 p.samplePeriod ++ u16 p.band)) (s.putHead h { s.head h with params := p })

/-- HEAD-ENABLES at its head: the auto-reject flag, the enable mask and the alert test (R67, R154). -/
def HeadCtx.enables (mask flags : Byte) (x : HeadCtx) : HeadCtx :=
  { x with
    head := { x.head with params := { x.head.params with autoReject := flag flags 0 } }
    status := { x.status with enable := mask &&& condMask }.alertTest }

/-- HEAD-ENABLES (R67). -/
def actHeadEnables (head mask flags : Byte) (s : State) : State × Option Answer :=
  match headOf head with
  | none => answered (.refuse .badValue 0) s
  | some h => answered (.ok []) (s.actHead h (HeadCtx.enables mask flags))

/-! ### Online, offline, and requests on a cycle (R68, R70, R88 to R91) -/

/-- HEAD-ONLINE (R68). -/
def actHeadOnline (head : Byte) (s : State) : State × Option Answer :=
  match headOf head with
  | none => answered (.refuse .badValue 1) s
  | some h =>
    if (s.head h).state ≠ .offline then answered (.refuse .wrongState 1) s
    else if s.store.isLoading then answered (.refuse .notLoaded 1) s
    else if s.store.isWriting h then answered (.refuse .wrongState 1) s
    else
      let s1 := s.actHead h HeadCtx.online
      answered (stateEntered h s1) s1

/-- HEAD-OFFLINE (R70). -/
def actHeadOffline (head : Byte) (s : State) : State × Option Answer :=
  match headOf head with
  | none => answered (.refuse .badValue 0) s
  | some h => answered (.ok []) (s.actHead h HeadCtx.offline)

/-- HEAD-HALT (R89). -/
def actHeadHalt (head : Byte) (s : State) : State × Option Answer :=
  match headOf head with
  | none => answered (.refuse .badValue 0) s
  | some h =>
    if (s.head h).state = .pending ∨ (s.head h).state = .running then
      answered (.ok []) (s.actHead h (HeadCtx.abnormal .halted .ready true))
    else answered (.refuse .wrongState 0) s

/-- HEAD-CANCEL (R90). -/
def actHeadCancel (head : Byte) (s : State) : State × Option Answer :=
  match headOf head with
  | none => answered (.refuse .badValue 0) s
  | some h =>
    if (s.head h).state = .pending then
      answered (.ok []) (s.actHead h (HeadCtx.abnormal .cancelled .ready false))
    else answered (.refuse .wrongState 0) s

/-- HEAD-CLEAR (R91). -/
def actHeadClear (head : Byte) (s : State) : State × Option Answer :=
  match headOf head with
  | none => answered (.refuse .badValue 1) s
  | some h =>
    if (s.head h).state = .offline then answered (.refuse .wrongState 1) s
    else
      let s1 := s.actHead h HeadCtx.clear
      answered (stateEntered h s1) s1

/-- HEAD-RELEASE (R88). -/
def actHeadRelease (head : Byte) (s : State) : State × Option Answer :=
  match headOf head with
  | none => answered (.refuse .badValue 1) s
  | some h =>
    if (s.head h).state ≠ .safe ∨ (s.head h).isLive .high ∨ (s.head h).isLive .sensor then
      answered (.refuse .wrongState 1) s
    else
      let s1 := s.actHead h HeadCtx.releaseSafe
      answered (stateEntered h s1) s1

/-! ### Status and query (R94, R155) -/

/-- STATUS-TAKE (R155). -/
def actStatusTake (head : Byte) (s : State) : State × Option Answer :=
  match headOf head with
  | none => answered (.refuse .badValue 22) s
  | some h =>
    answered (.ok (statusBytes h (s.head h).monitor.live (s.status h))) (s.putStatus h (s.status h).take)

/-- HEAD-QUERY (R94). -/
def actHeadQuery (head : Byte) (s : State) : State × Option Answer :=
  match headOf head with
  | none => answered (.refuse .badValue 49) s
  | some h => answered (.ok ((s.head h).bytes h)) s

/-! ### Counters (R131 to R133) -/

/-- COUNT-SNAPSHOT (R131). -/
def actCountSnapshot (s : State) : State × Option Answer :=
  answered (.ok []) (s.setHeads (s.heads.map Head.snapshot))

/-- COUNT-READ (R132). -/
def actCountRead (head : Byte) (s : State) : State × Option Answer :=
  match headOf head with
  | none => answered (.refuse .badValue 15) s
  | some h => answered (.ok ((s.head h).held.bytes h)) s

/-- COUNT-ZERO (R133). -/
def actCountZero (flags head : Byte) (s : State) : State × Option Answer :=
  if flag flags 0 then answered (.ok []) (s.actHeads (fun _ => HeadCtx.zeroCounters) allHeads)
  else
    match headOf head with
    | none => answered (.refuse .badValue 0) s
    | some h => answered (.ok []) (s.actHead h HeadCtx.zeroCounters)

/-! ### Commissioning (R168, R170) -/

/-- A CYCLE-ONCE started: base 0, cap 4000, the request's window, reseal not allowed, no pack reference (R170). -/
def HeadCtx.once (r : CycleOnceReq) (gs : List Segment) (x : HeadCtx) : HeadCtx :=
  HeadCtx.launch .once (.fresh r.profile.toNat gs 0 4000 (windowOf r) false)
    (x.mapHead fun h => { h with packRef := none })

/-- CYCLE-ONCE (R170). -/
def actCycleOnce (head : Byte) (r : CycleOnceReq) (s : State) : State × Option Answer :=
  match headOf head with
  | none => answered (.refuse .badValue 0) s
  | some h =>
    if !cycleOnceOk r then answered (.refuse .badValue 0) s
    else if s.track.mode = .run then answered (.refuse .wrongMode 0) s
    else if (s.head h).state ≠ .ready ∨ (s.head h).params.loopMode = .monitor then
      answered (.refuse .wrongState 0) s
    else
      match s.library.profile r.profile.toNat with
      | none => answered (.refuse .unknownProfile 0) s
      | some gs => answered (.ok []) (s.actHead h (HeadCtx.once r gs))

/-- An injection count set (R168). -/
def Head.injected (n : Nat) (x : Head) : Head :=
  { x with monitor := { x.monitor with inject := n } }

/-- INJECT (R168). -/
def actInject (head count : Byte) (s : State) : State × Option Answer :=
  match headOf head with
  | none => answered (.refuse .badValue 1) s
  | some h =>
    if count = 0 then answered (.refuse .badValue 1) s
    else if (s.head h).state = .offline then answered (.refuse .wrongState 1) s
    else answered (.ok (u8 (s.head h).monitor.inject)) (s.putHead h ((s.head h).injected count.toNat))

end Sys2Proof.Machine
end

