-- ==== Sys2Proof/Machine/Taking.lean ====
section
/-! DEFINITION. Taking: a frame at the head of the receive buffer takes a slot, is judged, and is acted on by the block that
owns the request (R185, R186). -/

namespace Sys2Proof.Machine

/-- What the block that owns a request does with it. An event is no request: decodeFrame gives none, and nothing is done. -/
def requestAct (i : Instr) (s : State) : State × Option Answer :=
  match i with
  | .partReset _ => actPartReset s
  | .trackSetup _ r => actTrackSetup r s
  | .gateSetup _ r => actGateSetup r s
  | .headSetup _ h r => actHeadSetup h r s
  | .headEnables _ h m g => actHeadEnables h m g s
  | .formatPut _ r => actFormatPut r s
  | .formatDrop _ c => actFormatDrop c s
  | .profilePut _ id gs => actProfilePut id gs s
  | .profileDrop _ id => actProfileDrop id s
  | .trackStart _ g => actTrackStart g s
  | .trackStop _ => actTrackStop s
  | .manifestPost _ c => actManifestPost c s
  | .manifestFlush _ => actManifestFlush s
  | .verdict _ n m r => actVerdict n m r s
  | .holdRelease _ => actHoldRelease s
  | .headOnline _ h => actHeadOnline h s
  | .headOffline _ h => actHeadOffline h s
  | .headHalt _ h => actHeadHalt h s
  | .headCancel _ h => actHeadCancel h s
  | .headClear _ h => actHeadClear h s
  | .headRelease _ h => actHeadRelease h s
  | .statusTake _ h => actStatusTake h s
  | .trackStatusTake _ g m => actTrackStatusTake g m s
  | .headQuery _ h => actHeadQuery h s
  | .trackQuery _ => actTrackQuery s
  | .nestQuery _ n => actNestQuery n s
  | .countSnapshot _ => actCountSnapshot s
  | .countRead _ h => actCountRead h s
  | .countZero _ g h => actCountZero g h s
  | .coeffRead _ h => actCoeffRead h s
  | .coeffWrite _ h c => actCoeffWrite h c s
  | .storeQuery _ => actStoreQuery s
  | .cycleOnce _ h r => actCycleOnce h r s
  | .inject _ h n => actInject h n s
  | .step _ => actStep s
  | .deviceReset .. | .frameReceived | .receiveGapTimeout | .unknownKindFrame ..
  | .syntheticIndexDone | .indexStart | .indexDone | .stallExpiry
  | .platenClosedEdge .. | .platenOpenEdge .. | .startLineEdge _ | .startDelayExpiry _
  | .startLimitExpiry _ | .segmentExpiry _ | .closeLimitExpiry _ | .openLimitExpiry _
  | .rampStep _ | .releaseOpenLimitExpiry _ | .sample .. | .virtualEdgeExpiry _
  | .rejectConfirmEdge | .punchDelayExpiry | .punchWidthExpiry | .diverterDelayExpiry
  | .diverterWidthExpiry | .confirmWindowExpiry | .loadRecordJudged | .coeffReadEnd
  | .coeffWriteEnd | .transmitBegin _ | .messageLastByte | .byteReceived .. => (s, none)

/-- A request taken into a free slot: the act fills the slot with the reply, or leaves it reserved (R185, R186). -/
def State.take (kind tag : Byte) (act : State → State × Option Answer) (s : State) : State :=
  match act s with
  | (s', some a) => s'.mapLink (Link.fill ⟨replyKind kind, tag, a.payload⟩)
  | (s', none) => s'.mapLink (Link.reserve ⟨kind, tag⟩)

/-- A frame taken: judged by its kind and its length before any block sees it (R186). -/
def State.takeFrame (f : Frame) (s : State) : State :=
  match decodeFrame f with
  | .unknownKind => s.mapLink (Link.fill ⟨Kind.unknownReply, f.tag, u8 Result.unknownKind.code⟩)
  | .badLength => s.mapLink (Link.fill ⟨replyKind f.kind, f.tag, u8 Result.badLength.code⟩)
  | .request i => s.take f.kind f.tag (requestAct i)

/-- Frames taken one at a time, in arrival order, while the buffer is not empty and a slot is free; the first argument bounds
their number (R185). -/
def State.takeFrames : Nat → State → State
  | 0, s => s
  | fuel + 1, s =>
    match s.link.buffer with
    | [] => s
    | f :: rest =>
      if s.link.slotFree then
        State.takeFrames fuel ((s.mapLink fun k => { k with buffer := rest }).takeFrame f)
      else s

/-- Taking resumed: at most as many frames as the buffer holds (R185). -/
def State.resumeTaking (s : State) : State :=
  s.takeFrames s.link.buffer.length

/-- A whole frame offered to the buffer and, where a slot is free, taken (R185). -/
def State.offerFrame (f : Frame) (s : State) : State :=
  (s.mapLink (Link.push f)).resumeTaking

/-- A request that has arrived: with the buffer empty and a slot free it is taken at once; otherwise its frame is offered to
the buffer (R185). -/
def State.request (i : Instr) (act : State → State × Option Answer) (s : State) : State :=
  match encodeFrame i with
  | none => s
  | some f => if s.link.buffer.isEmpty && s.link.slotFree then s.take f.kind f.tag act else s.offerFrame f

end Sys2Proof.Machine
end

