-- ==== Sys2Proof/Machine/Commands.lean ====
section
/-! DEFINITION. The commands that are requests: each arrives as R185 says and is acted on by the block that owns it. -/

namespace Sys2Proof.Machine

/-- What a command answers. -/
abbrev Answered := Host.Outcome State Fault Refusal

/-- PART-RESET (R190). -/
def execPartReset (tag : Byte) (s : State) : Answered :=
  .next (s.request (.partReset tag) actPartReset)

/-- TRACK-SETUP (R2, R31). -/
def execTrackSetup (tag : Byte) (r : TrackSetupReq) (s : State) : Answered :=
  .next (s.request (.trackSetup tag r) (actTrackSetup r))

/-- GATE-SETUP (R135). -/
def execGateSetup (tag : Byte) (r : GateSetupReq) (s : State) : Answered :=
  .next (s.request (.gateSetup tag r) (actGateSetup r))

/-- HEAD-SETUP (R65, R66, R163). -/
def execHeadSetup (tag head : Byte) (r : HeadSetupReq) (s : State) : Answered :=
  .next (s.request (.headSetup tag head r) (actHeadSetup head r))

/-- HEAD-ENABLES (R67, R154). -/
def execHeadEnables (tag head mask flags : Byte) (s : State) : Answered :=
  .next (s.request (.headEnables tag head mask flags) (actHeadEnables head mask flags))

/-- FORMAT-PUT (R48, R49). -/
def execFormatPut (tag : Byte) (r : FormatReq) (s : State) : Answered :=
  .next (s.request (.formatPut tag r) (actFormatPut r))

/-- FORMAT-DROP (R52). -/
def execFormatDrop (tag code : Byte) (s : State) : Answered :=
  .next (s.request (.formatDrop tag code) (actFormatDrop code))

/-- PROFILE-PUT (R56 to R60). -/
def execProfilePut (tag id : Byte) (segments : List SegmentReq) (s : State) : Answered :=
  .next (s.request (.profilePut tag id segments) (actProfilePut id segments))

/-- PROFILE-DROP (R61). -/
def execProfileDrop (tag id : Byte) (s : State) : Answered :=
  .next (s.request (.profileDrop tag id) (actProfileDrop id))

/-- TRACK-START (R3). -/
def execTrackStart (tag flags : Byte) (s : State) : Answered :=
  .next (s.request (.trackStart tag flags) (actTrackStart flags))

/-- TRACK-STOP (R4). -/
def execTrackStop (tag : Byte) (s : State) : Answered :=
  .next (s.request (.trackStop tag) actTrackStop)

/-- MANIFEST-POST (R26). -/
def execManifestPost (tag : Byte) (codes : Lanes Byte) (s : State) : Answered :=
  .next (s.request (.manifestPost tag codes) (actManifestPost codes))

/-- MANIFEST-FLUSH (R28). -/
def execManifestFlush (tag : Byte) (s : State) : Answered :=
  .next (s.request (.manifestFlush tag) actManifestFlush)

/-- VERDICT (R33 to R36). -/
def execVerdict (tag : Byte) (serial : Half) (mask reason : Byte) (s : State) : Answered :=
  .next (s.request (.verdict tag serial mask reason) (actVerdict serial mask reason))

/-- HOLD-RELEASE (R20). -/
def execHoldRelease (tag : Byte) (s : State) : Answered :=
  .next (s.request (.holdRelease tag) actHoldRelease)

/-- HEAD-ONLINE (R68). -/
def execHeadOnline (tag head : Byte) (s : State) : Answered :=
  .next (s.request (.headOnline tag head) (actHeadOnline head))

/-- HEAD-OFFLINE (R70). -/
def execHeadOffline (tag head : Byte) (s : State) : Answered :=
  .next (s.request (.headOffline tag head) (actHeadOffline head))

/-- HEAD-HALT (R89). -/
def execHeadHalt (tag head : Byte) (s : State) : Answered :=
  .next (s.request (.headHalt tag head) (actHeadHalt head))

/-- HEAD-CANCEL (R90). -/
def execHeadCancel (tag head : Byte) (s : State) : Answered :=
  .next (s.request (.headCancel tag head) (actHeadCancel head))

/-- HEAD-CLEAR (R91). -/
def execHeadClear (tag head : Byte) (s : State) : Answered :=
  .next (s.request (.headClear tag head) (actHeadClear head))

/-- HEAD-RELEASE (R88). -/
def execHeadRelease (tag head : Byte) (s : State) : Answered :=
  .next (s.request (.headRelease tag head) (actHeadRelease head))

/-- STATUS-TAKE (R155). -/
def execStatusTake (tag head : Byte) (s : State) : Answered :=
  .next (s.request (.statusTake tag head) (actStatusTake head))

/-- TRACK-STATUS-TAKE (R160). -/
def execTrackStatusTake (tag flags mask : Byte) (s : State) : Answered :=
  .next (s.request (.trackStatusTake tag flags mask) (actTrackStatusTake flags mask))

/-- HEAD-QUERY (R94). -/
def execHeadQuery (tag head : Byte) (s : State) : Answered :=
  .next (s.request (.headQuery tag head) (actHeadQuery head))

/-- TRACK-QUERY (R16). -/
def execTrackQuery (tag : Byte) (s : State) : Answered :=
  .next (s.request (.trackQuery tag) actTrackQuery)

/-- NEST-QUERY (R17). -/
def execNestQuery (tag : Byte) (serial : Half) (s : State) : Answered :=
  .next (s.request (.nestQuery tag serial) (actNestQuery serial))

/-- COUNT-SNAPSHOT (R131). -/
def execCountSnapshot (tag : Byte) (s : State) : Answered :=
  .next (s.request (.countSnapshot tag) actCountSnapshot)

/-- COUNT-READ (R132). -/
def execCountRead (tag head : Byte) (s : State) : Answered :=
  .next (s.request (.countRead tag head) (actCountRead head))

/-- COUNT-ZERO (R133). -/
def execCountZero (tag flags head : Byte) (s : State) : Answered :=
  .next (s.request (.countZero tag flags head) (actCountZero flags head))

/-- COEFF-READ (R177). -/
def execCoeffRead (tag head : Byte) (s : State) : Answered :=
  .next (s.request (.coeffRead tag head) (actCoeffRead head))

/-- COEFF-WRITE (R178). -/
def execCoeffWrite (tag head : Byte) (items : CoeffItems) (s : State) : Answered :=
  .next (s.request (.coeffWrite tag head items) (actCoeffWrite head items))

/-- STORE-QUERY (R181). -/
def execStoreQuery (tag : Byte) (s : State) : Answered :=
  .next (s.request (.storeQuery tag) actStoreQuery)

/-- CYCLE-ONCE (R170). -/
def execCycleOnce (tag head : Byte) (r : CycleOnceReq) (s : State) : Answered :=
  .next (s.request (.cycleOnce tag head r) (actCycleOnce head r))

/-- INJECT (R168). -/
def execInject (tag head count : Byte) (s : State) : Answered :=
  .next (s.request (.inject tag head count) (actInject head count))

/-- STEP (R8). -/
def execStep (tag : Byte) (s : State) : Answered :=
  .next (s.request (.step tag) actStep)

/-- A frame of no request kind, answered UNKNOWN_KIND (R186). -/
def execUnknownKindFrame (kind tag : Byte) (payload : List Byte) (s : State) : Answered :=
  .next (s.offerFrame ⟨kind, tag, payload⟩)

end Sys2Proof.Machine
end

