-- ==== Sys2Proof/Machine/Events.lean ====
section
/-! DEFINITION. The commands that are events: resets, edges, expiries, and what the link's lines bring. An expiry finds its
timer running and brings the clock up to it; where no such timer runs, the event cannot occur and changes nothing (log
entry 2). -/

namespace Sys2Proof.Machine

/-- An act of an expiry: nothing without a running timer; with one, the clock brought up to it and the act taken. -/
def State.expire (due : Option Nat) (f : State → State) (s : State) : State :=
  match due with
  | none => s
  | some t => f (s.advanceTo t)

/-- An act of one head at the expiry of one of its timers. -/
def State.expireHead (h : Fin 16) (due : Option Nat) (f : HeadCtx → HeadCtx) (s : State) : State :=
  s.expire due (State.actHead h f)

/-! ### Resets and the link -/

/-- Power-on or the reset line (R23). -/
def execDeviceReset (openLevels closedLevels : BitVec 16) (s : State) : Answered :=
  .next (s.deviceReset openLevels closedLevels)

/-- A collected frame is judged: a whole one is offered to the buffer (R184, R185). Without one, nothing. -/
def State.judgeFrame (s : State) : State :=
  match s.link.receiver.complete with
  | none => s
  | some (f, agrees) =>
    let s1 := s.mapLink (Link.setReceiver s.now .hunt)
    if agrees then s1.offerFrame f else s1

/-- The check bytes of a frame have been received (R184, R185). -/
def execFrameReceived (s : State) : Answered :=
  .next s.judgeFrame

/-- When the gap that abandons the frame in progress is over: the first millisecond more than 5 after its last byte (R183);
a frame whose check bytes are collected is no longer in progress. -/
def Link.gapDue (k : Link) : Option Nat :=
  match k.receiver.complete, k.lastByte with
  | none, some t => some (t + Config.gapLimit + 1)
  | _, _ => none

/-- A gap of more than 5 ms in a frame in progress (R183). -/
def execReceiveGapTimeout (s : State) : Answered :=
  .next (s.expire s.link.gapDue fun s => s.mapLink (Link.setReceiver s.now .hunt))

/-- A byte on the receive line. A frame that was waiting to be judged is judged before it (R183). -/
def execByteReceived (byte : Byte) (stopBit : Bool) (s : State) : Answered :=
  let s1 := s.judgeFrame
  .next (s1.mapLink (Link.byte s1.now byte stopBit))

/-- The transmitter reads host-hold and, if it may, begins the next message (R182, R188). -/
def execTransmitBegin (hostHold : Bool) (s : State) : Answered :=
  .next (s.setLines { s.lines with hostHold := hostHold }).beginMessage

/-- The last byte of the message being sent; a slot it frees lets a buffered frame be taken (R185, R187, R189). -/
def execMessageLastByte (s : State) : Answered :=
  match s.link.sending with
  | none => .next s
  | some m => .next ((s.advanceTo m.due).endMessage m.source).resumeTaking

/-! ### The index (R5 to R8) -/

/-- An edge of the INDEX-START input (R5, R92, R144). -/
def execIndexStart (s : State) : Answered :=
  .next s.takeIndexStart

/-- An edge of the INDEX-DONE input; it shifts in RUN (R5, R10). -/
def execIndexDone (s : State) : Answered :=
  .next (s.takeIndexDone .run).1

/-- The synthetic INDEX-DONE of the oldest STEP; it shifts in TEST, and the STEP's reply is formed (R8). -/
def execSyntheticIndexDone (s : State) : Answered :=
  match s.track.steps with
  | [] => .next s
  | t :: rest =>
    let s1 := s.advanceTo t
    let r := (s1.setTrack { s1.track with steps := rest }).takeIndexDone .test
    .next (r.1.mapLink (Link.complete Kind.step (.ok (u16 r.2))))

/-- The stall timer expires (R6). -/
def execStallExpiry (s : State) : Answered :=
  .next (s.expire s.track.stallTimer fun s =>
    (s.setTrack { s.track with stallTimer := none }).postCause .indexStall)

/-! ### Platen edges (R71, R165) -/

/-- The levels of a head's platen sensors set. -/
def State.setPlaten (h : Fin 16) (closedLevel openLevel : Bool) (s : State) : State :=
  s.setLines
    { s.lines with
      heads := s.lines.heads.modify h fun l => { l with closedLevel := closedLevel, openLevel := openLevel } }

/-- A physical platen edge at a head; in DRY it is not taken (R165). -/
def HeadCtx.physicalEdge (edge : HeadCtx → HeadCtx) (x : HeadCtx) : HeadCtx :=
  if x.head.isDry then x else edge x

/-- An edge of a head's CLOSED sensor (R71). -/
def execPlatenClosedEdge (h : Fin 16) (openLevel : Bool) (s : State) : Answered :=
  .next ((s.setPlaten h true openLevel).actHead h (HeadCtx.physicalEdge HeadCtx.closedEdge))

/-- An edge of a head's OPEN sensor (R71). -/
def execPlatenOpenEdge (h : Fin 16) (closedLevel : Bool) (s : State) : Answered :=
  .next ((s.setPlaten h closedLevel true).actHead h (HeadCtx.physicalEdge HeadCtx.openEdge))

/-- The virtual-edge timer gives its edge and is idle (R165). DEDUCED: the timer is idle before the consequences of its edge, so a
virtual OPEN that an OPEN segment begun in the act makes due stands; R165 leaves the point open (log entry 21). -/
def HeadCtx.virtualEdge (e : VirtualEdge) (x : HeadCtx) : HeadCtx :=
  let y := x.mapHead fun h => { h with virtual := none }
  match e with
  | .closed => y.closedEdge
  | .opened => y.openEdge

/-- A head's virtual-edge timer expires (R165). -/
def execVirtualEdgeExpiry (h : Fin 16) (s : State) : Answered :=
  match (s.head h).virtual with
  | none => .next s
  | some (e, t) => .next ((s.advanceTo t).actHead h (HeadCtx.virtualEdge e))

/-! ### Starts (R74) -/

/-- The start of a head's pending cycle (R75). -/
def State.startPending (h : Fin 16) (s : State) : State :=
  s.actHead h (HeadCtx.startPack s.library (((s.head h).packRef.bind s.track.packOf).map Pack.format))

/-- Whether a head is PENDING with a start source. -/
def Head.waitsFor (source : StartSource) (x : Head) : Bool :=
  x.state == .pending && x.params.source == source

/-- An edge of a head's start line; it starts a PENDING cycle whose source is LINE (R74). -/
def execStartLineEdge (h : Fin 16) (s : State) : Answered :=
  .next (if (s.head h).waitsFor .line then s.startPending h else s)

/-- When the start timer of a head expires, if it serves the source. -/
def Head.startDue (source : StartSource) (x : Head) : Option Nat :=
  if x.waitsFor source then x.startTimer else none

/-- The start delay of a DELAYED pending cycle expires (R74). -/
def execStartDelayExpiry (h : Fin 16) (s : State) : Answered :=
  .next (s.expire ((s.head h).startDue .delayed) (State.startPending h))

/-- The start limit of a LINE pending cycle expires (R74). -/
def execStartLimitExpiry (h : Fin 16) (s : State) : Answered :=
  .next (s.expireHead h ((s.head h).startDue .line) (HeadCtx.abnormal .startTimeout .ready true))

/-! ### Segments and releases (R77 to R79, R85, R99) -/

/-- The duration of a HOLD or RAMP expires (R78). -/
def execSegmentExpiry (h : Fin 16) (s : State) : Answered :=
  .next (s.expireHead h ((s.head h).segmentDue [.hold, .ramp]) HeadCtx.segmentExpiry)

/-- The limit of a CLOSE expires (R77). -/
def execCloseLimitExpiry (h : Fin 16) (s : State) : Answered :=
  .next (s.expireHead h ((s.head h).segmentDue [.close]) (HeadCtx.abnormal .closeLate .ready true))

/-- The limit of an OPEN expires (R79). -/
def execOpenLimitExpiry (h : Fin 16) (s : State) : Answered :=
  .next (s.expireHead h ((s.head h).segmentDue [.openUp]) HeadCtx.openLate)

/-- A ramp step is due (R99). -/
def execRampStep (h : Fin 16) (s : State) : Answered :=
  match (s.head h).ramp with
  | none => .next s
  | some p => .next (s.expireHead h p.due (HeadCtx.rampStep p))

/-- The open limit of a release phase expires (R85). -/
def execReleaseOpenLimitExpiry (h : Fin 16) (s : State) : Answered :=
  .next (s.expireHead h ((s.head h).release.map Release.due) HeadCtx.releaseExpiry)

/-! ### Samples (R110 to R112) -/

/-- A sample of a head whose timer was due at `t`, the timer running on (R110, R112). -/
def HeadCtx.sampleAt (t : Nat) (reading : Option Nat) (x : HeadCtx) : HeadCtx :=
  (x.mapHead (Head.nextSample t)).sample reading

/-- What a head's input lines show set. -/
def State.setHeadLines (h : Fin 16) (l : HeadLines) (s : State) : State :=
  s.setLines { s.lines with heads := s.lines.heads.set h l }

/-- A head's sample timer expires: it reads its temperature port and the levels of its platen sensors (R111, R112). -/
def execSample (h : Fin 16) (reading : Option Nat) (closedLevel openLevel : Bool) (s : State) : Answered :=
  let s1 := s.setHeadLines h ⟨reading, closedLevel, openLevel⟩
  match (s.head h).monitor.sampleTimer with
  | none => .next s1
  | some t => .next ((s1.advanceTo t).actHead h (HeadCtx.sampleAt t reading))

/-! ### The gate (R138 to R143) -/

/-- What the gate does at an expiry of its own, without the track. -/
def State.mapGate (f : Nat → Gate → Gate) (s : State) : State :=
  s.setGate (f s.now s.gate)

/-- A gate timer, while the gate activity is in a phase. -/
def Gate.timerIn (phase : GateActivity → Bool) (timer : Option Nat) (g : Gate) : Option Nat :=
  if g.activity.any phase then timer else none

/-- The punch delay expires (R138). -/
def execPunchDelayExpiry (s : State) : Answered :=
  .next (s.expire (s.gate.timerIn (fun a => a.punch == .delay) s.gate.punchTimer) (State.mapGate Gate.strike))

/-- The punch width expires (R138). -/
def execPunchWidthExpiry (s : State) : Answered :=
  .next (s.expire (s.gate.timerIn (fun a => a.punch == .asserted) s.gate.punchTimer)
    (State.mapGate fun _ => Gate.punchDone))

/-- The diverter delay expires: the diverter decision (R139). -/
def execDiverterDelayExpiry (s : State) : Answered :=
  .next (s.expire (s.gate.timerIn (fun a => a.diverter == .delay) s.gate.diverterTimer) State.divert)

/-- The diverter width expires (R141). -/
def execDiverterWidthExpiry (s : State) : Answered :=
  .next (s.expire (s.gate.timerIn (fun a => a.diverter == .pulse) s.gate.diverterTimer)
    (State.mapGate fun _ => Gate.pulseDone))

/-- The confirm window of the current activity closed, if there is one (R143). -/
def State.endWindow (s : State) : State :=
  match s.gate.activity with
  | none => s
  | some a => s.windowEnd a

/-- The confirm window expires (R143). -/
def execConfirmWindowExpiry (s : State) : Answered :=
  .next (s.expire (s.gate.timerIn GateActivity.windowOpen s.gate.windowTimer) State.endWindow)

/-- An edge of the reject-confirm input (R142). -/
def execRejectConfirmEdge (s : State) : Answered :=
  .next (if s.gate.activity.any GateActivity.windowOpen then s.setGate s.gate.count else s)

/-! ### The store (R175, R177, R179) -/

/-- One record of the load is read and judged (R175). -/
def execLoadRecordJudged (s : State) : Answered :=
  match s.store.op with
  | .loading judged => .next ((s.advanceTo s.store.due).judgeRecord judged s.store.due)
  | .idle | .reading _ | .writing .. => .next s

/-- The read of a COEFF-READ ends: the record is judged and the reply formed (R177). -/
def execCoeffReadEnd (s : State) : Answered :=
  match s.store.op with
  | .reading h =>
    let r := s.store.records.get h
    .next (((s.advanceTo s.store.due).setStore { s.store with op := .idle }).mapLink
      (Link.complete Kind.coeffRead (.ok (readBytes h r r.valid))))
  | .idle | .loading _ | .writing .. => .next s

/-- A write ends (R179). -/
def execCoeffWriteEnd (s : State) : Answered :=
  match s.store.op with
  | .writing h c => .next ((s.advanceTo s.store.due).endWrite h c)
  | .idle | .loading _ | .reading _ => .next s

end Sys2Proof.Machine
end

