-- ==== Sys2Proof/Machine/Dispatch.lean ====
section
/-! DEFINITION. One arm per command of spec/opcode_table.json, each a direct call of its meaning. -/

namespace Sys2Proof.Machine

def exec (i : Instr) (s : State) : Host.Outcome State Fault Refusal :=
  match i with
  | .deviceReset a b => Sys2Proof.Machine.execDeviceReset a b s
  | .partReset a => Sys2Proof.Machine.execPartReset a s
  | .frameReceived => Sys2Proof.Machine.execFrameReceived s
  | .receiveGapTimeout => Sys2Proof.Machine.execReceiveGapTimeout s
  | .unknownKindFrame a b c => Sys2Proof.Machine.execUnknownKindFrame a b c s
  | .trackSetup a b => Sys2Proof.Machine.execTrackSetup a b s
  | .gateSetup a b => Sys2Proof.Machine.execGateSetup a b s
  | .headSetup a b c => Sys2Proof.Machine.execHeadSetup a b c s
  | .headEnables a b c d => Sys2Proof.Machine.execHeadEnables a b c d s
  | .formatPut a b => Sys2Proof.Machine.execFormatPut a b s
  | .formatDrop a b => Sys2Proof.Machine.execFormatDrop a b s
  | .profilePut a b c => Sys2Proof.Machine.execProfilePut a b c s
  | .profileDrop a b => Sys2Proof.Machine.execProfileDrop a b s
  | .trackStart a b => Sys2Proof.Machine.execTrackStart a b s
  | .trackStop a => Sys2Proof.Machine.execTrackStop a s
  | .manifestPost a b => Sys2Proof.Machine.execManifestPost a b s
  | .manifestFlush a => Sys2Proof.Machine.execManifestFlush a s
  | .verdict a b c d => Sys2Proof.Machine.execVerdict a b c d s
  | .holdRelease a => Sys2Proof.Machine.execHoldRelease a s
  | .headOnline a b => Sys2Proof.Machine.execHeadOnline a b s
  | .headOffline a b => Sys2Proof.Machine.execHeadOffline a b s
  | .headHalt a b => Sys2Proof.Machine.execHeadHalt a b s
  | .headCancel a b => Sys2Proof.Machine.execHeadCancel a b s
  | .headClear a b => Sys2Proof.Machine.execHeadClear a b s
  | .headRelease a b => Sys2Proof.Machine.execHeadRelease a b s
  | .statusTake a b => Sys2Proof.Machine.execStatusTake a b s
  | .trackStatusTake a b c => Sys2Proof.Machine.execTrackStatusTake a b c s
  | .headQuery a b => Sys2Proof.Machine.execHeadQuery a b s
  | .trackQuery a => Sys2Proof.Machine.execTrackQuery a s
  | .nestQuery a b => Sys2Proof.Machine.execNestQuery a b s
  | .countSnapshot a => Sys2Proof.Machine.execCountSnapshot a s
  | .countRead a b => Sys2Proof.Machine.execCountRead a b s
  | .countZero a b c => Sys2Proof.Machine.execCountZero a b c s
  | .coeffRead a b => Sys2Proof.Machine.execCoeffRead a b s
  | .coeffWrite a b c => Sys2Proof.Machine.execCoeffWrite a b c s
  | .storeQuery a => Sys2Proof.Machine.execStoreQuery a s
  | .cycleOnce a b c => Sys2Proof.Machine.execCycleOnce a b c s
  | .inject a b c => Sys2Proof.Machine.execInject a b c s
  | .step a => Sys2Proof.Machine.execStep a s
  | .syntheticIndexDone => Sys2Proof.Machine.execSyntheticIndexDone s
  | .indexStart => Sys2Proof.Machine.execIndexStart s
  | .indexDone => Sys2Proof.Machine.execIndexDone s
  | .stallExpiry => Sys2Proof.Machine.execStallExpiry s
  | .platenClosedEdge a b => Sys2Proof.Machine.execPlatenClosedEdge a b s
  | .platenOpenEdge a b => Sys2Proof.Machine.execPlatenOpenEdge a b s
  | .startLineEdge a => Sys2Proof.Machine.execStartLineEdge a s
  | .startDelayExpiry a => Sys2Proof.Machine.execStartDelayExpiry a s
  | .startLimitExpiry a => Sys2Proof.Machine.execStartLimitExpiry a s
  | .segmentExpiry a => Sys2Proof.Machine.execSegmentExpiry a s
  | .closeLimitExpiry a => Sys2Proof.Machine.execCloseLimitExpiry a s
  | .openLimitExpiry a => Sys2Proof.Machine.execOpenLimitExpiry a s
  | .rampStep a => Sys2Proof.Machine.execRampStep a s
  | .releaseOpenLimitExpiry a => Sys2Proof.Machine.execReleaseOpenLimitExpiry a s
  | .sample a b c d => Sys2Proof.Machine.execSample a b c d s
  | .virtualEdgeExpiry a => Sys2Proof.Machine.execVirtualEdgeExpiry a s
  | .rejectConfirmEdge => Sys2Proof.Machine.execRejectConfirmEdge s
  | .punchDelayExpiry => Sys2Proof.Machine.execPunchDelayExpiry s
  | .punchWidthExpiry => Sys2Proof.Machine.execPunchWidthExpiry s
  | .diverterDelayExpiry => Sys2Proof.Machine.execDiverterDelayExpiry s
  | .diverterWidthExpiry => Sys2Proof.Machine.execDiverterWidthExpiry s
  | .confirmWindowExpiry => Sys2Proof.Machine.execConfirmWindowExpiry s
  | .loadRecordJudged => Sys2Proof.Machine.execLoadRecordJudged s
  | .coeffReadEnd => Sys2Proof.Machine.execCoeffReadEnd s
  | .coeffWriteEnd => Sys2Proof.Machine.execCoeffWriteEnd s
  | .transmitBegin a => Sys2Proof.Machine.execTransmitBegin a s
  | .messageLastByte => Sys2Proof.Machine.execMessageLastByte s
  | .byteReceived a b => Sys2Proof.Machine.execByteReceived a b s

end Sys2Proof.Machine
end

