-- ==== Sys2Proof/Machine/Due.lean ====
section
/-! DEFINITION. What is due: the events that the device's own timers, receiver and transmitter bring about at the present
millisecond, as the commands that they are (log entries 2 and 3). -/

namespace Sys2Proof.Machine

/-- A command when its time has come. -/
def dueBy (now : Nat) (due : Option Nat) (i : Instr) : List Instr :=
  match due with
  | some t => if t ≤ now then [i] else []
  | none => []

/-- A command when a test holds. -/
def dueIf (ok : Bool) (i : Instr) : List Instr :=
  if ok then [i] else []

/-- What is due at a head. -/
def State.dueHead (s : State) (h : Fin 16) : List Instr :=
  let x := s.head h
  let l := s.lines.heads.get h
  dueBy s.now (x.startDue .delayed) (.startDelayExpiry h) ++
  dueBy s.now (x.startDue .line) (.startLimitExpiry h) ++
  dueBy s.now (x.segmentDue [.hold, .ramp]) (.segmentExpiry h) ++
  dueBy s.now (x.segmentDue [.close]) (.closeLimitExpiry h) ++
  dueBy s.now (x.segmentDue [.openUp]) (.openLimitExpiry h) ++
  dueBy s.now (x.ramp.bind Ramp.due) (.rampStep h) ++
  dueBy s.now (x.release.map Release.due) (.releaseOpenLimitExpiry h) ++
  dueBy s.now x.monitor.sampleTimer (.sample h l.reading l.closedLevel l.openLevel) ++
  dueBy s.now (x.virtual.map Prod.snd) (.virtualEdgeExpiry h)

/-- What is due at the gate. -/
def State.dueGate (s : State) : List Instr :=
  let g := s.gate
  dueBy s.now (g.timerIn (fun a => a.punch == .delay) g.punchTimer) .punchDelayExpiry ++
  dueBy s.now (g.timerIn (fun a => a.punch == .asserted) g.punchTimer) .punchWidthExpiry ++
  dueBy s.now (g.timerIn (fun a => a.diverter == .delay) g.diverterTimer) .diverterDelayExpiry ++
  dueBy s.now (g.timerIn (fun a => a.diverter == .pulse) g.diverterTimer) .diverterWidthExpiry ++
  dueBy s.now (g.timerIn GateActivity.windowOpen g.windowTimer) .confirmWindowExpiry

/-- What is due at the store. -/
def State.dueStore (s : State) : List Instr :=
  match s.store.op with
  | .loading _ => dueBy s.now (some s.store.due) .loadRecordJudged
  | .reading _ => dueBy s.now (some s.store.due) .coeffReadEnd
  | .writing .. => dueBy s.now (some s.store.due) .coeffWriteEnd
  | .idle => []

/-- Whether the transmitter may begin a message: it is free, host-hold is inactive, and a message waits (R188). -/
def State.mayTransmit (s : State) : Bool :=
  s.link.sending.isNone && !s.lines.hostHold && s.nextMessage.isSome

/-- What is due at the link. -/
def State.dueLink (s : State) : List Instr :=
  dueIf s.link.receiver.complete.isSome .frameReceived ++
  dueBy s.now s.link.gapDue .receiveGapTimeout ++
  dueBy s.now (s.link.sending.map Sending.due) .messageLastByte ++
  dueIf s.mayTransmit (.transmitBegin s.lines.hostHold)

/-- Everything that is due. -/
def State.dueNow (s : State) : List Instr :=
  s.dueLink ++
  dueBy s.now s.track.stallTimer .stallExpiry ++
  dueBy s.now s.track.steps.head? .syntheticIndexDone ++
  s.dueGate ++ s.dueStore ++ allHeads.flatMap s.dueHead

/-- The device left to itself: it takes what is due; of several events either may be taken first, and a free value says which;
with nothing due a millisecond passes (log entries 2 and 3). -/
def State.idle (s : State) : Answered :=
  match s.dueNow with
  | [] => .next (s.advanceTo (s.now + 1))
  | [i] => exec i s
  | i :: j :: rest =>
    let l := i :: j :: rest
    exec (l.getD (Config.dueChoice s.draws % l.length) i) (s.setDraws (s.draws + 1))

end Sys2Proof.Machine
end

