-- ==== Sys2Proof/Safety.lean ====
section
/-! DEFINITION. What counts as a sound state of the device, block by block, in the terms that claims use: bounds of the queues
and tables, the shape of the track, what a head presents and drives in each state, and causes that follow their sources. -/

namespace Sys2Proof.Machine

/-- The bounds of the queues and of the receive buffer and reply slots; a frame stays in the buffer only while no slot is free
(R25, R41, R43, R185, R187). -/
def State.queuesBounded (s : State) : Prop :=
  s.track.manifests.length ≤ 32 ∧ s.track.outcomes.length ≤ 16 ∧ s.track.lost ≤ 255 ∧
  s.link.buffer.length ≤ 4 ∧ s.link.reserved.length + s.link.filled.length ≤ 8 ∧
  (s.link.buffer ≠ [] → s.link.reserved.length + s.link.filled.length = 8)

/-- The bounds of the recipe library: 32 formats, 192 segments, keys rising (R47, R54). -/
def Library.bounded (l : Library) : Prop :=
  l.formats.length ≤ 32 ∧ (l.formats.map Prod.fst).Pairwise (· < ·) ∧
  (l.profiles.map fun x => x.2.length).sum ≤ 192 ∧ (l.profiles.map Prod.fst).Pairwise (· < ·)

/-- The configuration is one that R2 accepts, the track has one slot per position, and in HALTED every slot is empty (R1). -/
def Track.shaped (t : Track) : Prop :=
  t.config.valid = true ∧ t.slots.length = t.config.length ∧ (t.mode = .halted → ∀ o ∈ t.slots, o = none)

/-- The nests carry the values the serial counter had at the last entries, counted back from position 0 through 65535 to 1
(R1, R11). -/
def Track.numbered (t : Track) : Prop :=
  1 ≤ t.serial ∧ t.serial ≤ 65535 ∧ ∀ p n, t.nestAt p = some n → n.serial = (t.serial + 65533 - p) % 65535 + 1

/-- What a head presents (R96, R105, R106): codes within 0 to 65535, both 0 in OFFLINE, in SAFE and in DRY mode, and otherwise the
corrected codes of the setpoints by the active coefficients. Outside RUNNING the setpoints are those of the state. -/
def Head.presentsSafely (x : Head) : Prop :=
  let off := x.state = .offline ∨ x.state = .safe ∨ x.params.loopMode = .dry
  x.heaterCode ≤ 65535 ∧ x.pressureCode ≤ 65535 ∧
  (off → x.heaterCode = 0 ∧ x.pressureCode = 0) ∧
  (¬off →
    x.heaterCode = (correctedCode .heater x.coeffs x.tempSet).1 ∧
    x.pressureCode = (correctedCode .pressure x.coeffs x.presSet).1) ∧
  (x.state ≠ .running →
    x.tempSet = (if x.state = .offline ∨ x.state = .safe then 0 else x.params.standby) ∧ x.presSet = 0)

/-- A head's state agrees with its cycle, its release phase, its ramp, its sample timer and its outputs (chapter 4 table, R72, R83,
R84, R110). -/
def Head.coherent (x : Head) : Prop :=
  (x.state = .running ↔ x.run?.isSome) ∧
  (x.state = .pending ↔ x.cycle.isSome ∧ x.run? = none) ∧
  (x.state = .releasing ↔ ∃ r, x.release = some r ∧ r.dest ≠ .safe) ∧
  (∀ r, x.release = some r → r.dest = .safe → x.state = .safe) ∧
  (x.ramp.isSome → x.state = .running) ∧
  (x.state = .offline ↔ x.monitor.sampleTimer = none) ∧
  (x.closeOut = true → x.state = .running ∧ x.params.loopMode = .normal) ∧
  (x.auxOut = true → x.state = .running ∧ x.params.loopMode = .normal)

/-- No two heads hold the same binding (R66). -/
def State.bindingsDistinct (s : State) : Prop :=
  ∀ h h' : Fin 16, (s.head h).params.binding.isSome → (s.head h).params.binding = (s.head h').params.binding → h = h'

/-- HEAD_SAFE is present exactly while a head with hold-on-safe on is in SAFE (R19). -/
def State.headSafeFollows (s : State) : Prop :=
  BitSet.has s.causes Cause.headSafe.bit = true ↔
    ∃ h : Fin 16, (s.head h).params.holdOnSafe = true ∧ (s.head h).state = .safe

/-- Every head of a state has a property. -/
def State.everyHead (p : Head → Prop) (s : State) : Prop :=
  ∀ h : Fin 16, p (s.head h)

/-- The store loads only while every head is OFFLINE, and writes only the record of a head that is OFFLINE (R68, R107, R178). -/
def State.storeServesOffline (s : State) : Prop :=
  (∀ l, s.store.op = .loading l → s.everyHead fun x => x.state = .offline) ∧
  ∀ h c, s.store.op = .writing h c → (s.head h).state = .offline

/-- Whether a request that arrives is taken at once: the receive buffer is empty and a reply slot is free (R185). -/
def State.takesNow (s : State) : Prop :=
  s.link.buffer = [] ∧ s.link.reserved.length + s.link.filled.length < 8

/-- A state with one more filled reply slot, the youngest (R187). -/
def State.withReply (kind tag : Byte) (payload : List Byte) (s : State) : State :=
  s.setLink { s.link with filled := s.link.filled ++ [⟨kind, tag, payload⟩] }

/-- A state with one more reserved reply slot (R186). -/
def State.withReserved (kind tag : Byte) (s : State) : State :=
  s.setLink { s.link with reserved := s.link.reserved ++ [⟨kind, tag⟩] }

/-! ### What one head's act leaves alone -/

/-- No nest moves, and every pack stands as it did but for those named by serial number and lane (R15). -/
def State.packsKept (named : Nat → Fin 8 → Prop) (s t : State) : Prop :=
  t.track.slots.length = s.track.slots.length ∧
  ∀ p : Nat,
    (s.track.nestAt p = none → t.track.nestAt p = none) ∧
    ∀ n, s.track.nestAt p = some n →
      ∃ n', t.track.nestAt p = some n' ∧ { n' with packs := n.packs } = n ∧
        ∀ lane, ¬named n.serial lane → n'.packs.get lane = n.packs.get lane

/-- A TRACK-NOTICE becomes owed exactly when an enabled member joins the changed set while it holds no enabled member (R159); `s` and
`t` are before and after posts of one act. -/
def State.noticeFollows (s t : State) : Prop :=
  let enabled := fun u : TrackStatus => u.changed &&& u.enable
  t.trackStatus.owed =
    (s.trackStatus.owed || (enabled s.trackStatus == 0 && enabled t.trackStatus != 0))

/-- Whether MANIFEST_LOW is present (R30): the manifest count stands at or below the threshold, and never with the threshold OFF. -/
def Track.runsLow (t : Track) : Bool :=
  match t.config.threshold with
  | none => false
  | some k => decide (t.manifests.length ≤ k)

/-- HOLD_CHANGED joins the track changed set exactly when the line-hold output changes level, that is when the cause set becomes
empty or non-empty (R21); `s` and `t` are before and after an act. -/
def State.holdFollows (s t : State) : Prop :=
  t.trackStatus.changed.getLsbD 4 = true ↔
    s.trackStatus.changed.getLsbD 4 = true ∨ ¬(s.causes = 0 ↔ t.causes = 0)

/-- No head in SAFE has a cycle (Head.coherent). -/
def State.cyclesOutsideSafe (s : State) : Prop :=
  ∀ h : Fin 16, (s.head h).state = .safe → (s.head h).cycle = none

/-- The causes after an act of head `h` that posts the causes `posted` (R18, R19): those join, and HEAD_SAFE is evaluated where
the head has entered or left SAFE; no other cause moves. -/
def State.headPosts (posted : Byte) (h : Fin 16) (s t : State) : Prop :=
  let same := (t.head h).state = .safe ↔ (s.head h).state = .safe
  (same → t.causes = s.causes ||| posted) ∧
  (¬same →
    t.causes &&& 0xBF = (s.causes ||| posted) &&& 0xBF ∧
    (t.causes.getLsbD 6 = true ↔ ∃ h' : Fin 16, (t.head h').params.holdOnSafe = true ∧ (t.head h').state = .safe))

/-- Only head `h` acts, and posts the causes `posted`: the other heads, the link, the library, the gate, the store, the lines and
the clock stand as they did; of the track at most the pack the head refers to changes, and of the track changed set at most
HOLD_CHANGED, which follows the causes, with its notice (R18, R19, R21, R159). -/
def State.onlyHeadPosting (posted : Byte) (h : Fin 16) (s t : State) : Prop :=
  { t with
    heads := s.heads, statuses := s.statuses, causes := s.causes, trackStatus := s.trackStatus, track := s.track } = s ∧
  (∀ h' ≠ h, t.head h' = s.head h' ∧ t.status h' = s.status h') ∧
  { t.track with slots := s.track.slots } = s.track ∧
  State.packsKept (fun serial lane => ∃ r, (s.head h).packRef = some r ∧ r.serial = serial ∧ r.lane = lane) s t ∧
  s.headPosts posted h t ∧ s.holdFollows t ∧
  t.trackStatus.enable = s.trackStatus.enable ∧ t.trackStatus.changed &&& 0xEF = s.trackStatus.changed &&& 0xEF ∧
  s.noticeFollows t

/-- Only head `h` acts, and posts no cause. -/
def State.onlyHead (h : Fin 16) (s t : State) : Prop :=
  s.onlyHeadPosting 0 h t

/-- A state with one head's record and status record replaced. -/
def State.withHead (h : Fin 16) (x : Head) (y : HeadStatus) (s : State) : State :=
  (s.putHead h x).putStatus h y

/-- The station result that stands in the pack a reference names. -/
def Track.resultAt (t : Track) (r : PackRef) : Option StationResult :=
  match t.packOf r with
  | none => none
  | some p =>
    match r.station with
    | .form => p.formResult
    | .sealing => p.sealResult

/-- A release phase that begins now is not confirmed in the act of its beginning (R84): in DRY the levels are not read, and
otherwise the OPEN level is inactive or the CLOSED level active. -/
def State.releaseWaits (h : Fin 16) (s : State) : Prop :=
  (s.head h).params.loopMode = .dry ∨ (s.lines.heads.get h).openLevel = false ∨ (s.lines.heads.get h).closedLevel = true

/-- The head rests in READY, or in HEATING unless its standby temperature is 0: the standby setpoint, pressure 0 (R69, R96). -/
def Head.restsIn (st : HeadState) (x : Head) : Prop :=
  x.state = (if st = .heating ∧ x.params.standby = 0 then .ready else st) ∧
  x.tempSet = (if st = .safe ∨ st = .offline then 0 else x.params.standby) ∧ x.presSet = 0 ∧
  (st = .heating → x.monitor.ready = 0)

/-- The time of the last change of the temperature setpoint, in a head `y` that was `x` and has had at most one change (R101). -/
def Head.timesChange (now : Nat) (y x : Head) : Prop :=
  y.tempChanged = if y.tempSet = x.tempSet then x.tempChanged else some now

/-- The virtual-edge timer when an OPEN segment or a release phase begins (R165): in DRY it is due to give OPEN, at its own time
where it was due already and otherwise 100 ms on. -/
def Head.virtualAtOpening (now : Nat) (x : Head) : Option (VirtualEdge × Nat) :=
  if x.params.loopMode = .dry then
    match x.virtual with
    | some (.opened, due) => some (.opened, due)
    | some (.closed, _) | none => some (.opened, now + 100)
  else x.virtual

/-- The head has no cycle and drives nothing (R81, R83). -/
def Head.cycleGone (x : Head) : Prop :=
  x.cycle = none ∧ x.startTimer = none ∧ x.ramp = none ∧ x.closeOut = false ∧ x.auxOut = false

/-! ### The ends of a cycle -/

/-- The reject reasons of an end reason, by station, in the bits of R196 (R82, R200). -/
def EndReason.rejectMask (st : Station) : EndReason → BitVec 32
  | .complete | .completeResealed | .skipped => 0
  | .doseLow => match st with | .form => 0x8 | .sealing => 0x20
  | .doseHigh => match st with | .form => 0x10 | .sealing => 0x40
  | .closeLate => 0x80
  | .openLate => 0x100
  | .overrun => 0x200
  | .halted => 0x400
  | .cancelled => 0x800
  | .startTimeout => 0x1000
  | .safeSensor => 0x4000
  | .safeHigh => 0x8000
  | .platenFault => 0x10000

/-- The station result of an end (R82, R126, R129): the dose of a cycle that had started when its profile has a DOSE segment,
the closure time when there is one, and the five flags as they stand. -/
def Head.endedResult (h : Fin 16) (reason : EndReason) (x : Head) : StationResult :=
  match x.run? with
  | none => ⟨h.val, reason, none, none, false, false, false, false, false⟩
  | some r =>
    { head := h.val
      reason := reason
      dose := if ∃ g ∈ r.segments, g.dose = true then some (min 65535 (r.dose / 10000)) else none
      closure := r.closure
      resealed := r.resealUsed
      ceilingClamped := r.ceilingClamped
      outputClamped := r.outputClamped
      lowSeen := r.lowSeen
      tainted := r.tainted }

/-- The reject reasons of an end (R82, R123): that of the end reason, LOW_TEMP where low-seen is set and auto-reject on, and DRY_RUN
for a cycle that had started in DRY. -/
def Head.endedMask (reason : EndReason) (st : Station) (x : Head) : BitVec 32 :=
  reason.rejectMask st |||
    (match x.run? with
     | none => 0
     | some r =>
       (if r.lowSeen = true ∧ x.params.autoReject = true then 0x2000 else 0) |||
         (if x.params.loopMode = .dry then 0x20000 else 0))

/-- The cycle record that the PRIMARY of an end carries (R150): the serial number and lane of a pack cycle, none for a CYCLE-ONCE. -/
def Head.endedRecord (h : Fin 16) (reason : EndReason) (x : Head) : CycleRecord :=
  let ref := if x.cycle.map Cycle.origin = some .pack then x.packRef else none
  ⟨(x.cycle.map Cycle.origin).getD .pack, ref.map PackRef.serial, ref.map PackRef.lane, x.endedResult h reason⟩

/-- A pack with the station result and reject reasons of an end (R14, R15, R82); an empty pack accepts no reasons. -/
def Pack.ended (st : Station) (r : StationResult) (mask : BitVec 32) (p : Pack) : Pack :=
  let q := { p with reasons := if p.format = 0 then p.reasons else p.reasons ||| mask }
  match st with
  | .form => { q with formResult := some r }
  | .sealing => { q with sealResult := some r }

/-- What the end of the cycle of `x` writes to its pack, in one write (R15, R82): the station result and the reject reasons; nothing
for a CYCLE-ONCE, and nothing for a pack whose nest has left the track. -/
def State.endWritten (h : Fin 16) (reason : EndReason) (x : Head) (s t : State) : Prop :=
  (x.cycle.map Cycle.origin ≠ some .pack ∨ x.packRef = none → t.track = s.track) ∧
  (∀ ref, x.packRef = some ref → s.track.packOf ref = none → t.track = s.track) ∧
  (∀ ref p, x.cycle.map Cycle.origin = some .pack → x.packRef = some ref → s.track.packOf ref = some p →
    t.track.packOf ref = some (p.ended ref.station (x.endedResult h reason) (x.endedMask reason ref.station)))

/-- What an abnormal end does at the head itself (R83, R84): the cycle is gone and counted as failed; with the platen OPEN the
head is at its destination, and otherwise in a release phase toward it that owes a SECONDARY when a PRIMARY was posted. A phase that
is confirmed in the act of its beginning has ended, with its SECONDARY (R85). The monitor stands as it did, but for the readiness
count of a head sent to HEATING. -/
def State.headEnded (h : Fin 16) (reason : EndReason) (dest : ReleaseDest) (primary : Bool) (s t : State) : Prop :=
  let x := s.head h
  let y := t.head h
  let rest : HeadState := match dest with | .ready => .ready | .heating => .heating | .safe => .safe
  let posted := (s.status h).post (.primary (x.endedRecord h reason))
  y.cycleGone ∧ y.params = x.params ∧ y.coeffs = x.coeffs ∧
  y.counters = { x.counters with failed := min 65535 (x.counters.failed + 1) } ∧ y.held = x.held ∧
  (dest ≠ .heating → y.monitor = x.monitor) ∧
  (x.platen = .opened →
    y.platen = .opened ∧ y.restsIn rest ∧ y.timesChange s.now x ∧ y.packRef = none ∧ y.virtual = x.virtual) ∧
  (x.platen ≠ .opened → s.releaseWaits h →
    y.platen = x.platen.retract ∧ y.release = some ⟨s.now + x.params.openLimit, dest, primary⟩ ∧
    y.restsIn (if dest = .safe then .safe else .releasing) ∧ y.timesChange s.now x ∧ y.packRef = x.packRef ∧
    y.virtual = x.virtualAtOpening s.now) ∧
  (x.platen ≠ .opened → ¬s.releaseWaits h →
    y.platen = .opened ∧ y.release = none ∧ y.restsIn rest ∧ y.timesChange s.now x ∧ y.packRef = none ∧
    y.virtual = x.virtual) ∧
  (primary = true → x.platen = .opened ∨ s.releaseWaits h → t.status h = posted) ∧
  (primary = true → x.platen ≠ .opened → ¬s.releaseWaits h → t.status h = posted.post .secondary)

/-- A cycle ended abnormally (R82 to R84): what that does at the head, and in its pack the station result and the reject reasons.
Of the end reasons OPEN_LATE alone comes with a cause, PLATEN_STUCK (R79). -/
def State.endedAbnormally (h : Fin 16) (reason : EndReason) (dest : ReleaseDest) (primary : Bool) (s t : State) : Prop :=
  s.onlyHeadPosting (if reason = .openLate then 0x04 else 0) h t ∧ s.headEnded h reason dest primary t ∧
  s.endWritten h reason (s.head h) t

/-! ### Segments -/

/-- A setpoint that moves in a running cycle to a value whose code the limit to 0 to 65535 changes; in DRY no code is computed
(R103, R106; log entry 13). -/
def Head.limitActs (o : Output) (old new : Nat) (x : Head) : Bool :=
  new != old && x.params.loopMode != .dry && (correctedCode o x.coeffs new).2

/-- A cycle record whose output-clamped flag is set where the setpoints, moved from those of `x` to the given ones, meet the limit
(R103). -/
def Head.cycleClamped (temperature pressure : Nat) (x : Head) : Option Cycle :=
  x.cycle.map fun c =>
    { c with
      run := c.run.map fun r =>
        { r with
          outputClamped :=
            r.outputClamped || x.limitActs .heater x.tempSet temperature || x.limitActs .pressure x.presSet pressure } }

/-- The code at a port when a setpoint of a running cycle moves (R105, R106): one that does not move leaves it, and in DRY it is 0. -/
def Head.codeAt (o : Output) (old new code : Nat) (x : Head) : Nat :=
  if new = old then code else if x.params.loopMode = .dry then 0 else (correctedCode o x.coeffs new).1

/-- Whether a segment ends in the act of its start: a HOLD or RAMP of duration 0 (R76, R100). -/
def Segment.atOnce (g : Segment) : Prop :=
  (g.kind = .hold ∨ g.kind = .ramp) ∧ g.duration = 0

/-- The head `y`, which was `x`, has begun segment `n` of its cycle, and all else stands (R76): the current segment, its start and its
timer, and the clamp flags (R98, R103). A CLOSE leaves the platen CLOSING and an OPEN leaves a closed one OPENING with pressure 0,
each with the virtual-edge timer of a head in DRY (R165). A RAMP that takes time leaves the setpoints where they stand and has a ramp
record for the outputs with a target, from the setpoint to the target, the temperature's limited to the ceiling (R98, R99); in every
other segment, a RAMP of duration 0 included, a target is the setpoint at once (R97, R100). Of the aux output of a segment that ends
in the act of its start nothing is said: its end releases it. -/
def Head.runsSegment (now n : Nat) (g : Segment) (y x : Head) : Prop :=
  let q := x.params
  let ramps := g.kind = .ramp ∧ g.duration ≠ 0
  let targets := g.temperature ≠ none ∨ g.pressure ≠ none
  (∃ r, x.run? = some r ∧
    y.cycle = x.cycle.map fun c =>
      { c with
        run := some { r with
          current := n
          segStart := now
          segDue := now + g.duration
          ceilingClamped := r.ceilingClamped || g.temperature.any fun v => decide (q.ceiling < v)
          outputClamped :=
            r.outputClamped || x.limitActs .heater x.tempSet y.tempSet ||
              x.limitActs .pressure x.presSet y.presSet } }) ∧
  (g.kind = .close →
    y.platen = .closing ∧ y.closeOut = decide (q.loopMode = .normal) ∧
    y.virtual = if q.loopMode = .dry then some (.closed, now + 100) else x.virtual) ∧
  (g.kind = .openUp →
    y.platen = x.platen.retract ∧ y.closeOut = false ∧ y.presSet = 0 ∧ y.virtual = x.virtualAtOpening now) ∧
  (g.kind = .hold ∨ g.kind = .ramp → y.platen = x.platen ∧ y.closeOut = x.closeOut ∧ y.virtual = x.virtual) ∧
  (¬ramps →
    y.tempSet = (g.temperature.map fun v => min v q.ceiling).getD x.tempSet ∧
    (g.kind ≠ .openUp → y.presSet = g.pressure.getD x.presSet)) ∧
  (ramps → y.tempSet = x.tempSet ∧ y.presSet = x.presSet) ∧
  (ramps → targets →
    y.ramp =
      some ⟨now, g.duration, 10, g.temperature.map fun v => (x.tempSet, min v q.ceiling),
        g.pressure.map fun v => (x.presSet, v)⟩) ∧
  (¬(ramps ∧ targets) → y.ramp = x.ramp) ∧ y.timesChange now x ∧
  y.heaterCode = x.codeAt .heater x.tempSet y.tempSet x.heaterCode ∧
  y.pressureCode = x.codeAt .pressure x.presSet y.presSet x.pressureCode ∧
  (¬g.atOnce → y.auxOut = if g.aux = true ∧ q.loopMode = .normal then true else x.auxOut) ∧
  { y with
    cycle := x.cycle, platen := x.platen, closeOut := x.closeOut, auxOut := x.auxOut, virtual := x.virtual
    tempSet := x.tempSet, presSet := x.presSet, tempChanged := x.tempChanged, heaterCode := x.heaterCode
    pressureCode := x.pressureCode, ramp := x.ramp } = x

/-- A head whose current segment has ended: no ramp, the aux output released (R76, R80). -/
def Head.segmentEnded (x : Head) : Head :=
  { x with ramp := none, auxOut := false }

/-- A head at the last step of the ramp it has, if any: both outputs of the ramp at their targets (R100), with the recorded time of
change, the codes and the output-clamped flag that the step brings (R101, R103, R105). -/
def Head.atRampEnd (now : Nat) (x : Head) : Head :=
  match x.ramp with
  | none => x
  | some p =>
    let temperature := (p.temperature.map Prod.snd).getD x.tempSet
    let pressure := (p.pressure.map Prod.snd).getD x.presSet
    { x with
      tempSet := temperature
      presSet := pressure
      tempChanged := if temperature = x.tempSet then x.tempChanged else some now
      heaterCode := x.codeAt .heater x.tempSet temperature x.heaterCode
      pressureCode := x.codeAt .pressure x.presSet pressure x.pressureCode
      cycle := x.cycleClamped temperature pressure }

/-- The current segment of a running cycle, of a kind, when its end calls for no dose evaluation: it carries no DOSE, or a
later one does (R80). -/
def Head.plainSegment (kind : SegKind) (r : Run) (g : Segment) (x : Head) : Prop :=
  x.state = .running ∧ x.run? = some r ∧ r.segments[r.current]? = some g ∧ g.kind = kind ∧
  (g.dose = true → ∃ g' ∈ r.segments.drop (r.current + 1), g'.dose = true)

/-- The current HOLD of a running cycle when it is the last segment that carries DOSE (R80, R127). -/
def Head.lastDoseHold (r : Run) (g : Segment) (x : Head) : Prop :=
  x.state = .running ∧ x.run? = some r ∧ r.segments[r.current]? = some g ∧ g.kind = .hold ∧ g.dose = true ∧
  ∀ g' ∈ r.segments.drop (r.current + 1), g'.dose = false

/-- A segment of the profile copy carries RESEAL_POINT, and no earlier one does (R57, R127). -/
def Run.resealsAt (p : Nat) (g : Segment) (r : Run) : Prop :=
  r.segments[p]? = some g ∧ g.resealPoint = true ∧ ∀ q < p, ∀ g', r.segments[q]? = some g' → g'.resealPoint = false

/-- The dose verdict of a cycle, from its accumulator as it stands (R126, R127): a dose at either end of the window is OK, and
without a window every dose is. -/
def Run.judged (r : Run) : DoseVerdict :=
  let dose := min 65535 (r.dose / 10000)
  match r.window with
  | none => .ok
  | some (lo, hi) => if dose < lo then .low else if hi < dose then .high else .ok

/-- The current segment is the last that carries DOSE (R80). -/
def Run.endsDose (r : Run) : Prop :=
  (∃ g, r.segments[r.current]? = some g ∧ g.dose = true) ∧ ∀ g ∈ r.segments.drop (r.current + 1), g.dose = false

/-- The evaluation of the dose takes a reseal (R127). -/
def Run.reseals (r : Run) : Prop :=
  r.judged = .low ∧ r.resealAllowed = true ∧ r.resealUsed = false ∧ ∃ g ∈ r.segments, g.resealPoint = true

/-- A head whose segment has ended with a reseal taken (R80, R127). -/
def Head.resealing (x : Head) : Head :=
  { x.segmentEnded.updateRun (fun r => { r with resealUsed := true }) with
    counters := { x.counters with reseals := min 65535 (x.counters.reseals + 1) } }

/-- A head whose segment has ended with a dose verdict recorded (R80, R127). -/
def Head.withVerdict (v : DoseVerdict) (x : Head) : Head :=
  x.segmentEnded.updateRun fun r => { r with verdict := some v }

/-- The current segment of `x` ends, the head is as `y`, and the cycle goes on at segment `m` (R80, R127, R128). -/
def Head.endsSegment (m : Nat) (y x : Head) : Prop :=
  ∃ r, x.run? = some r ∧
    (¬r.endsDose → m = r.current + 1 ∧ y = x.segmentEnded) ∧
    (r.endsDose → r.reseals → (∃ g, r.resealsAt m g) ∧ y = x.resealing) ∧
    (r.endsDose → ¬r.reseals → m = r.current + 1 ∧ y = x.withVerdict r.judged)

/-- From segment `n` of the cycle of head `x` with status `u`, the segments of duration 0 pass in one act, each with all five steps of
its start and its end (R76, R80, R100), and the cycle stands at segment `m` with the head `y` and its status `v`: at a segment that
takes time, or past the last. -/
inductive Head.passes (now : Nat) : Nat → Head → HeadStatus → Nat → Head → HeadStatus → Prop
  | stands {n : Nat} {x : Head} {u : HeadStatus} {r : Run} (hr : x.run? = some r)
      (hn : ∀ g, r.segments[n]? = some g → ¬g.atOnce) : Head.passes now n x u n x u
  | pass {n k m : Nat} {x w z y : Head} {u v : HeadStatus} {r : Run} {g : Segment} (hr : x.run? = some r)
      (hg : r.segments[n]? = some g) (ha : g.atOnce) (hb : w.runsSegment now n g x) (he : z.endsSegment k w)
      (rest : Head.passes now k z (if g.notify then u.post (.intermediate n) else u) m y v) :
      Head.passes now n x u m y v

/-- The end reason of a completed cycle, from its dose verdict (the table of R81). -/
def Run.endReason (r : Run) : EndReason :=
  match r.verdict with
  | none => .complete
  | some .ok => if r.resealUsed then .completeResealed else .complete
  | some .low => .doseLow
  | some .high => .doseHigh

/-- The head `y`, which was `x`, has completed its cycle, and all else stands (R81, R96): READY without a cycle or pack reference. -/
def Head.completes (now : Nat) (y x : Head) : Prop :=
  y.cycleGone ∧ y.restsIn .ready ∧ y.timesChange now x ∧ y.packRef = none ∧
  { y with
    cycle := x.cycle, packRef := x.packRef, startTimer := x.startTimer, ramp := x.ramp, closeOut := x.closeOut
    auxOut := x.auxOut, state := x.state, tempSet := x.tempSet, presSet := x.presSet, tempChanged := x.tempChanged
    heaterCode := x.heaterCode, pressureCode := x.pressureCode } = x

/-- A cycle goes on at segment `n`, from the head `x` with status `u`, in one act (R76, R80, R81): after the segments of duration 0
either a segment that takes time has begun, with the INTERMEDIATE of a NOTIFY (R150), or the cycle has completed, with a PRIMARY
for a CYCLE-ONCE alone. `ended` is the end reason and the head whose cycle completed. -/
def Head.continues (now : Nat) (h : Fin 16) (n : Nat) (x : Head) (u : HeadStatus) (y : Head) (v : HeadStatus)
    (ended : Option (EndReason × Head)) : Prop :=
  ∃ (m : Nat) (w : Head) (u' : HeadStatus) (r : Run), Head.passes now n x u m w u' ∧ w.run? = some r ∧
    (∀ g, r.segments[m]? = some g →
      y.runsSegment now m g w ∧ v = (if g.notify then u'.post (.intermediate m) else u') ∧ ended = none) ∧
    (r.segments[m]? = none →
      y.completes now w ∧ ended = some (r.endReason, w) ∧
      v = if w.cycle.map Cycle.origin = some .once then u'.post (.primary (w.endedRecord h r.endReason)) else u')

/-- The cycle of head `h` goes on at segment `n` from the head `x`, and nothing else moves but the pack of a cycle that completes (R76,
R80 to R82). -/
def State.goesOn (h : Fin 16) (n : Nat) (x : Head) (s t : State) : Prop :=
  s.onlyHead h t ∧ t.causes = s.causes ∧ t.trackStatus = s.trackStatus ∧
  ∃ ended, Head.continues s.now h n x (s.status h) (t.head h) (t.status h) ended ∧
    (ended = none → t.track = s.track) ∧
    ∀ reason w, ended = some (reason, w) → s.endWritten h reason w t

/-- What a CLOSED edge, physical or virtual, does to a head (R71, R77): in CLOSING the platen is CLOSED; a current CLOSE
segment ends, with its closure time recorded. -/
def State.closedEdgeTaken (h : Fin 16) (s t : State) : Prop :=
  let x := s.head h
  (x.platen ≠ .closing → t = s) ∧
  (x.platen = .closing → x.run? = none → t = s.putHead h { x with platen := .closed }) ∧
  (∀ r g, x.platen = .closing → x.plainSegment .close r g →
    let time := min (s.now - r.segStart) (r.segDue - r.segStart)
    let y := { x.updateRun (fun r => { r with closure := some time }) with
      platen := .closed, counters := { x.counters with longest := max x.counters.longest time } }
    s.goesOn h (r.current + 1) y.segmentEnded t)

/-- What an OPEN edge, physical or virtual, does to a head (R71, R79, R85): in UNKNOWN or OPENING the platen is OPEN; a release
phase is confirmed, with its SECONDARY when one is owed, and a current OPEN segment ends. -/
def State.openEdgeTaken (h : Fin 16) (s t : State) : Prop :=
  let x := s.head h
  let moves := x.platen = .unknown ∨ x.platen = .opening
  (¬moves → t = s) ∧
  (moves → x.release = none → x.run? = none → t = s.putHead h { x with platen := .opened }) ∧
  (∀ r, moves → x.release = some r →
    s.onlyHead h t ∧ t.track = s.track ∧ (t.head h).platen = .opened ∧ (t.head h).release = none ∧
    (t.head h).packRef = none ∧
    (t.head h).params = x.params ∧
    t.status h = (if r.secondaryOwed then (s.status h).post .secondary else s.status h) ∧
    (r.dest = .ready → (t.head h).restsIn .ready) ∧ (r.dest = .heating → (t.head h).restsIn .heating) ∧
    (r.dest = .safe → (t.head h).state = x.state)) ∧
  (∀ r g, moves → x.release = none → x.plainSegment .openUp r g →
    s.goesOn h (r.current + 1) ({ x with platen := .opened } : Head).segmentEnded t)

/-- What a cycle has recorded when it starts (R75, R170): the copy of its profile and its dose items, and nothing yet. -/
def Run.atStart (profile : Nat) (segments : List Segment) (base cap : Nat) (window : Option (Nat × Nat)) (resealAllowed : Bool) :
    Run :=
  { profile := profile, base := base, cap := cap, window := window, resealAllowed := resealAllowed, segments := segments
    current := 0, segStart := 0, segDue := 0, resealUsed := false, ceilingClamped := false, outputClamped := false
    lowSeen := false, tainted := false, closure := none, verdict := none, dose := 0 }

/-- A head that has entered RUNNING with a cycle, before segment 0 begins (R75, R130). -/
def Head.started (origin : Origin) (ref : Option PackRef) (r : Run) (x : Head) : Head :=
  { x with
    state := .running
    cycle := some ⟨origin, some r⟩
    packRef := ref
    startTimer := none
    counters := { x.counters with started := (x.counters.started + 1) % 4294967296 } }

/-- A head that starts the cycle that a pack's format calls for (R75): a copy of the profile, with the station's dose items. -/
def Head.startsPack (ref : PackRef) (f : Format) (id : Nat) (d : DoseItems) (gs : List Segment) (x : Head) : Head :=
  x.started .pack (some ref) (.atStart id gs d.base d.cap (some (d.windowMin, d.windowMax)) f.resealAllowed)

/-- The head `y`, which was `x`, has dropped its pending cycle without a trace (R51). -/
def Head.dropsCycle (y x : Head) : Prop :=
  y.state = .ready ∧ y.cycleGone ∧ y.packRef = none ∧ y.counters = x.counters

/-- What the start of a pending pack cycle does (R51, R75): with the profile still named and stored, segment 0 runs from the
items read now; otherwise the cycle is dropped without a trace. -/
def State.pendingStarts (h : Fin 16) (ref : PackRef) (p : Pack) (s t : State) : Prop :=
  let x := s.head h
  let items : Option (Nat × DoseItems) :=
    match s.library.format p.format with
    | none => none
    | some f => match ref.station with | .form => f.form | .sealing => some (f.sealProfile, f.sealDose)
  (∀ f id d gs, s.library.format p.format = some f → items = some (id, d) → s.library.profile id = some gs →
    s.goesOn h 0 (x.startsPack ref f id d gs) t) ∧
  ((items = none ∨ ∃ id d, items = some (id, d) ∧ s.library.profile id = none) →
    s.onlyHead h t ∧ t.track = s.track ∧ t.causes = s.causes ∧ t.status h = s.status h ∧ (t.head h).dropsCycle x)

/-! ### One sample -/

/-- Whether window evaluation is active at a sample (R113). -/
def Head.windowHolds (now : Nat) (x : Head) : Prop :=
  (x.state = .running ∨ x.state = .pending ∨ x.state = .ready ∨
    (x.params.loopMode = .monitor ∧ (x.state = .releasing ∨ x.state = .ready))) ∧
  x.tempSet ≠ 0 ∧
  ¬(∃ r g, x.run? = some r ∧ r.segments[r.current]? = some g ∧ g.kind = .ramp) ∧
  ∃ since, x.tempChanged = some since ∧ x.params.settle ≤ now - since

/-- Whether a valid sample with reading `v` is low: by an injection, or by the window (R115). -/
def Head.readsLow (now v : Nat) (x : Head) : Prop :=
  (x.state ≠ .heating ∧ x.monitor.inject ≠ 0) ∨ (x.windowHolds now ∧ v + x.params.band < x.tempSet)

/-- Whether a valid sample with reading `v` is high: above the ceiling, or by the window (R114). -/
def Head.readsHigh (now v : Nat) (x : Head) : Prop :=
  x.params.ceiling + x.params.band < v ∨ (x.windowHolds now ∧ x.tempSet + x.params.band < v)

/-- Whether a sample counts toward the dose (R125). -/
def Head.dosesNow (x : Head) : Prop :=
  x.state = .running ∧ x.platen = .closed ∧
  ∃ r g, x.run? = some r ∧ r.segments[r.current]? = some g ∧ g.dose = true

/-- How one valid sample, hit or miss, moves the two runs of a condition and its presence (R117, R118): hits in a row declare it,
and eight misses in a row clear it. -/
def runsMoved (hit : Prop) (declare : Nat) (live : Bool) (hits misses : Nat) (live' : Bool) (hits' misses' : Nat) : Prop :=
  (live = false → misses' = misses ∧
    (¬hit → hits' = 0 ∧ live' = false) ∧
    (hit → hits + 1 < declare → hits' = hits + 1 ∧ live' = false) ∧
    (hit → declare ≤ hits + 1 → hits' = 0 ∧ live' = true)) ∧
  (live = true → hits' = hits ∧
    (hit → misses' = 0 ∧ live' = true) ∧
    (¬hit → misses + 1 < 8 → misses' = misses + 1 ∧ live' = true) ∧
    (¬hit → 8 ≤ misses + 1 → misses' = 0 ∧ live' = false))

/-- The runs, the live conditions, the readiness count, the injection count and the timer that a sample leaves (R110, R115 to R121,
R124); `m` is its reading, `both` says that both platen levels are active, and `full` that the deviations have reached 65535. -/
def Head.monitorSampled (now due : Nat) (m : Option Nat) (both full : Bool) (b : Monitor) (x : Head) : Prop :=
  let a := x.monitor
  let inWindow := ∃ v, m = some v ∧ x.params.standby ≤ v + x.params.band ∧ v ≤ x.params.standby + x.params.band
  b.sampleTimer = some (due + x.params.samplePeriod) ∧
  (∀ v, m = some v →
    runsMoved (x.readsLow now v) (if x.params.lowExtended then 512 else 32) (a.live.getLsbD 0) a.lowRun a.nonLowRun
      (b.live.getLsbD 0) b.lowRun b.nonLowRun ∧
    runsMoved (x.readsHigh now v) 4 (a.live.getLsbD 1) a.highRun a.nonHighRun (b.live.getLsbD 1) b.highRun b.nonHighRun) ∧
  (m = none →
    b.lowRun = a.lowRun ∧ b.nonLowRun = a.nonLowRun ∧ b.highRun = a.highRun ∧ b.nonHighRun = a.nonHighRun ∧
    b.live.getLsbD 0 = a.live.getLsbD 0 ∧ b.live.getLsbD 1 = a.live.getLsbD 1) ∧
  (b.live.getLsbD 2 = true ↔ m = none) ∧
  b.live.getLsbD 3 = (if x.params.loopMode = .dry then a.live.getLsbD 3 else both) ∧
  b.live.getLsbD 4 = (a.live.getLsbD 4 || full) ∧
  b.live &&& 0xE0 = a.live &&& 0xE0 ∧
  (m ≠ none → x.state ≠ .heating → b.inject = a.inject - 1) ∧
  (m = none ∨ x.state = .heating → b.inject = a.inject) ∧
  (x.state = .heating → inWindow → b.ready = a.ready + 1) ∧
  (x.state = .heating → ¬inWindow → b.ready = 0) ∧
  (x.state ≠ .heating → b.ready = a.ready)

/-- What a sample leaves of a cycle that has started (R123, R126): a counting sample adds to the dose or, without a reading, taints
the cycle; LOW live after the sample is seen. -/
def Head.runSampled (m : Option Nat) (low : Bool) (r' r : Run) (x : Head) : Prop :=
  { r' with dose := r.dose, tainted := r.tainted, lowSeen := r.lowSeen } = r ∧
  (∀ v, x.dosesNow → m = some v →
    r'.dose = min 4294967295 (r.dose + (min v r.cap - r.base) * x.params.samplePeriod)) ∧
  (¬x.dosesNow ∨ m = none → r'.dose = r.dose) ∧
  (r'.tainted = true ↔ r.tainted = true ∨ (x.dosesNow ∧ m = none)) ∧
  r'.lowSeen = (r.lowSeen || low)

/-- The head `y`, which was `x`, after the first six steps of a sample (R112): its monitor, its dose, its counters (R130), and
readiness in HEATING (R69, R124). All else stands as it did. -/
def Head.sampled (now due : Nat) (m : Option Nat) (both : Bool) (y x : Head) : Prop :=
  let deviates := ∃ v, m = some v ∧ (x.readsLow now v ∨ x.readsHigh now v)
  let readied := x.state = .heating ∧ 16 ≤ y.monitor.ready
  let full := decide (y.counters.deviations = 65535 ∧ x.counters.deviations ≠ 65535)
  x.monitorSampled now due m both full y.monitor ∧
  (deviates → y.counters.deviations = min 65535 (x.counters.deviations + 1)) ∧
  (¬deviates → y.counters.deviations = x.counters.deviations) ∧
  y.counters.sensorFaults = (if m = none then min 65535 (x.counters.sensorFaults + 1) else x.counters.sensorFaults) ∧
  { y.counters with deviations := x.counters.deviations, sensorFaults := x.counters.sensorFaults } = x.counters ∧
  (x.run? = none → y.cycle = x.cycle) ∧
  (∀ r, x.run? = some r →
    ∃ r', y.cycle = x.cycle.map (fun c => { c with run := some r' }) ∧
      x.runSampled m (y.monitor.live.getLsbD 0) r' r) ∧
  (¬readied → { y with monitor := x.monitor, counters := x.counters, cycle := x.cycle } = x) ∧
  (readied →
    y.restsIn .ready ∧ y.timesChange now x ∧
    { y with
      monitor := x.monitor, counters := x.counters, cycle := x.cycle, state := x.state, tempSet := x.tempSet,
      presSet := x.presSet, tempChanged := x.tempChanged, heaterCode := x.heaterCode,
      pressureCode := x.pressureCode } = x)

/-- The conditions that a sample declares or clears (R122): those whose presence it changes, and COUNT_FULL where it brings the
deviations to 65535 (R121). -/
def Head.changesOf (y x : Head) : Byte :=
  (x.monitor.live ^^^ y.monitor.live) |||
    if y.counters.deviations = 65535 ∧ x.counters.deviations ≠ 65535 then 0x10 else 0

/-- A status record that conditions which change join (R122, R153, R154): into an empty pending status with an enabled changed member,
alert content comes with a notice owed. -/
def HeadStatus.joinedBy (conds : Byte) (u : HeadStatus) : HeadStatus :=
  let changed := u.changed ||| conds
  if conds ≠ 0 ∧ u.pending = .empty ∧ changed &&& u.enable ≠ 0 then
    { u with changed := changed, pending := .alert, owed := true }
  else { u with changed := changed }

/-- A head sent to SAFE (R86): a cycle ends abnormally toward SAFE; a release phase in progress goes on toward SAFE; without one the
head is in SAFE, and a phase begins when the platen is not OPEN. -/
def State.sentSafe (h : Fin 16) (reason : EndReason) (s t : State) : Prop :=
  let x := s.head h
  let y := t.head h
  (x.cycle ≠ none → s.endedAbnormally h reason .safe true t) ∧
  (x.cycle = none →
    s.onlyHead h t ∧ t.track = s.track ∧ t.status h = s.status h ∧ y.restsIn .safe ∧ y.timesChange s.now x ∧
    y.params = x.params ∧ y.coeffs = x.coeffs ∧ y.monitor = x.monitor ∧ y.counters = x.counters ∧ y.held = x.held ∧
    (∀ r, x.release = some r →
      y.release = some { r with dest := .safe } ∧ y.platen = x.platen ∧ y.packRef = x.packRef ∧ y.virtual = x.virtual) ∧
    (x.release = none → y.closeOut = false ∧ y.auxOut = false) ∧
    (x.release = none → x.platen = .opened → y.release = none ∧ y.platen = .opened ∧ y.virtual = x.virtual) ∧
    (x.release = none → x.platen ≠ .opened → s.releaseWaits h →
      y.release = some ⟨s.now + x.params.openLimit, .safe, false⟩ ∧ y.platen = x.platen.retract ∧
      y.virtual = x.virtualAtOpening s.now) ∧
    (x.release = none → x.platen ≠ .opened → ¬s.releaseWaits h →
      y.release = none ∧ y.platen = .opened ∧ y.packRef = none ∧ y.virtual = x.virtual))

/-- The last step of a sample, from the state `s` that the other steps leave; `before` are the conditions live before the sample
(R86, R87, R112): HIGH and SENSOR, when declared, send the head to SAFE, unless it is there; otherwise PLATEN, when declared, ends
a running cycle PLATEN_FAULT. -/
def State.takesDeclared (h : Fin 16) (before : Byte) (s t : State) : Prop :=
  let x := s.head h
  let declared := fun i => x.monitor.live.getLsbD i = true ∧ before.getLsbD i = false
  let toSafe := declared 1 ∨ declared 2
  (declared 1 → x.state ≠ .safe → s.sentSafe h .safeHigh t) ∧
  (declared 2 → ¬declared 1 → x.state ≠ .safe → s.sentSafe h .safeSensor t) ∧
  (¬toSafe → declared 3 → x.state = .running → s.endedAbnormally h .platenFault .ready true t) ∧
  ((toSafe → x.state = .safe) → (declared 3 → x.state ≠ .running) → t = s)

/-! ### The shift and its arrivals -/

/-- The nest that the next shift enters (R11): the serial counter's value, the index count as advanced, no flag but
NO_MANIFEST, and eight packs with the lane codes of the oldest manifest, or empty without one. -/
def Track.entrant (t : Track) : Nest where
  serial := t.serial
  entryCount := (t.indexCount + 1) % 4294967296
  noManifest := t.manifests.isEmpty
  purged := false
  confirm := none
  reportsLost := none
  packs := match t.manifests with
    | [] => Lanes.fill ⟨0, .pending, none, none, 0, false⟩
    | m :: _ => m.map fun code => ⟨code, .pending, none, none, 0, false⟩

/-- The nest that stands at a position when the nests have moved up and the new one has entered (R10). -/
def Track.afterMove (t : Track) (p : Nat) : Option Nest :=
  match p with
  | 0 => some t.entrant
  | q + 1 => if q + 1 < t.config.length then t.nestAt q else none

/-- The position of a station, where the track has it (R13). -/
def TrackConfig.position (st : Station) (c : TrackConfig) : Option Nat :=
  match st with
  | .form => c.form
  | .sealing => some c.sealPos

/-- What a shift does to the track, the outcome queue, the causes and the track status (R9 to R12, R19, R21, R30, R32, R41, R43).
Of the nests in the track only those that have arrived at a station or the gate may change, in their packs alone. -/
def State.shifted (s t : State) : Prop :=
  let last := s.track.nestAt (s.track.config.length - 1)
  let queued := s.track.outcomes.length
  let starved := s.track.manifests = []
  t.track.config = s.track.config ∧ t.track.indexCount = (s.track.indexCount + 1) % 4294967296 ∧
  t.track.serial = (if 65535 ≤ s.track.serial then 1 else s.track.serial + 1) ∧
  t.track.manifests = s.track.manifests.tail ∧
  (last = none → t.track.outcomes = s.track.outcomes ∧ t.track.lost = s.track.lost) ∧
  (∀ n, last = some n →
    (queued < 16 → t.track.lost = 0 ∧
      t.track.outcomes =
        s.track.outcomes ++ [{ n with reportsLost := if s.track.lost = 0 then none else some s.track.lost }]) ∧
    (16 ≤ queued → t.track.lost = min 255 (s.track.lost + 1) ∧ t.track.outcomes = s.track.outcomes)) ∧
  t.causes =
    s.causes ||| (if last ≠ none ∧ queued = 11 then 0x80 else 0) |||
      (if starved ∧ s.track.config.manifestRequired = true then 0x20 else 0) ∧
  t.trackStatus.enable = s.trackStatus.enable ∧
  t.trackStatus.changed =
    s.trackStatus.changed ||| (if starved then 0x02 else 0) ||| (if s.causes = 0 ∧ t.causes ≠ 0 then 0x10 else 0) |||
      (if t.track.runsLow = s.track.runsLow then 0 else 0x20) ∧
  s.noticeFollows t ∧
  ∀ p,
    (s.track.afterMove p = none → t.track.nestAt p = none) ∧
    ∀ n, s.track.afterMove p = some n →
      ∃ n', t.track.nestAt p = some n' ∧ { n' with packs := n.packs } = n ∧
        (∀ lane, (n'.packs.get lane).format = (n.packs.get lane).format ∧
          (n'.packs.get lane).verdict = (n.packs.get lane).verdict) ∧
        (s.track.config.form ≠ some p → s.track.config.sealPos ≠ p → s.track.config.length ≠ p + 1 → n' = n)

/-- The profile id and dose items that a pack's format gives a station; none for an empty pack, a code that is not stored,
and a format without a profile for the station (R13, R73). -/
def Library.cycleDue (l : Library) (st : Station) (p : Pack) : Option (Nat × DoseItems) :=
  if p.format = 0 then none
  else
    match l.format p.format with
    | none => none
    | some f => match st with | .form => f.form | .sealing => some (f.sealProfile, f.sealDose)

/-- The selection of a head at an arrival (R73, R74): what becomes of the head and its status, and the pack `p'` that `p`
becomes. -/
def State.selects (h : Fin 16) (ref : PackRef) (p p' : Pack) (s t : State) : Prop :=
  let x := s.head h
  let y := t.head h
  let still := y = x ∧ t.status h = s.status h
  let due := s.library.cycleDue ref.station p
  let takes := x.state = .ready ∧ x.params.loopMode ≠ .monitor
  let delay := x.params.startDelay
  let waits := fun timer : Option Nat =>
    p' = p ∧ t.status h = s.status h ∧
    y = { x with state := .pending, cycle := some ⟨.pack, none⟩, packRef := some ref, startTimer := timer }
  let skipped : StationResult := ⟨h.val, .skipped, none, none, false, false, false, false, false⟩
  (due = none → still ∧ p' = p) ∧
  ∀ f id d, s.library.format p.format = some f → due = some (id, d) →
    let skips := f.skipRejected = true ∧ p.reasons ≠ 0
    (skips → still ∧
      p' = (match ref.station with
        | .form => { p with formResult := some skipped }
        | .sealing => { p with sealResult := some skipped })) ∧
    (¬skips → ¬takes → still ∧ p' = { p with reasons := p.reasons ||| 0x4 }) ∧
    (¬skips → takes →
      (x.params.source = .line → waits (if delay = 0 then none else some (s.now + delay))) ∧
      (x.params.source = .delayed → delay ≠ 0 → waits (some (s.now + delay))) ∧
      (x.params.source = .index ∨ (x.params.source = .delayed ∧ delay = 0) →
        (∀ gs, s.library.profile id = some gs →
          ∃ ended, Head.continues s.now h 0 (x.startsPack ref f id d gs) (s.status h) y (t.status h) ended ∧
            p' = match ended with
              | none => p
              | some (reason, w) =>
                p.ended ref.station (w.endedResult h reason) (w.endedMask reason ref.station)) ∧
        (s.library.profile id = none → p' = p ∧ y.dropsCycle x ∧ t.status h = s.status h)))

/-- The arrivals of a shift at the stations (R13): each bound head makes its selection for the pack in its lane, a head
without an arrival stands as it did, and a lane without a head whose pack was due a cycle gets NO_HEAD. -/
def State.stationsReached (s t : State) : Prop :=
  (∀ h, ((s.head h).params.binding = none ∨
      ∃ st lane, (s.head h).params.binding = some (st, lane) ∧
        ∀ pos, s.track.config.position st = some pos → s.track.afterMove pos = none) →
    t.head h = s.head h ∧ t.status h = s.status h) ∧
  ∀ st pos n, s.track.config.position st = some pos → s.track.afterMove pos = some n →
    ∃ n', t.track.nestAt pos = some n' ∧
      ∀ lane,
        (∀ h, (s.head h).params.binding = some (st, lane) →
          s.selects h ⟨n.serial, lane, st⟩ (n.packs.get lane) (n'.packs.get lane) t) ∧
        ((∀ h, (s.head h).params.binding ≠ some (st, lane)) →
          n'.packs.get lane =
            if s.library.cycleDue st (n.packs.get lane) = none then n.packs.get lane
            else { n.packs.get lane with reasons := (n.packs.get lane).reasons ||| 0x4 })

/-- The diverter decision turns the nest `n` into `n'` and diverts some lanes (R139): a lane is diverted exactly when its pack is
non-empty with a non-empty reject-reason set, NO_VERDICT of a required verdict in it. -/
def Nest.decidedAs (verdictRequired : Bool) (lanes : Byte) (n n' : Nest) : Prop :=
  { n' with packs := n.packs } = n ∧
  ∀ lane : Fin 8,
    let old := n.packs.get lane
    let reasons :=
      if old.format ≠ 0 ∧ verdictRequired = true ∧ old.verdict = .pending then old.reasons ||| 2 else old.reasons
    let diverts := old.format ≠ 0 ∧ reasons ≠ 0
    (lanes.getLsbD lane.val = true ↔ diverts) ∧
    n'.packs.get lane = { old with reasons := reasons, diverted := if diverts then true else old.diverted }

/-- The arrival of a shift at the gate (R137): a new activity for the nest, with both delays started when it has a pack; a delay
of 0 expires in the act. -/
def State.gateReached (s t : State) : Prop :=
  let g := s.gate
  let c := s.gate.config
  let pos := s.track.config.length - 1
  (s.track.afterMove pos = none → t.gate = g) ∧
  ∀ n, s.track.afterMove pos = some n →
    ((∀ lane, (n.packs.get lane).format = 0) →
      t.track.nestAt pos = some n ∧
      t.gate =
        { g with
          activity := some ⟨n.serial, .done, .done, none, none⟩
          punchTimer := none, diverterTimer := none, windowTimer := none }) ∧
    ((∃ lane, (n.packs.get lane).format ≠ 0) →
      ∃ a n', t.gate.activity = some a ∧ a.serial = n.serial ∧ t.gate.config = c ∧ t.track.nestAt pos = some n' ∧
        (c.punchDelay ≠ 0 →
          a.punch = .delay ∧ t.gate.punchTimer = some (s.now + c.punchDelay) ∧ t.gate.punchOut = g.punchOut) ∧
        (c.punchDelay = 0 →
          a.punch = .asserted ∧ t.gate.punchTimer = some (s.now + c.punchWidth) ∧ t.gate.punchOut = true) ∧
        (c.diverterDelay ≠ 0 →
          n' = n ∧ a.diverter = .delay ∧ a.diverted = none ∧ a.confirm = none ∧
          t.gate.diverterTimer = some (s.now + c.diverterDelay) ∧ t.gate.windowTimer = none ∧
          t.gate.diverterOut = g.diverterOut) ∧
        (c.diverterDelay = 0 →
          ∃ lanes, n.decidedAs s.track.config.verdictRequired lanes n' ∧
            a.diverter = (if lanes = 0 then .window else .pulse) ∧ a.diverted = some lanes ∧ a.confirm = some 0 ∧
            t.gate.diverterOut = lanes ∧
            t.gate.diverterTimer = (if lanes = 0 then none else some (s.now + c.diverterWidth)) ∧
            t.gate.windowTimer = some (s.now + c.diverterWidth + c.confirmGrace)))

/-! ### TRACK-STOP -/

/-- A nest as TRACK-STOP discharges it (R4): flagged PURGED, with the reason PURGED in its non-empty packs unless its diverter
decision has been made. -/
def Nest.purgedAs (decided : Bool) (n : Nest) : Nest :=
  { n with
    purged := true
    packs :=
      if decided then n.packs
      else n.packs.map fun p => if p.format = 0 then p else { p with reasons := p.reasons ||| 0x40000 } }

/-- What the discharge of nests in order, with nothing sent meanwhile, does to the outcome queue, the lost-report count and
OUTCOME_BACKLOG (R12, R19, R41, R43): the first report that joins carries the count, and those that find the queue full are
counted. -/
def State.discharged (l : List Nest) (s t : State) : Prop :=
  let queued := s.track.outcomes.length
  let room := 16 - queued
  t.track.outcomes =
    s.track.outcomes ++
      (match l.take room with
       | [] => []
       | n :: rest =>
         { n with reportsLost := if s.track.lost = 0 then none else some s.track.lost } ::
           rest.map fun n => { n with reportsLost := none }) ∧
  t.track.lost =
    (if l = [] then s.track.lost
     else if l.length ≤ room then 0
     else min 255 ((if room = 0 then s.track.lost else 0) + (l.length - room))) ∧
  t.causes &&& 0xBF =
    (s.causes ||| (if queued < 12 ∧ 12 ≤ queued + l.length then 0x80 else 0)) &&& 0xBF

/-! ### The layouts of the reports and queries (R192, R196, R202) -/

/-- Two bytes, the high byte first (R192). -/
def twoBytes (n : Nat) : List Byte :=
  [BitVec.ofNat 8 (n / 256), BitVec.ofNat 8 n]

/-- Four bytes, the high byte first (R192). -/
def fourBytes (n : Nat) : List Byte :=
  twoBytes (n / 65536) ++ twoBytes n

/-- The 7 bytes of a station result; an absent one is sent as 0 in every byte (R192, R196). -/
def StationResult.layout (o : Option StationResult) : List Byte :=
  match o with
  | none => List.replicate 7 0
  | some r =>
    [BitVec.ofNat 8 r.head, BitVec.ofNat 8 r.reason.code,
      BitVec.ofNat 8
        ((if r.resealed then 1 else 0) + (if r.ceilingClamped then 2 else 0) + (if r.outputClamped then 4 else 0) +
          (if r.lowSeen then 8 else 0) + (if r.tainted then 16 else 0) + (if r.dose = none then 0 else 32) +
          (if r.closure = none then 0 else 64) + 128)] ++
      twoBytes (r.dose.getD 0) ++ twoBytes (r.closure.getD 0)

/-- The 23 bytes of a pack record (R196). -/
def Pack.layout (lane : Fin 8) (p : Pack) : List Byte :=
  let verdict : Nat × Nat := match p.verdict with | .pending => (0, 0) | .good => (1, 0) | .bad n => (2, n) | .lateBad => (3, 0)
  [BitVec.ofNat 8 lane.val, BitVec.ofNat 8 p.format, BitVec.ofNat 8 verdict.1, BitVec.ofNat 8 verdict.2,
    if p.diverted then 1 else 0] ++
  fourBytes p.reasons.toNat ++ StationResult.layout p.formResult ++ StationResult.layout p.sealResult

/-- The 193 bytes of a nest record, which are the OUTCOME payload (R196). -/
def Nest.layout (n : Nest) : List Byte :=
  twoBytes n.serial ++ fourBytes n.entryCount ++
  [BitVec.ofNat 8
      ((if n.noManifest then 1 else 0) + (if n.purged then 2 else 0) + (if n.confirm = none then 0 else 4) +
        (if n.reportsLost = none then 0 else 8)),
    BitVec.ofNat 8 (n.confirm.getD 0), BitVec.ofNat 8 (n.reportsLost.getD 0)] ++
  allLanes.flatMap fun lane => (n.packs.get lane).layout lane

/-- The 67 bytes of a TRACK-QUERY reply after the result byte (R16, R202). -/
def State.trackLayout (s : State) : List Byte :=
  let t := s.track
  let c := t.config
  [BitVec.ofNat 8 t.mode.code, BitVec.ofNat 8 t.index.code, BitVec.ofNat 8 c.length,
    match c.form with | none => 0xFF | some f => BitVec.ofNat 8 f, BitVec.ofNat 8 c.sealPos] ++
  twoBytes c.stallLimit ++
  [BitVec.ofNat 8 (c.threshold.getD 0), (if c.verdictRequired then 1 else 0) ||| (if c.manifestRequired then 2 else 0)] ++
  fourBytes t.indexCount ++ twoBytes t.serial ++
  ((List.range 24).flatMap fun p =>
    twoBytes (if p < c.length then (match t.nestAt p with | none => 0 | some n => n.serial) else 0)) ++
  [BitVec.ofNat 8 t.manifests.length, BitVec.ofNat 8 t.outcomes.length, s.causes, if s.causes = 0 then 0 else 1]

/-- The parameters of a head as offsets 1 to 18 of the HEAD-SETUP payload (R201, R202). The lane of a binding of NONE is sent as 0:
the model's choice (log entry 11). -/
def HeadParams.layout (p : HeadParams) : List Byte :=
  (match p.binding with
   | none => [0, 0]
   | some (st, lane) => [BitVec.ofNat 8 st.code, BitVec.ofNat 8 lane.val]) ++
  [BitVec.ofNat 8 p.source.code] ++ twoBytes p.startDelay ++ [BitVec.ofNat 8 p.samplePeriod] ++ twoBytes p.standby ++
  twoBytes p.ceiling ++ twoBytes p.band ++ twoBytes p.settle ++
  [(if p.lowExtended then 1 else 0) ||| (if p.autoReject then 2 else 0) ||| (if p.holdOnSafe then 4 else 0)] ++
  twoBytes p.openLimit ++ [BitVec.ofNat 8 p.loopMode.code]

/-- The flags of a HEAD-QUERY reply: a release phase, a cycle, its pack reference, reseal-used and the closure time (R202). -/
def Head.queryFlags (x : Head) : Byte :=
  (if x.release = none then 0 else 1) ||| (if x.cycle = none then 0 else 2) |||
    (if x.cycle = none ∨ x.packRef = none then 0 else 4) |||
    (match x.run? with
     | none => 0
     | some r => (if r.resealUsed then 8 else 0) ||| (if r.closure = none then 0 else 16))

/-- The cycle in a HEAD-QUERY reply, offsets 41 to 48: origin, pack reference, current segment and closure time, each 0 where
absent (R94, R202). -/
def Head.cycleLayout (x : Head) : List Byte :=
  match x.cycle with
  | none => List.replicate 8 0
  | some c =>
    [match c.origin with | .pack => 0 | .once => 1] ++
      (match x.packRef with
       | none => [0, 0, 0, 0]
       | some r => twoBytes r.serial ++ [BitVec.ofNat 8 r.lane.val, BitVec.ofNat 8 r.station.code]) ++
      (match c.run with
       | none => [0, 0, 0]
       | some r => [BitVec.ofNat 8 r.current] ++ twoBytes (r.closure.getD 0))

/-- The 49 bytes of a HEAD-QUERY reply after the result byte (R94, R202). -/
def Head.layout (h : Fin 16) (x : Head) : List Byte :=
  [BitVec.ofNat 8 h.val, BitVec.ofNat 8 x.state.code, BitVec.ofNat 8 x.platen.code] ++ x.params.layout ++
  twoBytes x.tempSet ++ twoBytes x.presSet ++ twoBytes x.heaterCode ++ twoBytes x.pressureCode ++
  (bytes16 x.coeffs.tempGain ++ bytes16 x.coeffs.tempOffset ++ bytes16 x.coeffs.presGain ++ bytes16 x.coeffs.presOffset) ++
  [x.monitor.live, BitVec.ofNat 8 x.monitor.inject, x.queryFlags,
    match x.release with
    | none => 0
    | some r => match r.dest with | .ready => 3 | .heating => 2 | .safe => 6] ++
  x.cycleLayout

/-! ### What is due -/

/-- A command is an event of the device's own whose time has come: its timer runs, in the phase it serves, and has expired; or the
link has something to judge or to send. What has no timer is never due. -/
def State.hasDue (s : State) : Instr → Prop :=
  let expired := fun timer : Option Nat => ∃ t, timer = some t ∧ t ≤ s.now
  let segment := fun (h : Fin 16) (k : SegKind) =>
    ∃ r g, (s.head h).run? = some r ∧ r.segments[r.current]? = some g ∧ g.kind = k ∧ r.segDue ≤ s.now
  let gate := fun (phase : GateActivity → Prop) (timer : Option Nat) =>
    (∃ a, s.gate.activity = some a ∧ phase a) ∧ expired timer
  fun
  | .frameReceived => s.link.receiver.complete ≠ none
  | .receiveGapTimeout => s.link.receiver.complete = none ∧ ∃ l, s.link.lastByte = some l ∧ l + 6 ≤ s.now
  | .messageLastByte => ∃ m, s.link.sending = some m ∧ m.due ≤ s.now
  | .transmitBegin hold =>
    hold = s.lines.hostHold ∧ s.lines.hostHold = false ∧ s.link.sending = none ∧
      (s.link.filled ≠ [] ∨ s.track.outcomes ≠ [] ∨ (∃ h, (s.status h).owed = true) ∨ s.trackStatus.owed = true)
  | .stallExpiry => expired s.track.stallTimer
  | .syntheticIndexDone => expired s.track.steps.head?
  | .punchDelayExpiry => gate (fun a => a.punch = .delay) s.gate.punchTimer
  | .punchWidthExpiry => gate (fun a => a.punch = .asserted) s.gate.punchTimer
  | .diverterDelayExpiry => gate (fun a => a.diverter = .delay) s.gate.diverterTimer
  | .diverterWidthExpiry => gate (fun a => a.diverter = .pulse) s.gate.diverterTimer
  | .confirmWindowExpiry => gate (fun a => a.diverter = .pulse ∨ a.diverter = .window) s.gate.windowTimer
  | .loadRecordJudged => (∃ l, s.store.op = .loading l) ∧ s.store.due ≤ s.now
  | .coeffReadEnd => (∃ h, s.store.op = .reading h) ∧ s.store.due ≤ s.now
  | .coeffWriteEnd => (∃ h c, s.store.op = .writing h c) ∧ s.store.due ≤ s.now
  | .startDelayExpiry h =>
    (s.head h).state = .pending ∧ (s.head h).params.source = .delayed ∧ expired (s.head h).startTimer
  | .startLimitExpiry h =>
    (s.head h).state = .pending ∧ (s.head h).params.source = .line ∧ expired (s.head h).startTimer
  | .segmentExpiry h => segment h .hold ∨ segment h .ramp
  | .closeLimitExpiry h => segment h .close
  | .openLimitExpiry h => segment h .openUp
  | .rampStep h => ∃ p, (s.head h).ramp = some p ∧ p.next < p.duration ∧ p.start + p.next ≤ s.now
  | .releaseOpenLimitExpiry h => ∃ r, (s.head h).release = some r ∧ r.due ≤ s.now
  | .sample h reading closedLevel openLevel =>
    s.lines.heads.get h = ⟨reading, closedLevel, openLevel⟩ ∧ expired (s.head h).monitor.sampleTimer
  | .virtualEdgeExpiry h => ∃ e t, (s.head h).virtual = some (e, t) ∧ t ≤ s.now
  | .deviceReset .. | .byteReceived .. | .unknownKindFrame .. | .indexStart | .indexDone | .platenClosedEdge ..
  | .platenOpenEdge .. | .startLineEdge _ | .rejectConfirmEdge
  | .partReset _ | .trackSetup .. | .gateSetup .. | .headSetup .. | .headEnables .. | .formatPut .. | .formatDrop ..
  | .profilePut .. | .profileDrop .. | .trackStart .. | .trackStop _ | .manifestPost .. | .manifestFlush _ | .verdict ..
  | .holdRelease _ | .headOnline .. | .headOffline .. | .headHalt .. | .headCancel .. | .headClear .. | .headRelease ..
  | .statusTake .. | .trackStatusTake .. | .headQuery .. | .trackQuery _ | .nestQuery .. | .countSnapshot _
  | .countRead .. | .countZero .. | .coeffRead .. | .coeffWrite .. | .storeQuery _ | .cycleOnce .. | .inject .. | .step _ => False

end Sys2Proof.Machine
end

