-- ==== Sys2Proof/WellFormed.lean ====
section
/-! DEFINITION. Which commands could stand in the queue: what a frame of the link can carry (R192, R193). -/

namespace Sys2Proof

/-- The most payload bytes of a frame (R193). -/
def maxPayload : Nat := 250

/-- Whether the command is one the link or the machine can send: a PROFILE-PUT fits a frame and its count a byte, and a
frame of an unknown kind is of no request kind and fits. -/
def Instr.wellFormed (i : Instr) : Bool :=
  match i with
  | .profilePut _ _ gs => decide (2 + 8 * gs.length ≤ maxPayload)
  | .unknownKindFrame kind _ payload => !requestKinds.contains kind && decide (payload.length ≤ maxPayload)
  | .partReset .. | .trackSetup .. | .gateSetup .. | .headSetup ..
  | .headEnables .. | .formatPut .. | .formatDrop .. | .profileDrop ..
  | .trackStart .. | .trackStop .. | .manifestPost .. | .manifestFlush ..
  | .verdict .. | .holdRelease .. | .headOnline .. | .headOffline ..
  | .headHalt .. | .headCancel .. | .headClear .. | .headRelease ..
  | .statusTake .. | .trackStatusTake .. | .headQuery .. | .trackQuery ..
  | .nestQuery .. | .countSnapshot .. | .countRead .. | .countZero ..
  | .coeffRead .. | .coeffWrite .. | .storeQuery .. | .cycleOnce ..
  | .inject .. | .step .. | .deviceReset .. | .frameReceived ..
  | .receiveGapTimeout .. | .syntheticIndexDone .. | .indexStart .. | .indexDone ..
  | .stallExpiry .. | .platenClosedEdge .. | .platenOpenEdge .. | .startLineEdge ..
  | .startDelayExpiry .. | .startLimitExpiry .. | .segmentExpiry .. | .closeLimitExpiry ..
  | .openLimitExpiry .. | .rampStep .. | .releaseOpenLimitExpiry .. | .sample ..
  | .virtualEdgeExpiry .. | .rejectConfirmEdge .. | .punchDelayExpiry .. | .punchWidthExpiry ..
  | .diverterDelayExpiry .. | .diverterWidthExpiry .. | .confirmWindowExpiry .. | .loadRecordJudged ..
  | .coeffReadEnd .. | .coeffWriteEnd .. | .transmitBegin .. | .messageLastByte ..
  | .byteReceived .. => true

end Sys2Proof
end

