-- ==== Sys2Proof/Certificates/Slice0/Obligations.lean ====
section
/-! DEFINITION. What is stated for the provers. Each statement's docstring names the rules of spec/ it rests on. In a statement
about a request, `takesNow` is the condition of R185 under which it is taken as it arrives, and `withReply` is one more filled
reply slot; the reply kinds are those of R200 plus 0x80. An equation for the next state leaves every other field as it was. -/

open Sys2Proof Sys2Proof.Machine

/-! ### The step -/

/-- The command at the front of the queue is taken, with the rest of the queue left (the model's queue, log entry 1). -/
def Obligations.StepTakesFrontCommand : Prop :=
  ∀ (c : Instr) (rest : List Instr) (s : State), s.pending = c :: rest → step s = exec c (s.setPending rest)

/-- On an empty queue: with nothing due a millisecond passes; one due event is taken; of several, one of them is (the model's
choice, log entries 2 and 3). Due are exactly the events whose running timer has expired, and what the link has to judge or to send
(State.hasDue; R6, R8, R71, R74, R77 to R79, R85, R99, R110, R137 to R143, R165, R175 to R179, R183 to R188). -/
def Obligations.EmptyQueueTakesDueEvent : Prop :=
  (∀ (s : State) (i : Instr), i ∈ s.dueNow ↔ s.hasDue i) ∧
  ∀ s : State, s.pending = [] →
    (s.dueNow = [] → step s = .next (s.setNow (s.now + 1))) ∧
    (∀ i, s.dueNow = [i] → step s = exec i s) ∧
    (2 ≤ s.dueNow.length → ∃ i ∈ s.dueNow, step s = exec i (s.setDraws (s.draws + 1)))

/-- No command stops the device, and none touches the queue of commands that wait (00_scope: what is refused is a reply; the
model's choices, log entries 1 and 18). -/
def Obligations.EveryCommandCompletes : Prop :=
  ∀ (c : Instr) (s : State), ∃ t, exec c s = .next t ∧ t.pending = s.pending

/-! ### Frames (R184, R186, R192 to R195, R200, R201) -/

/-- The frame of every well-formed request is judged to be that request (R186, R200, R201). -/
def Obligations.RequestFramesRoundTrip : Prop :=
  ∀ (i : Instr) (f : Frame), i.wellFormed = true → encodeFrame i = some f → f.kind ∈ requestKinds →
    decodeFrame f = .request i

/-- A frame judged to be a request is the frame of that request: no bit of it is dropped. A kind that is no request kind is
judged unknown, whatever the payload (R186, R192, R201). -/
def Obligations.JudgedFramesAreRequests : Prop :=
  (∀ (f : Frame) (i : Instr), decodeFrame f = .request i → encodeFrame i = some f) ∧
  ∀ f : Frame, f.kind ∉ requestKinds → decodeFrame f = .unknownKind

/-- A frame sent whole on the line and received without a gap is collected with its check agreeing (R183, R184, R193). -/
def Obligations.WireFramesAreReceived : Prop :=
  ∀ (f : Frame) (k : Link) (now : Nat), f.payload.length ≤ 250 → k.receiver = .hunt →
    (f.wire.foldl (fun k b => k.byte now b true) k).receiver.complete = some (f, true)

/-- Frames written out byte by byte from R201 are judged to be the requests they stand for, and the check of R184 gives its
test value. -/
def Obligations.WrittenFramesDecode : Prop :=
  crc16 [0x31, 0x32, 0x33, 0x34, 0x35, 0x36, 0x37, 0x38, 0x39] = 0x29B1 ∧
  decodeFrame ⟨0x10, 7, [1]⟩ = .request (.trackStart 7 1) ∧
  decodeFrame ⟨0x14, 9, [0x01, 0x02, 0x84, 3]⟩ = .request (.verdict 9 0x0102 0x84 3) ∧
  decodeFrame ⟨0x39, 5, [5, 0xFE, 0x64, 0xFF, 0xC6, 0x05, 0xDC, 0x00, 0x16]⟩ =
    .request (.coeffWrite 5 5 ⟨0xFE64, 0xFFC6, 0x05DC, 0x0016⟩) ∧
  decodeFrame ⟨0x0A, 4, [3, 1, 1, 0x20, 0, 0, 0x01, 0x5E, 0, 0x96]⟩ =
    .request (.profilePut 4 3 [⟨1, 0x20, 0, 350, 150⟩]) ∧
  decodeFrame ⟨0x0A, 4, [3, 2, 1, 0x20, 0, 0, 0x01, 0x5E, 0, 0x96]⟩ = .badLength ∧
  decodeFrame ⟨0x90, 4, [1]⟩ = .unknownKind

/-! ### The link (R183 to R189) -/

/-- The receiver (R183). A byte: outside a complete frame and without a gap, a missing stop bit leaves HUNT, and a good
byte is judged by the receiver's state; after a gap it is judged in HUNT. A gap of more than 5 ms abandons the
frame in progress: the clock stands at the sixth millisecond at least (whole milliseconds: log entry 7). -/
def Obligations.ByteMovesReceiver : Prop :=
  (∀ (s : State) (b : Byte) (stopBit : Bool), s.link.receiver.complete = none →
    ∃ t, exec (.byteReceived b stopBit) s = .next t ∧ t.setLink s.link = s ∧
      { t.link with receiver := s.link.receiver, lastByte := s.link.lastByte } = s.link ∧
      (t.link.lastByte = if t.link.receiver = .hunt then none else some s.now) ∧
      (stopBit = false → t.link.receiver = .hunt) ∧
      (stopBit = true → (s.link.receiver = .hunt ∨ ∃ l, s.link.lastByte = some l ∧ l + 5 < s.now) →
        t.link.receiver = if b = 0xA5 then .sync else .hunt) ∧
      (stopBit = true → (∀ l, s.link.lastByte = some l → s.now ≤ l + 5) →
        (s.link.receiver = .sync →
          t.link.receiver = if b = 0x5A then .length else if b = 0xA5 then .sync else .hunt) ∧
        (s.link.receiver = .length →
          t.link.receiver = if 2 ≤ b.toNat ∧ b.toNat ≤ 252 then .body b.toNat [] else .hunt) ∧
        (∀ n l, s.link.receiver = .body n l →
          t.link.receiver = if l.length + 1 < n then .body n (l ++ [b]) else .check n (l ++ [b]) []) ∧
        (∀ n l c, s.link.receiver = .check n l c → t.link.receiver = .check n l (c ++ [b])))) ∧
  ∀ (s : State) (l : Nat), s.link.receiver.complete = none → s.link.lastByte = some l →
    exec .receiveGapTimeout s =
      .next ((s.setNow (max s.now (l + 6))).setLink { s.link with receiver := .hunt, lastByte := none })

/-- A collected frame: one whose check differs is discarded; with no slot free a whole one joins the buffer, or is discarded
when the buffer holds four; with the buffer empty and a slot free it is taken in the same act, as the command it spells (R184,
R185, R186; the act is the model's, log entry 12). -/
def Obligations.CollectedFrameIsJudged : Prop :=
  ∀ (s : State) (f : Frame) (agrees : Bool), s.link.receiver.complete = some (f, agrees) →
    let hunting := s.setLink { s.link with receiver := .hunt, lastByte := none }
    (agrees = false → exec .frameReceived s = .next hunting) ∧
    (agrees = true → 8 ≤ s.link.reserved.length + s.link.filled.length →
      exec .frameReceived s =
        .next (if s.link.buffer.length < 4 then
          hunting.setLink { hunting.link with buffer := s.link.buffer ++ [f] } else hunting)) ∧
    (agrees = true → s.takesNow →
      (∀ i, decodeFrame f = .request i → exec .frameReceived s = exec i hunting) ∧
      (decodeFrame f = .unknownKind → exec .frameReceived s = .next (hunting.withReply 0xFF f.tag [1])) ∧
      (decodeFrame f = .badLength → exec .frameReceived s = .next (hunting.withReply (f.kind + 0x80) f.tag [2])))

/-- A request that finds no free slot waits in the buffer, or is lost when the buffer holds four: it changes nothing else. A
frame of no request kind is answered UNKNOWN_KIND with reply kind 0xFF and its tag (R185, R186). -/
def Obligations.FramesWaitOrAreAnswered : Prop :=
  (∀ (s : State) (i : Instr) (f : Frame), encodeFrame i = some f → 8 ≤ s.link.reserved.length + s.link.filled.length →
    exec i s =
      .next (if s.link.buffer.length < 4 then s.setLink { s.link with buffer := s.link.buffer ++ [f] } else s)) ∧
  ∀ (s : State) (kind tag : Byte) (payload : List Byte), s.takesNow → kind ∉ requestKinds →
    exec (.unknownKindFrame kind tag payload) s = .next (s.withReply 0xFF tag [1])

/-- The transmitter chooses the oldest reply, then the oldest report, then the lowest owed head notice, then the track notice;
while it is sending or host-hold is active it begins nothing (R188, R156, R159). That the choice is an act of its own is the
model's (log entry 10), as is the millisecond at which the last byte is out (log entry 7). -/
def Obligations.TransmitterChoosesInOrder : Prop :=
  ∀ (s : State) (hold : Bool),
    let heard := s.setLines { s.lines with hostHold := hold }
    let sends := fun (u : State) (m : Frame) (src : Source) =>
      ∃ due, s.now < due ∧ exec (.transmitBegin hold) s =
        .next (u.setLink { u.link with sending := some ⟨m, src, due⟩ })
    ((hold = true ∨ s.link.sending.isSome) → exec (.transmitBegin hold) s = .next heard) ∧
    (hold = false → s.link.sending = none →
      (∀ f rest, s.link.filled = f :: rest → sends heard f .reply) ∧
      (s.link.filled = [] →
        (∀ n rest, s.track.outcomes = n :: rest → sends heard ⟨0xE2, 0, n.layout⟩ .report) ∧
        (s.track.outcomes = [] →
          (∀ h, (s.status h).owed = true → (∀ h' < h, (s.status h').owed = false) →
            sends (heard.putStatus h { s.status h with owed := false })
              ⟨0xE0, 0, [BitVec.ofNat 8 h.val, BitVec.ofNat 8 (s.status h).pending.code]⟩ .notice) ∧
          ((∀ h, (s.status h).owed = false) →
            (s.trackStatus.owed = true →
              sends (heard.setTrackStatus { s.trackStatus with owed := false })
                ⟨0xE1, 0, [s.trackStatus.changed]⟩ .notice) ∧
            (s.trackStatus.owed = false → exec (.transmitBegin hold) s = .next heard)))))

/-- The last byte of a message frees the transmitter and acts on its source: a reply frees its slot, a report leaves the
outcome queue and at the removal that leaves four ends OUTCOME_BACKLOG, a notice or a removed source does nothing more (R189,
R42, R19). A slot that becomes free takes the frame at the head of the receive buffer, as the command it spells, and the frames
behind it wait on; only PART-RESET empties the buffer (R185, R187, R190). That it is taken in the same act is DEDUCED (log
entry 12). A frame waits only while no slot is free, which every step keeps (StepKeepsBounds).
The clock stands at the expiry at least: the model's choice (log entry 2). -/
def Obligations.LastByteActsOnSource : Prop :=
  ∀ (s : State) (m : Sending), s.link.sending = some m →
    (s.link.buffer ≠ [] → s.link.reserved.length + s.link.filled.length = 8) →
    let free := (s.setNow (max s.now m.due)).setLink { s.link with sending := none }
    (m.source = .reply → s.link.buffer = [] →
      exec .messageLastByte s = .next (free.setLink { free.link with filled := s.link.filled.tail })) ∧
    (m.source = .reply → ∀ f rest, s.link.buffer = f :: rest → s.link.filled ≠ [] →
      let emptied := free.setLink { free.link with filled := s.link.filled.tail, buffer := [] }
      let waiting := fun u : State => u.setLink { u.link with buffer := rest }
      (∀ i, decodeFrame f = .request i →
        ∃ u, exec i emptied = .next u ∧
          exec .messageLastByte s = .next (if f.kind = 0x01 then u else waiting u)) ∧
      (decodeFrame f = .unknownKind →
        exec .messageLastByte s = .next ((waiting emptied).withReply 0xFF f.tag [1])) ∧
      (decodeFrame f = .badLength →
        exec .messageLastByte s = .next ((waiting emptied).withReply (f.kind + 0x80) f.tag [2]))) ∧
    (m.source = .report →
      let causes := if s.track.outcomes.length = 5 then s.causes &&& 0x7F else s.causes
      exec .messageLastByte s =
        .next (((free.setTrack { s.track with outcomes := s.track.outcomes.tail }).setCauseSet causes).setTrackStatus
          (if s.causes ≠ 0 ∧ causes = 0 then s.trackStatus.post .holdChanged else s.trackStatus))) ∧
    (m.source = .notice ∨ m.source = .removed → exec .messageLastByte s = .next free)

/-! ### Resets (R23, R95, R190) -/

/-- What a device reset leaves: the values the rules give for each block (R23, R64, R95, R109, R134, R147, R161, R162, R173,
R175, R180, R191). -/
def Obligations.DeviceResetSetsEveryBlock : Prop :=
  ∀ (s : State) (opens closeds : BitVec 16), ∃ t, exec (.deviceReset opens closeds) s = .next t ∧
    t.link = {} ∧ t.causes = 0 ∧ t.trackStatus = ⟨0, 0x3F, false⟩ ∧ t.library = ⟨[], []⟩ ∧
    t.track =
      { mode := .halted, index := .dwell, stallTimer := none, slots := List.replicate 12 none, serial := 1,
        indexCount := 0, steps := [], config := ⟨12, none, 6, 1000, some 4, false, false⟩, manifests := [],
        outcomes := [], lost := 0 } ∧
    t.gate = { config := ⟨100, 60, 150, 80, 100⟩, activity := none, punchTimer := none, diverterTimer := none,
               windowTimer := none, punchOut := false, diverterOut := 0 } ∧
    t.store.op = .loading [] ∧ t.store.due = s.now + 3 ∧ t.store.lastWrite = none ∧
    (∀ h c, s.store.op = .writing h c →
      (t.store.records.get h).valid = false ∧ ∀ h' ≠ h, t.store.records.get h' = s.store.records.get h') ∧
    ((∀ h c, s.store.op ≠ .writing h c) → t.store.records = s.store.records) ∧
    ∀ h : Fin 16,
      t.status h = ⟨.empty, none, 0, 0, false⟩ ∧
      (t.head h).state = .offline ∧
      (t.head h).platen = (if opens.getLsbD h.val then .opened else .unknown) ∧
      { t.head h with platen := .unknown } = ({} : Head)

/-- What a soft reset leaves: PART-RESET empties the track, the queues, the cause set and the link, takes every head OFFLINE and
keeps configuration, library and parameters; its own OK reply is the only filled slot. A message in progress goes on; one whose
source the reset has removed is marked so, and its last byte acts on nothing (LastByteActsOnSource) (R189, R190, R23, R45, R64, R95,
R134, R147, R161, R162, R173, R180). -/
def Obligations.PartResetSetsEveryBlock : Prop :=
  ∀ (s : State) (tag : Byte), s.takesNow → ∃ t, exec (.partReset tag) s = .next t ∧
    t.link =
      { receiver := .hunt, lastByte := none, buffer := [], reserved := [], filled := [⟨0x81, tag, [0]⟩]
        sending := s.link.sending.map fun m =>
          { m with source := match m.source with | .notice => .notice | .reply | .report | .removed => .removed } } ∧
    t.track =
      { mode := .halted, index := s.track.index, stallTimer := none,
        slots := List.replicate s.track.config.length none, serial := 1, indexCount := 0, steps := [],
        config := s.track.config, manifests := [], outcomes := [], lost := 0 } ∧
    t.causes = 0 ∧ t.trackStatus = ⟨0, s.trackStatus.enable, false⟩ ∧ t.library = s.library ∧
    t.gate = { config := s.gate.config, activity := none, punchTimer := none, diverterTimer := none,
               windowTimer := none, punchOut := false, diverterOut := 0 } ∧
    t.store.records = s.store.records ∧ t.store.lastWrite = s.store.lastWrite ∧
    (∀ h, s.store.op = .reading h → t.store.op = .idle) ∧
    ((∀ h, s.store.op ≠ .reading h) → t.store = s.store) ∧
    t.now = s.now ∧ t.lines = s.lines ∧
    ∀ h : Fin 16,
      t.status h = ⟨.empty, none, 0, (s.status h).enable, false⟩ ∧
      t.head h =
        { params := (s.head h).params, coeffs := (s.head h).coeffs
          platen := if (s.head h).platen = .closing ∨ (s.head h).platen = .closed then .opening else (s.head h).platen
          monitor := { live := (s.head h).monitor.live &&& 0x20 } }

/-! ### Track and gate configuration, track mode (R2 to R4, R135) -/

/-- TRACK-SETUP (R2): refused WRONG_MODE outside HALTED, BAD_VALUE for an item outside its range, IN_USE for a form position of
NONE while a head is bound to FORM; otherwise all seven items are replaced. With the threshold's presence of MANIFEST_LOW
unchanged nothing else moves (R30, R31); MANIFEST_LOW is present while the count is at or below the threshold, and never with the
threshold OFF (Track.runsLow). -/
def Obligations.TrackSetupReplacesConfiguration : Prop :=
  ∀ (s : State) (tag : Byte) (r : TrackSetupReq), s.takesNow →
    let good := 4 ≤ r.length.toNat ∧ r.length.toNat ≤ 24 ∧
      (r.form = 0xFF ∨ r.form.toNat + 3 ≤ r.length.toNat ∧ r.form.toNat < r.sealPos.toNat) ∧
      1 ≤ r.sealPos.toNat ∧ r.sealPos.toNat + 2 ≤ r.length.toNat ∧
      100 ≤ r.stallLimit.toNat ∧ r.stallLimit.toNat ≤ 3000 ∧
      (r.threshold = 0 ∨ r.threshold = 2 ∨ r.threshold = 4 ∨ r.threshold = 8)
    let formBound := ∃ h lane, (s.head h).params.binding = some (.form, lane)
    let config : TrackConfig :=
      ⟨r.length.toNat, if r.form = 0xFF then none else some r.form.toNat, r.sealPos.toNat, r.stallLimit.toNat,
       if r.threshold = 0 then none else some r.threshold.toNat, r.flags.getLsbD 0, r.flags.getLsbD 1⟩
    let track := { s.track with config := config, slots := List.replicate r.length.toNat none }
    (s.track.mode ≠ .halted → exec (.trackSetup tag r) s = .next (s.withReply 0x82 tag [4])) ∧
    (s.track.mode = .halted → ¬good → exec (.trackSetup tag r) s = .next (s.withReply 0x82 tag [3])) ∧
    (s.track.mode = .halted → good → r.form = 0xFF → formBound →
      exec (.trackSetup tag r) s = .next (s.withReply 0x82 tag [6])) ∧
    (s.track.mode = .halted → good → ¬(r.form = 0xFF ∧ formBound) →
      exec (.trackSetup tag r) s =
        .next ((if track.runsLow = s.track.runsLow then s.setTrack track
          else (s.setTrack track).setTrackStatus (s.trackStatus.post .manifestLow)).withReply 0x82 tag [0]))

/-- GATE-SETUP (R135): refused WRONG_MODE outside HALTED and BAD_VALUE for an item outside its range; otherwise all five items
are replaced. -/
def Obligations.GateSetupReplacesConfiguration : Prop :=
  ∀ (s : State) (tag : Byte) (r : GateSetupReq), s.takesNow →
    let good := r.punchDelay.toNat ≤ 1000 ∧ 10 ≤ r.punchWidth.toNat ∧ r.punchWidth.toNat ≤ 500 ∧
      r.diverterDelay.toNat ≤ 2000 ∧ 20 ≤ r.diverterWidth.toNat ∧ r.diverterWidth.toNat ≤ 500 ∧
      r.confirmGrace.toNat ≤ 500
    (s.track.mode ≠ .halted → exec (.gateSetup tag r) s = .next (s.withReply 0x83 tag [4])) ∧
    (s.track.mode = .halted → ¬good → exec (.gateSetup tag r) s = .next (s.withReply 0x83 tag [3])) ∧
    (s.track.mode = .halted → good →
      exec (.gateSetup tag r) s =
        .next ((s.setGate
          { s.gate with
            config := ⟨r.punchDelay.toNat, r.punchWidth.toNat, r.diverterDelay.toNat, r.diverterWidth.toNat,
              r.confirmGrace.toNat⟩ }).withReply 0x83 tag [0]))

/-- TRACK-START (R3): refused WRONG_MODE outside HALTED and NOT_LOADED while the store is LOADING; otherwise the mode becomes
TEST with the test flag and RUN without, and nothing else moves. TRACK-STOP (R4, R93, R146): refused WRONG_MODE in HALTED;
otherwise every nest is discharged, position L − 1 first, flagged PURGED and with PURGED in its packs unless its decision has
been made; the track is empty and HALTED, the stall timer cancelled, the gate activity gone; every cycle PENDING or RUNNING ends
HALTED with its PRIMARY, toward READY, and the other heads stand as they did. The reply carries the number of nests discharged;
manifests, counts and configuration of the track stay, and of the causes only OUTCOME_BACKLOG joins, with HOLD_CHANGED exactly where
the set was empty (R18, R21). No head in SAFE has a cycle: every step keeps that (Head.coherent in StepKeepsHeadsCoherent). -/
def Obligations.TrackStartAndStop : Prop :=
  ∀ (s : State) (tag : Byte), s.takesNow →
    (∀ flags : Byte,
      (s.track.mode ≠ .halted → exec (.trackStart tag flags) s = .next (s.withReply 0x90 tag [4])) ∧
      (s.track.mode = .halted → (∃ l, s.store.op = .loading l) →
        exec (.trackStart tag flags) s = .next (s.withReply 0x90 tag [15])) ∧
      (s.track.mode = .halted → (∀ l, s.store.op ≠ .loading l) →
        exec (.trackStart tag flags) s =
          .next ((s.setTrack { s.track with mode := if flags.getLsbD 0 then .test else .run }).withReply 0x90 tag [0]))) ∧
    (s.track.mode = .halted → exec (.trackStop tag) s = .next (s.withReply 0x91 tag [4, 0])) ∧
    (s.track.mode ≠ .halted →
      let nests := (s.track.slots.filterMap id).reverse
      ∃ t, exec (.trackStop tag) s = .next t ∧
        { t.track with outcomes := s.track.outcomes, lost := s.track.lost } =
          { s.track with
            mode := .halted, stallTimer := none, slots := List.replicate s.track.config.length none } ∧
        s.discharged (nests.map fun n => n.purgedAs (s.gate.decided n.serial)) t ∧
        t.trackStatus.enable = s.trackStatus.enable ∧ t.trackStatus.changed &&& 0xEF = s.trackStatus.changed &&& 0xEF ∧
        s.noticeFollows t ∧
        (s.cyclesOutsideSafe → t.causes.getLsbD 6 = s.causes.getLsbD 6 ∧ s.holdFollows t) ∧
        t.gate = { config := s.gate.config, activity := none, punchTimer := none, diverterTimer := none,
                   windowTimer := none, punchOut := false, diverterOut := 0 } ∧
        (∀ h, ((s.head h).cycle = none → t.head h = s.head h ∧ t.status h = s.status h) ∧
          ((s.head h).cycle ≠ none → s.headEnded h .halted .ready true t)) ∧
        t.link = { s.link with
          filled := s.link.filled ++ [⟨0x91, tag, [0, BitVec.ofNat 8 nests.length]⟩] } ∧
        t.library = s.library ∧ t.store = s.store ∧ t.lines = s.lines ∧ t.now = s.now)

/-! ### The index (R5 to R13) -/

/-- An INDEX-START edge (R5 to R7): in DWELL the index state becomes MOVING, with the stall timer started in RUN and TEST; in
MOVING it is a sequence fault. At an online head a cycle ends OVERRUN with its PRIMARY, toward READY, and its pack gets the station
result of R82 whole, OVERRUN, and LOW_TEMP and DRY_RUN where they are due; a platen that is not OPEN posts INDEX_WHILE_CLOSED and
gives the pack the head refers to CLOSED_AT_INDEX; no other reason joins a pack, and a head without a cycle does not move (R82, R83,
R92). Gate activity in progress is cut: the punch, a diverter delay without a decision, or the pulse and window with the count
written into the gate nest (R144). HOLD_CHANGED is set exactly where the cause set was empty and is not (R18, R21), where no head in
SAFE has a cycle, which every step keeps (Head.coherent in StepKeepsHeadsCoherent). Nothing else moves. -/
def Obligations.IndexStartMovesIndex : Prop :=
  ∀ s : State, ∃ t, exec .indexStart s = .next t ∧
    t.track.index = .moving ∧
    (s.track.index = .dwell →
      t.track.stallTimer =
        (if s.track.mode = .halted then s.track.stallTimer else some (s.now + s.track.config.stallLimit)) ∧
      t.trackStatus.changed.getLsbD 0 = s.trackStatus.changed.getLsbD 0) ∧
    (s.track.index = .moving →
      t.track.stallTimer = s.track.stallTimer ∧ t.trackStatus.changed.getLsbD 0 = true) ∧
    { t.track with index := s.track.index, stallTimer := s.track.stallTimer, slots := s.track.slots } = s.track ∧
    (let online := fun h => (s.head h).state ≠ .offline
     let pointsAt := fun h ref => (s.head h).packRef = some ref
     (∀ h, ¬online h ∨ (s.head h).cycle = none → t.head h = s.head h ∧ t.status h = s.status h) ∧
     (∀ h, online h → (s.head h).cycle ≠ none →
       s.headEnded h .overrun .ready true t ∧
       ∀ ref p, (s.head h).cycle.map Cycle.origin = some .pack → pointsAt h ref → s.track.packOf ref = some p →
         ∃ p', t.track.packOf ref = some p' ∧
           ((∀ h' ≠ h, ¬pointsAt h' ref) → t.track.resultAt ref = some ((s.head h).endedResult h .overrun)) ∧
           (∃ h' r, pointsAt h' ref ∧ t.track.resultAt ref = some r ∧ r = (s.head h').endedResult h' .overrun) ∧
           (p.format ≠ 0 → p'.reasons &&& (s.head h).endedMask .overrun ref.station =
             (s.head h).endedMask .overrun ref.station)) ∧
     (∀ h, online h → (s.head h).platen ≠ .opened →
       t.causes.getLsbD 1 = true ∧
       ∀ ref p, pointsAt h ref → t.track.packOf ref = some p → p.format ≠ 0 → p.reasons.getLsbD 19 = true) ∧
     ((∀ h, ¬online h ∨ (s.head h).platen = .opened) → t.causes.getLsbD 1 = s.causes.getLsbD 1) ∧
     ∀ pos,
       (s.track.nestAt pos = none → t.track.nestAt pos = none) ∧
       ∀ n, s.track.nestAt pos = some n →
         ∃ n', t.track.nestAt pos = some n' ∧ { n' with packs := n.packs, confirm := n.confirm } = n ∧
           (∀ lane, (∀ h ref, online h → pointsAt h ref → ref.serial = n.serial → ref.lane ≠ lane) →
             n'.packs.get lane = n.packs.get lane) ∧
           (∀ lane : Fin 8,
             let old := n.packs.get lane
             let new := n'.packs.get lane
             { new with reasons := old.reasons, formResult := old.formResult, sealResult := old.sealResult } = old ∧
             ∀ i, new.reasons.getLsbD i = true → old.reasons.getLsbD i = true ∨
               ∃ h ref, online h ∧ pointsAt h ref ∧ ref.serial = n.serial ∧ ref.lane = lane ∧
                 (((s.head h).cycle.map Cycle.origin = some .pack ∧
                     ((s.head h).endedMask .overrun ref.station).getLsbD i = true) ∨
                   ((s.head h).platen ≠ .opened ∧ i = 19))) ∧
           (∀ a count, s.gate.activity = some a → a.diverter = .pulse ∨ a.diverter = .window → a.serial = n.serial →
             a.confirm = some count → n'.confirm = some count) ∧
           ((∀ a, s.gate.activity = some a → (a.diverter ≠ .pulse ∧ a.diverter ≠ .window) ∨ a.serial ≠ n.serial) →
             n'.confirm = n.confirm)) ∧
    (let uncut := t.gate = s.gate ∧ t.causes.getLsbD 4 = s.causes.getLsbD 4 ∧
        t.trackStatus.changed.getLsbD 3 = s.trackStatus.changed.getLsbD 3
     (s.gate.activity = none → uncut) ∧
     ∀ a, s.gate.activity = some a →
       let busy := a.punch = .delay ∨ a.punch = .asserted
       let windowOpen := a.diverter = .pulse ∨ a.diverter = .window
       (¬busy ∧ ¬windowOpen ∧ a.diverter ≠ .delay → uncut) ∧
       (busy ∨ windowOpen ∨ a.diverter = .delay →
         t.causes.getLsbD 4 = true ∧ t.trackStatus.changed.getLsbD 3 = true ∧
         t.gate =
           { s.gate with
             activity := some { a with
               punch := if busy then .cut else a.punch
               diverter := if windowOpen ∨ a.diverter = .delay then .cut else a.diverter
               confirm := if windowOpen then none else a.confirm }
             punchOut := if busy then false else s.gate.punchOut
             punchTimer := if busy then none else s.gate.punchTimer
             diverterOut := if windowOpen then 0 else s.gate.diverterOut
             diverterTimer := if windowOpen ∨ a.diverter = .delay then none else s.gate.diverterTimer
             windowTimer := if windowOpen then none else s.gate.windowTimer })) ∧
    t.causes &&& 0xAD = s.causes &&& 0xAD ∧
    (s.cyclesOutsideSafe → t.causes.getLsbD 6 = s.causes.getLsbD 6 ∧ s.holdFollows t) ∧
    t.trackStatus.enable = s.trackStatus.enable ∧
    t.trackStatus.changed &&& 0xE6 = s.trackStatus.changed &&& 0xE6 ∧ s.noticeFollows t ∧
    t.link = s.link ∧ t.library = s.library ∧ t.store = s.store ∧ t.lines = s.lines ∧ t.now = s.now

/-- An INDEX-DONE edge (R5, R7, R9 to R12): in DWELL it is a sequence fault alone; in MOVING it returns to DWELL and cancels the
stall timer, and in RUN it shifts: the nest at position L − 1 is discharged, into the outcome queue or, when that is full, into
the lost-report count, with OUTCOME_BACKLOG at the twelfth report; every nest moves up one position; the index count advances;
and a nest with the next serial number and the lane codes of the oldest manifest enters, or without one a NO_MANIFEST nest with
its event and, where manifest-required is on, MANIFEST_EMPTY (R19, R32, R41, R43). -/
def Obligations.IndexDoneShiftsInRun : Prop :=
  ∀ s : State,
    (s.track.index = .dwell →
      exec .indexDone s = .next (s.setTrackStatus (s.trackStatus.post .indexSequence))) ∧
    (s.track.index = .moving → s.track.mode ≠ .run →
      exec .indexDone s = .next (s.setTrack { s.track with index := .dwell, stallTimer := none })) ∧
    (s.track.index = .moving → s.track.mode = .run → s.track.config.valid = true → s.track.numbered →
      ∃ t, exec .indexDone s = .next t ∧ s.shifted t ∧ t.track.index = .dwell ∧ t.track.stallTimer = none ∧
        t.track.mode = .run ∧ t.track.steps = s.track.steps ∧ t.link = s.link ∧ t.library = s.library ∧
        t.store = s.store ∧ t.lines = s.lines ∧ t.now = s.now)

/-- The arrivals of a shift, at an INDEX-DONE in RUN and at a synthetic one in TEST (R8, R13): the selection of every head bound to
a station that a nest has reached, with SKIPPED, NO_HEAD, a cycle that waits and a cycle that starts (R73 to R75); NO_HEAD for
lanes without a bound head; and the gate's new activity with its punch and diverter delays (R137 to R139).
The clock stands at the expiry at least: the model's choice (log entry 2).
The output-clamped flag is set where a code is computed: DEDUCED (log entry 13). -/
def Obligations.ShiftReachesStationsAndGate : Prop :=
  ∀ s : State, s.track.config.valid = true → s.track.numbered → s.bindingsDistinct → s.track.index = .moving →
    (s.track.mode = .run → ∃ t, exec .indexDone s = .next t ∧ s.stationsReached t ∧ s.gateReached t) ∧
    (s.track.mode = .test → ∀ due rest, s.track.steps = due :: rest →
      let later := s.setNow (max s.now due)
      ∃ t, exec .syntheticIndexDone s = .next t ∧ later.stationsReached t ∧ later.gateReached t)

/-- STEP (R8): refused WRONG_MODE outside TEST and WRONG_STATE while MOVING; otherwise the synthetic INDEX-START is taken, the
synthetic INDEX-DONE is due 1 ms later, and the slot stays reserved. That INDEX-DONE shifts in MOVING and TEST as a physical one
does in RUN, and the reply carries the serial number of the nest that entered; in MOVING outside TEST, after a TRACK-STOP, it
returns to DWELL without a shift, and in DWELL it sets INDEX_SEQUENCE, and the reply carries 0. The reply goes to the oldest slot that
a STEP reserves, whatever other slots are reserved, and the steps behind it in flight stay (log entry 17).
The clock stands at the expiry at least: the model's choice (log entry 2). -/
def Obligations.StepSchedulesIndexDone : Prop :=
  (∀ (s : State) (tag : Byte), s.takesNow →
    (s.track.mode ≠ .test → exec (.step tag) s = .next (s.withReply 0xC2 tag [4, 0, 0])) ∧
    (s.track.mode = .test → s.track.index = .moving → exec (.step tag) s = .next (s.withReply 0xC2 tag [5, 0, 0])) ∧
    (s.track.mode = .test → s.track.index = .dwell →
      ∃ u, exec .indexStart s = .next u ∧
        exec (.step tag) s =
          .next ((u.setTrack { u.track with steps := s.track.steps ++ [s.now + 1] }).withReserved 0x42 tag))) ∧
  ∀ (s : State) (tag : Byte) (due : Nat) (steps : List Nat) (older younger : List Reserved), s.track.steps = due :: steps →
    s.link.reserved = older ++ ⟨0x42, tag⟩ :: younger → (∀ r ∈ older, r.kind ≠ 0x42) →
    let later := s.setNow (max s.now due)
    let answered := fun content : List Byte =>
      ({ s.link with reserved := older ++ younger, filled := s.link.filled ++ [⟨0xC2, tag, 0 :: content⟩] } : Link)
    (s.track.index = .moving → s.track.mode = .test → s.track.config.valid = true → s.track.numbered →
      ∃ t, exec .syntheticIndexDone s = .next t ∧ later.shifted t ∧ t.track.index = .dwell ∧
        t.track.stallTimer = none ∧ t.track.mode = .test ∧ t.track.steps = steps ∧ t.now = later.now ∧
        t.link = answered [BitVec.ofNat 8 (s.track.serial / 256), BitVec.ofNat 8 s.track.serial] ∧
        t.library = s.library ∧ t.store = s.store ∧ t.lines = s.lines) ∧
    (s.track.index = .moving → s.track.mode ≠ .test →
      exec .syntheticIndexDone s =
        .next ((later.setTrack { s.track with steps := steps, index := .dwell, stallTimer := none }).setLink
          (answered [0, 0]))) ∧
    (s.track.index = .dwell →
      exec .syntheticIndexDone s =
        .next (((later.setTrack { s.track with steps := steps }).setTrackStatus
          (s.trackStatus.post .indexSequence)).setLink (answered [0, 0])))

/-- The stall timer expires (R6, R18, R21): INDEX_STALL is present, the index state stays, and the timer does not run. Without a
running timer the expiry cannot occur (log entry 2). HOLD-RELEASE (R20, R21): the latching causes leave, the live causes stay,
and the reply carries the set that is left. A track event that is posted, here and at every other command, joins the changed set, and
a notice becomes owed exactly when the event is enabled and the set holds no enabled member (R158, R159). -/
def Obligations.CausesJoinAndLeave : Prop :=
  ∀ s : State,
    (s.track.stallTimer = none → exec .stallExpiry s = .next s) ∧
    (∀ due, s.track.stallTimer = some due →
      exec .stallExpiry s =
        .next ((((s.setNow (max s.now due)).setTrack { s.track with stallTimer := none }).setCauseSet
          (s.causes ||| 0x01)).setTrackStatus
            (if s.causes = 0 then s.trackStatus.post .holdChanged else s.trackStatus))) ∧
    (∀ (e : TrackEvent) (u : TrackStatus),
      let bit : Byte := match e with
        | .indexSequence => 0x01 | .noManifest => 0x02 | .gateMismatch => 0x04 | .gateCut => 0x08 | .holdChanged => 0x10
        | .manifestLow => 0x20
      u.post e =
        { u with
          changed := u.changed ||| bit
          owed := u.owed || decide (u.changed &&& u.enable = 0 ∧ bit &&& u.enable ≠ 0) }) ∧
    ∀ tag : Byte, s.takesNow →
      exec (.holdRelease tag) s =
        .next (((s.setCauseSet (s.causes &&& 0xC0)).setTrackStatus
          (if s.causes ≠ 0 ∧ s.causes &&& 0xC0 = 0 then s.trackStatus.post .holdChanged else s.trackStatus)).withReply
            0x95 tag [0, s.causes &&& 0xC0])

/-! ### Manifests, verdicts and line-hold (R20, R26, R28, R33 to R36) -/

/-- MANIFEST-POST (R26): refused QUEUE_FULL at 32 manifests; refused with the lane when the first lane that fails carries a code
that is not stored or that its format does not allow; otherwise the manifest joins the tail and the reply carries the count.
MANIFEST-FLUSH (R28): the queue is empty and the reply carries the number removed. A change of MANIFEST_LOW's presence posts it
(R30): present while the count is at or below the threshold, and never with the threshold OFF (Track.runsLow). -/
def Obligations.ManifestQueueFillsAndEmpties : Prop :=
  ∀ (s : State) (tag : Byte), s.takesNow →
    let crossing := fun track : Track =>
      if track.runsLow = s.track.runsLow then s.setTrack track
      else (s.setTrack track).setTrackStatus (s.trackStatus.post .manifestLow)
    exec (.manifestFlush tag) s =
      .next ((crossing { s.track with manifests := [] }).withReply 0x93 tag
        [0, BitVec.ofNat 8 s.track.manifests.length]) ∧
    ∀ codes : Lanes Byte,
      let passes := fun lane : Fin 8 => codes.get lane = 0 ∨
        ∃ f, s.library.format (codes.get lane).toNat = some f ∧ f.laneMask.getLsbD lane.val = true
      let unknown := fun lane : Fin 8 => codes.get lane ≠ 0 ∧ s.library.format (codes.get lane).toNat = none
      (32 ≤ s.track.manifests.length → exec (.manifestPost tag codes) s = .next (s.withReply 0x92 tag [11, 0, 0])) ∧
      (s.track.manifests.length < 32 → ∀ lane, ¬passes lane → (∀ l < lane, passes l) →
        (unknown lane →
          exec (.manifestPost tag codes) s = .next (s.withReply 0x92 tag [8, 0, BitVec.ofNat 8 lane.val])) ∧
        (¬unknown lane →
          exec (.manifestPost tag codes) s = .next (s.withReply 0x92 tag [10, 0, BitVec.ofNat 8 lane.val]))) ∧
      (s.track.manifests.length < 32 → (∀ lane, passes lane) →
        exec (.manifestPost tag codes) s =
          .next ((crossing { s.track with manifests := s.track.manifests ++ [codes.map BitVec.toNat] }).withReply 0x92 tag
            [0, BitVec.ofNat 8 (s.track.manifests.length + 1), 0]))

/-- VERDICT (R33 to R36): BAD_VALUE and NOT_FOUND change nothing; otherwise the packs of the named nest alone move. Before the
decision a named non-empty pack that is PENDING or GOOD becomes BAD with the reason number and gets VERDICT, an unnamed PENDING
one becomes GOOD, and the reply is OK; after it a named non-empty pack that is PENDING or GOOD becomes LATE-BAD, and the reply is
LATE. The reply carries the number of lanes that became BAD or LATE-BAD by the request. -/
def Obligations.VerdictJudgesNamedNest : Prop :=
  ∀ (s : State) (tag : Byte) (serial : Half) (mask reason : Byte), s.takesNow →
    (serial = 0 ∨ reason = 0 ∨ 15 < reason.toNat →
      exec (.verdict tag serial mask reason) s = .next (s.withReply 0x94 tag [3, 0])) ∧
    (serial ≠ 0 → 1 ≤ reason.toNat → reason.toNat ≤ 15 →
      (s.track.find serial.toNat = none →
        exec (.verdict tag serial mask reason) s = .next (s.withReply 0x94 tag [12, 0])) ∧
      (∀ p n, s.track.find serial.toNat = some (p, n) →
        let decided := s.gate.decided serial.toNat
        let turns := fun lane : Fin 8 =>
          mask.getLsbD lane.val && (n.packs.get lane).format != 0 &&
            ((n.packs.get lane).verdict == .pending || (n.packs.get lane).verdict == .good)
        ∃ t : State, exec (.verdict tag serial mask reason) s =
            .next (t.withReply 0x94 tag
              [if decided then 13 else 0, BitVec.ofNat 8 (allLanes.filter turns).length]) ∧
          t.setTrack s.track = s ∧ { t.track with slots := s.track.slots } = s.track ∧
          State.packsKept (fun named _ => named = serial.toNat) s t ∧
          ∃ n' : Nest, t.track.find serial.toNat = some (p, n') ∧ { n' with packs := n.packs } = n ∧
            ∀ lane : Fin 8,
              let old := n.packs.get lane
              let new := n'.packs.get lane
              let undecided := old.verdict = .pending ∨ old.verdict = .good
              (old.format = 0 → new = old) ∧
              (old.format ≠ 0 → decided = false →
                (mask.getLsbD lane.val = true → undecided →
                  new = { old with verdict := .bad reason.toNat, reasons := old.reasons ||| 1 }) ∧
                (mask.getLsbD lane.val = false → undecided → new = { old with verdict := .good }) ∧
                (¬undecided → new = old)) ∧
              (old.format ≠ 0 → decided = true →
                (mask.getLsbD lane.val = true → undecided → new = { old with verdict := .lateBad }) ∧
                (mask.getLsbD lane.val = false ∨ ¬undecided → new = old))))

/-! ### Head parameters, online and offline (R65 to R70) -/

/-- Every request that names a head refuses a head number above 15 BAD_VALUE before any other check (section 11.5), with a payload of
its size whose other bytes are 0 (R202): the head requests of chapter 4 by R65, STATUS-TAKE by R155, COUNT-READ by R132, COEFF-READ by
R177, COEFF-WRITE by R178, CYCLE-ONCE by R170 and INJECT by R168; COUNT-ZERO does so without the mark for all heads (R133). -/
def Obligations.HeadNumbersAbove15AreRefused : Prop :=
  ∀ (s : State) (tag b : Byte), s.takesNow → 16 ≤ b.toNat →
    let refused := fun (i : Instr) (kind : Byte) (size : Nat) =>
      exec i s = .next (s.withReply kind tag (3 :: List.replicate size 0))
    (∀ r, refused (.headSetup tag b r) 0x84 3) ∧ (∀ m g, refused (.headEnables tag b m g) 0x85 0) ∧
    refused (.headOnline tag b) 0xA0 1 ∧ refused (.headOffline tag b) 0xA1 0 ∧ refused (.headHalt tag b) 0xA2 0 ∧
    refused (.headCancel tag b) 0xA3 0 ∧ refused (.headClear tag b) 0xA4 1 ∧ refused (.headRelease tag b) 0xA5 1 ∧
    refused (.statusTake tag b) 0xA8 22 ∧ refused (.headQuery tag b) 0xAA 49 ∧ refused (.countRead tag b) 0xB1 15 ∧
    (∀ g : Byte, g.getLsbD 0 = false → refused (.countZero tag g b) 0xB2 0) ∧
    refused (.coeffRead tag b) 0xB8 10 ∧ (∀ c, refused (.coeffWrite tag b c) 0xB9 0) ∧
    (∀ r, refused (.cycleOnce tag b r) 0xC0 0) ∧ (∀ n, refused (.inject tag b n) 0xC1 1)

/-- HEAD-SETUP (R65): refused WRONG_STATE outside OFFLINE, BAD_VALUE for an item outside its range, CONFLICT for a binding that
another head holds; otherwise all thirteen parameters are replaced, the sample period and the band clamped, and the reply
carries those two as stored. -/
def Obligations.HeadSetupReplacesParameters : Prop :=
  ∀ (s : State) (tag b : Byte) (h : Fin 16) (r : HeadSetupReq), s.takesNow → b.toNat = h.val →
    let names := fun x : Option (Station × Fin 8) =>
      ∃ st lane, x = some (st, lane) ∧ st.code = r.station.toNat ∧ lane.val = r.lane.toNat
    let inRange := r.station.toNat ≤ 2 ∧ (r.station = 0 ∨ r.lane.toNat ≤ 7) ∧ r.source.toNat ≤ 2 ∧ r.loopMode.toNat ≤ 2 ∧
      r.startDelay.toNat ≤ 2000 ∧ 500 ≤ r.ceiling.toNat ∧ r.ceiling.toNat ≤ 3000 ∧ r.standby.toNat ≤ r.ceiling.toNat ∧
      r.settle.toNat ≤ 5000 ∧ 100 ≤ r.openLimit.toNat ∧ r.openLimit.toNat ≤ 3000 ∧
      ¬(r.station = 1 ∧ s.track.config.form = none)
    let taken := ∃ h' ≠ h, names (s.head h').params.binding
    let offline := (s.head h).state = .offline
    (¬offline → exec (.headSetup tag b r) s = .next (s.withReply 0x84 tag [5, 0, 0, 0])) ∧
    (offline → ¬inRange → exec (.headSetup tag b r) s = .next (s.withReply 0x84 tag [3, 0, 0, 0])) ∧
    (offline → inRange → taken → exec (.headSetup tag b r) s = .next (s.withReply 0x84 tag [16, 0, 0, 0])) ∧
    (offline → inRange → ¬taken →
      ∃ p : HeadParams, exec (.headSetup tag b r) s =
        .next ((s.putHead h { s.head h with params := p }).withReply 0x84 tag
          [0, BitVec.ofNat 8 p.samplePeriod, BitVec.ofNat 8 (p.band / 256), BitVec.ofNat 8 p.band]) ∧
        (r.station = 0 → p.binding = none) ∧ (r.station ≠ 0 → names p.binding) ∧
        p.source.code = r.source.toNat ∧ p.startDelay = r.startDelay.toNat ∧
        p.samplePeriod = max 5 (min 100 r.samplePeriod.toNat) ∧ p.standby = r.standby.toNat ∧
        p.ceiling = r.ceiling.toNat ∧ p.band = max 5 (min 300 r.band.toNat) ∧ p.settle = r.settle.toNat ∧
        p.lowExtended = r.flags.getLsbD 0 ∧ p.autoReject = r.flags.getLsbD 1 ∧ p.holdOnSafe = r.flags.getLsbD 2 ∧
        p.openLimit = r.openLimit.toNat ∧ p.loopMode.code = r.loopMode.toNat)

/-- HEAD-ENABLES (R67, R154): in every state the auto-reject flag and the enable mask are replaced; with the pending status empty
and an enabled member in the changed set, alert content becomes pending and a notice owed. INJECT (R168): a count of 0
and an OFFLINE head are refused; otherwise the injection count is the one carried and the reply carries the one it replaced. -/
def Obligations.EnablesAndInjectSetFields : Prop :=
  ∀ (s : State) (tag b mask flags count : Byte) (h : Fin 16), s.takesNow → b.toNat = h.val →
    let x : Head := { s.head h with params := { (s.head h).params with autoReject := flags.getLsbD 0 } }
    let y : HeadStatus := { s.status h with enable := mask &&& 0x3F }
    let alerts := (s.status h).pending = .empty ∧ (s.status h).changed &&& mask &&& 0x3F ≠ 0
    (alerts → exec (.headEnables tag b mask flags) s =
      .next ((s.withHead h x { y with pending := .alert, owed := true }).withReply 0x85 tag [0])) ∧
    (¬alerts → exec (.headEnables tag b mask flags) s = .next ((s.withHead h x y).withReply 0x85 tag [0])) ∧
    (count = 0 → exec (.inject tag b count) s = .next (s.withReply 0xC1 tag [3, 0])) ∧
    (count ≠ 0 → (s.head h).state = .offline → exec (.inject tag b count) s = .next (s.withReply 0xC1 tag [5, 0])) ∧
    (count ≠ 0 → (s.head h).state ≠ .offline →
      exec (.inject tag b count) s =
        .next ((s.putHead h { s.head h with monitor := { (s.head h).monitor with inject := count.toNat } }).withReply
          0xC1 tag [0, BitVec.ofNat 8 (s.head h).monitor.inject]))

/-- HEAD-ONLINE (R68, R110, R122): refused WRONG_STATE outside OFFLINE and while the head's record is being written, NOT_LOADED
while the store is LOADING. Otherwise sampling starts with a fresh monitor; with the platen OPEN the head is in HEATING (READY
with a standby temperature of 0), and otherwise a release phase toward HEATING begins, confirmed at once where the levels say
so (R84). The reply carries the state entered, taken as the one at the end of the act (DEDUCED, log entry 14): READY where the
standby temperature is 0, and HEATING or READY where the phase is confirmed at once. -/
def Obligations.HeadOnlineStartsSampling : Prop :=
  ∀ (s : State) (tag b : Byte) (h : Fin 16), s.takesNow → b.toNat = h.val →
    let x := s.head h
    let loading := ∃ l, s.store.op = .loading l
    let writing := ∃ c, s.store.op = .writing h c
    let offline := x.state = .offline
    (¬offline ∨ (writing ∧ ¬loading) → exec (.headOnline tag b) s = .next (s.withReply 0xA0 tag [5, 0])) ∧
    (offline → loading → exec (.headOnline tag b) s = .next (s.withReply 0xA0 tag [15, 0])) ∧
    (offline → ¬loading → ¬writing →
      ∃ y : Head, exec (.headOnline tag b) s =
        .next ((s.putHead h y).withReply 0xA0 tag [0, BitVec.ofNat 8 y.state.code]) ∧
        y.monitor = { sampleTimer := some (s.now + x.params.samplePeriod), lowRun := 0, nonLowRun := 0, highRun := 0,
                      nonHighRun := 0, live := x.monitor.live &&& 0xF0, ready := 0, inject := x.monitor.inject } ∧
        y.params = x.params ∧ y.coeffs = x.coeffs ∧ y.counters = x.counters ∧ y.held = x.held ∧
        (x.platen = .opened → y.restsIn .heating ∧ y.platen = .opened) ∧
        (x.platen ≠ .opened → s.releaseWaits h → y.restsIn .releasing ∧ y.platen = x.platen.retract ∧
          y.release = some ⟨s.now + x.params.openLimit, .heating, false⟩ ∧ y.closeOut = false ∧ y.auxOut = false ∧
          y.virtual = x.virtualAtOpening s.now) ∧ y.timesChange s.now x ∧
        (x.platen ≠ .opened → ¬s.releaseWaits h → y.restsIn .heating ∧ y.platen = .opened ∧ y.release = none))

/-- HEAD-OFFLINE (R70, R122): in OFFLINE it changes nothing. Otherwise the head is OFFLINE with setpoints, codes and outputs at 0,
sampling stopped, the monitored conditions dropped without a condition change, and its pending status kept; a cycle ends HALTED
with its PRIMARY, its station result and its reject reasons (R82, R83), without a release phase. -/
def Obligations.HeadOfflineStopsHead : Prop :=
  ∀ (s : State) (tag b : Byte) (h : Fin 16), s.takesNow → b.toNat = h.val →
    let x := s.head h
    (x.state = .offline → exec (.headOffline tag b) s = .next (s.withReply 0xA1 tag [0])) ∧
    (x.state ≠ .offline →
      ∃ t, exec (.headOffline tag b) s = .next (t.withReply 0xA1 tag [0]) ∧ s.onlyHead h t ∧
        (t.head h).state = .offline ∧ (t.head h).cycleGone ∧ (t.head h).release = none ∧ (t.head h).packRef = none ∧
        (t.head h).tempSet = 0 ∧ (t.head h).presSet = 0 ∧ (t.head h).heaterCode = 0 ∧ (t.head h).pressureCode = 0 ∧
        (t.head h).virtual = none ∧ (t.head h).platen = x.platen.retract ∧
        (t.head h).monitor = { sampleTimer := none, lowRun := 0, nonLowRun := 0, highRun := 0, nonHighRun := 0,
                               live := x.monitor.live &&& 0xF0, ready := x.monitor.ready, inject := 0 } ∧
        (t.head h).params = x.params ∧ (t.head h).coeffs = x.coeffs ∧ (t.head h).held = x.held ∧
        (x.cycle = none → (t.head h).counters = x.counters ∧ t.status h = s.status h ∧ t.track = s.track) ∧
        (x.cycle ≠ none →
          (t.head h).counters = { x.counters with failed := min 65535 (x.counters.failed + 1) } ∧
          t.status h = (s.status h).post (.primary (x.endedRecord h .halted)) ∧ s.endWritten h .halted x t))

/-! ### The ends of a cycle (R77, R83, R88 to R91) -/

/-- HEAD-HALT, HEAD-CANCEL, the start limit and the CLOSE limit (R74, R77, R83, R89, R90): refused WRONG_STATE outside the states
that take them; otherwise the cycle ends abnormally toward READY, with the station result and the reject reasons of R82 in its pack
and no status posted for CANCELLED.
The clock stands at the expiry at least: the model's choice (log entry 2). -/
def Obligations.AbnormalEndsReturnHead : Prop :=
  ∀ (s : State) (tag b : Byte) (h : Fin 16), b.toNat = h.val →
    let state := (s.head h).state
    (s.takesNow →
      (state ≠ .pending → state ≠ .running → exec (.headHalt tag b) s = .next (s.withReply 0xA2 tag [5])) ∧
      (state ≠ .pending → exec (.headCancel tag b) s = .next (s.withReply 0xA3 tag [5])) ∧
      (state = .pending ∨ state = .running →
        ∃ t, exec (.headHalt tag b) s = .next (t.withReply 0xA2 tag [0]) ∧
          s.endedAbnormally h .halted .ready true t) ∧
      (state = .pending →
        ∃ t, exec (.headCancel tag b) s = .next (t.withReply 0xA3 tag [0]) ∧
          s.endedAbnormally h .cancelled .ready false t ∧ t.status h = s.status h)) ∧
    (∀ due, state = .pending → (s.head h).params.source = .line → (s.head h).startTimer = some due →
      ∃ t, exec (.startLimitExpiry h) s = .next t ∧
        (s.setNow (max s.now due)).endedAbnormally h .startTimeout .ready true t) ∧
    (∀ r g, state = .running → (s.head h).run? = some r → r.segments[r.current]? = some g → g.kind = .close →
      ∃ t, exec (.closeLimitExpiry h) s = .next t ∧
        (s.setNow (max s.now r.segDue)).endedAbnormally h .closeLate .ready true t)

/-- The limit of an OPEN segment and the open limit of a release phase (R79, R85, R86): PLATEN_STUCK is present and the head is
in SAFE with its setpoints at 0; the cycle has ended OPEN_LATE toward SAFE, or the phase has ended unconfirmed.
The clock stands at the expiry at least: the model's choice (log entry 2). -/
def Obligations.OpenLimitsPostPlatenStuck : Prop :=
  ∀ (s : State) (h : Fin 16),
    (∀ r g, (s.head h).state = .running → (s.head h).run? = some r → r.segments[r.current]? = some g → g.kind = .openUp →
      ∃ t, exec (.openLimitExpiry h) s = .next t ∧ t.causes.getLsbD 2 = true ∧
        (s.setNow (max s.now r.segDue)).endedAbnormally h .openLate .safe true t) ∧
    (∀ r, (s.head h).release = some r →
      ∃ t, exec (.releaseOpenLimitExpiry h) s = .next t ∧ t.causes.getLsbD 2 = true ∧
        (s.setNow (max s.now r.due)).onlyHeadPosting 0x04 h t ∧ t.track = s.track ∧ t.status h = s.status h ∧
        (t.head h).restsIn .safe ∧ (t.head h).release = none ∧ (t.head h).packRef = none ∧
        (t.head h).platen = (s.head h).platen ∧ (t.head h).params = (s.head h).params ∧
        (t.head h).counters = (s.head h).counters)

/-- HEAD-CLEAR (R91, R157): refused WRONG_STATE in OFFLINE. Otherwise the status record is discarded but for its enable mask, the
injection count is 0, and a head in SAFE stays there; a cycle ends HALTED toward HEATING without a status, a release phase in
progress goes on toward HEATING, and without either the head goes to HEATING or begins a phase toward it. The reply carries the
state entered, taken as the one at the end of the act (DEDUCED, log entry 14). -/
def Obligations.HeadClearDiscardsStatus : Prop :=
  ∀ (s : State) (tag b : Byte) (h : Fin 16), s.takesNow → b.toNat = h.val →
    let x := s.head h
    (x.state = .offline → exec (.headClear tag b) s = .next (s.withReply 0xA4 tag [5, 0])) ∧
    (x.state ≠ .offline →
      ∃ t, exec (.headClear tag b) s = .next (t.withReply 0xA4 tag [0, BitVec.ofNat 8 (t.head h).state.code]) ∧
        s.onlyHead h t ∧
        t.status h = ⟨.empty, none, 0, (s.status h).enable, false⟩ ∧
        (t.head h).monitor.inject = 0 ∧ (t.head h).monitor.live = x.monitor.live ∧
        (x.cycle ≠ none → s.endedAbnormally h .halted .heating false t) ∧
        (x.cycle = none → x.state = .safe →
          t.head h = { x with monitor := { x.monitor with inject := 0 } } ∧ t.track = s.track ∧ t.causes = s.causes) ∧
        (x.cycle = none → x.state ≠ .safe → ∀ r, x.release = some r →
          (t.head h).release = some { r with dest := .heating, secondaryOwed := false } ∧
          (t.head h).state = x.state ∧ (t.head h).tempSet = x.tempSet ∧ t.track = s.track) ∧
        (x.cycle = none → x.state ≠ .safe → x.release = none →
          t.track = s.track ∧
          (x.platen = .opened → (t.head h).restsIn .heating) ∧
          (x.platen ≠ .opened → s.releaseWaits h → (t.head h).restsIn .releasing ∧
            (t.head h).release = some ⟨s.now + x.params.openLimit, .heating, false⟩ ∧
            (t.head h).virtual = x.virtualAtOpening s.now)))

/-- HEAD-RELEASE (R88): refused WRONG_STATE outside SAFE and while HIGH or SENSOR is live. Otherwise the head leaves SAFE: a release
phase in progress goes on toward HEATING; without one the head is in HEATING, or a phase toward it begins. The reply carries the
state entered, taken as the one at the end of the act (DEDUCED, log entry 14). -/
def Obligations.HeadReleaseLeavesSafe : Prop :=
  ∀ (s : State) (tag b : Byte) (h : Fin 16), s.takesNow → b.toNat = h.val →
    let x := s.head h
    let refused := x.state ≠ .safe ∨ x.monitor.live.getLsbD 1 = true ∨ x.monitor.live.getLsbD 2 = true
    (refused → exec (.headRelease tag b) s = .next (s.withReply 0xA5 tag [5, 0])) ∧
    (¬refused →
      ∃ t, exec (.headRelease tag b) s = .next (t.withReply 0xA5 tag [0, BitVec.ofNat 8 (t.head h).state.code]) ∧
        s.onlyHead h t ∧ t.track = s.track ∧ t.status h = s.status h ∧ (t.head h).params = x.params ∧
        ((∀ h' ≠ h, ¬((s.head h').params.holdOnSafe = true ∧ (s.head h').state = .safe)) → t.causes.getLsbD 6 = false) ∧
        (∀ r, x.release = some r → (t.head h).restsIn .releasing ∧ (t.head h).platen = x.platen ∧
          (t.head h).release = some { r with dest := .heating }) ∧
        (x.release = none → x.platen = .opened → (t.head h).restsIn .heating) ∧
        (x.release = none → x.platen ≠ .opened → s.releaseWaits h → (t.head h).restsIn .releasing ∧
          (t.head h).platen = x.platen.retract ∧ (t.head h).virtual = x.virtualAtOpening s.now ∧
          (t.head h).release = some ⟨s.now + x.params.openLimit, .heating, false⟩))

/-! ### Starts, segments and edges (R71, R74 to R81, R99, R165) -/

/-- The start of a pending pack cycle, at an edge of its start line or at the expiry of its start delay (R74, R75); an edge at a
head that does not wait for it is not acted on.
The clock stands at the expiry at least: the model's choice (log entry 2).
The output-clamped flag is set where a code is computed: DEDUCED (log entry 13). -/
def Obligations.PendingCycleStarts : Prop :=
  ∀ (s : State) (h : Fin 16),
    (¬((s.head h).state = .pending ∧ (s.head h).params.source = .line) → exec (.startLineEdge h) s = .next s) ∧
    ∀ ref p, (s.head h).state = .pending → (s.head h).packRef = some ref → s.track.packOf ref = some p →
      ((s.head h).params.source = .line →
        ∃ t, exec (.startLineEdge h) s = .next t ∧ s.pendingStarts h ref p t) ∧
      (∀ due, (s.head h).params.source = .delayed → (s.head h).startTimer = some due →
        ∃ t, exec (.startDelayExpiry h) s = .next t ∧ (s.setNow (max s.now due)).pendingStarts h ref p t)

/-- An edge of a platen sensor sets the sensor's level; a head that is not in DRY takes the edge (R71), a head in DRY does not
(R165). The virtual-edge timer gives its edge, which is taken as a physical one would be, and is idle (R165), idle before the
consequences of the edge (DEDUCED, log entry 21). The closure time of a
CLOSED edge is the milliseconds since the start of the CLOSE segment, and at most its limit (DEDUCED, log entry 9).
The clock stands at the expiry at least: the model's choice (log entry 2).
The output-clamped flag is set where a code is computed: DEDUCED (log entry 13). -/
def Obligations.PlatenEdgesAreTaken : Prop :=
  ∀ (s : State) (h : Fin 16) (other : Bool),
    (∀ due e, (s.head h).virtual = some (e, due) →
      let idle := (s.setNow (max s.now due)).putHead h { s.head h with virtual := none }
      ∃ t, exec (.virtualEdgeExpiry h) s = .next t ∧
        (e = .closed → idle.closedEdgeTaken h t) ∧ (e = .opened → idle.openEdgeTaken h t)) ∧
    let heard := fun closedLevel openLevel : Bool =>
      s.setLines
        { s.lines with
          heads := s.lines.heads.set h ⟨(s.lines.heads.get h).reading, closedLevel, openLevel⟩ }
    ((s.head h).params.loopMode = .dry →
      exec (.platenClosedEdge h other) s = .next (heard true other) ∧
      exec (.platenOpenEdge h other) s = .next (heard other true)) ∧
    ((s.head h).params.loopMode ≠ .dry →
      (∃ t, exec (.platenClosedEdge h other) s = .next t ∧ (heard true other).closedEdgeTaken h t) ∧
      (∃ t, exec (.platenOpenEdge h other) s = .next t ∧ (heard other true).openEdgeTaken h t))

/-- The duration of a HOLD or a RAMP expires (R78, R80, R81, R100): a ramp reaches its targets, and the next segment begins, with the
INTERMEDIATE of its NOTIFY, or the cycle completes with the end reason, the station result and the reject reasons of R81 and R82; a
segment of duration 0 passes in the same act (R76).
The clock stands at the expiry at least: the model's choice (log entry 2).
The output-clamped flag is set where a code is computed: DEDUCED (log entry 13). -/
def Obligations.SegmentExpiryGoesOn : Prop :=
  ∀ (s : State) (h : Fin 16) (r : Run) (g : Segment),
    (s.head h).plainSegment .hold r g ∨ (s.head h).plainSegment .ramp r g →
      let now := max s.now r.segDue
      ∃ t, exec (.segmentExpiry h) s = .next t ∧
        (s.setNow now).goesOn h (r.current + 1) ((s.head h).atRampEnd now).segmentEnded t ∧
        ∀ p g', (s.head h).ramp = some p → r.segments[r.current + 1]? = some g' → g'.instant = false →
          (g'.kind = .ramp ∨ g'.temperature = none → ∀ s0 v, p.temperature = some (s0, v) → (t.head h).tempSet = v) ∧
          (g'.kind = .ramp ∨ (g'.kind = .hold ∧ g'.pressure = none) →
            ∀ s0 v, p.pressure = some (s0, v) → (t.head h).presSet = v)

/-- The end of the last segment that carries DOSE (R80, R126 to R128): the reported dose is judged against the window. Below
it, with reseal allowed, not yet used and a RESEAL_POINT in the profile, no verdict is recorded and the cycle goes on at the
RESEAL_POINT with the accumulator as it stands and one more reseal counted. In every other case the verdict is recorded, DOSE_LOW
below the window, DOSE_HIGH above it and OK within it or without one, and the cycle goes on at the next segment or completes with
the end reason of R81. Each NOTIFY of the second pass is posted again (R80).
The clock stands at the expiry at least: the model's choice (log entry 2).
The output-clamped flag is set where a code is computed: DEDUCED (log entry 13). -/
def Obligations.LastDoseSegmentIsJudged : Prop :=
  ∀ (s : State) (h : Fin 16) (r : Run) (g : Segment), (s.head h).lastDoseHold r g →
    let later := s.setNow (max s.now r.segDue)
    let x := s.head h
    let ended := (x.atRampEnd later.now).segmentEnded
    let dose := min 65535 (r.dose / 10000)
    let low := ∃ lo hi, r.window = some (lo, hi) ∧ dose < lo
    let high := ∃ lo hi, r.window = some (lo, hi) ∧ lo ≤ dose ∧ hi < dose
    let reseals := low ∧ r.resealAllowed = true ∧ r.resealUsed = false ∧ ∃ g' ∈ r.segments, g'.resealPoint = true
    (reseals → ∀ p g', r.resealsAt p g' →
      ∃ t, exec (.segmentExpiry h) s = .next t ∧
        later.goesOn h p
          { ended.updateRun (fun r => { r with resealUsed := true }) with
            counters := { x.counters with reseals := min 65535 (x.counters.reseals + 1) } } t) ∧
    (¬reseals → ∀ v, (low → v = .low) → (high → v = .high) → (¬low → ¬high → v = .ok) →
      ∃ t, exec (.segmentExpiry h) s = .next t ∧
        later.goesOn h (r.current + 1) (ended.updateRun fun r => { r with verdict := some v }) t)

/-- A ramp step of a RUNNING head (R99); only such a head has a ramp (StepKeepsHeadsCoherent). The step completes: each
output with a target stands at its start value plus the whole part of (T − S0) × e / D, truncated toward zero, which lies between the
start and the target; the next step is 10 ms on. A change of the temperature setpoint is timed (R101), the port presents the corrected
code of a setpoint that changed (R105), and a code that meets the limit sets the output-clamped flag of the cycle (R103; log entry 13).
The clock stands at the expiry at least: the model's choice (log entry 2). -/
def Obligations.RampStepMovesSetpoints : Prop :=
  ∀ (s : State) (h : Fin 16) (p : Ramp), (s.head h).state = .running → (s.head h).ramp = some p → p.next < p.duration →
    let between := fun s0 v : Nat =>
      if s0 ≤ v then s0 + (v - s0) * p.next / p.duration else s0 - (s0 - v) * p.next / p.duration
    ∃ x : Head, exec (.rampStep h) s = .next ((s.setNow (max s.now (p.start + p.next))).putHead h x) ∧
      x.ramp = some { p with next := p.next + 10 } ∧ x.state = (s.head h).state ∧ x.params = (s.head h).params ∧
      x.platen = (s.head h).platen ∧ x.closeOut = (s.head h).closeOut ∧ x.monitor = (s.head h).monitor ∧
      x.counters = (s.head h).counters ∧ x.coeffs = (s.head h).coeffs ∧ x.virtual = (s.head h).virtual ∧
      x.timesChange (max s.now (p.start + p.next)) (s.head h) ∧
      x.cycle = (s.head h).cycleClamped x.tempSet x.presSet ∧
      x.heaterCode = (s.head h).codeAt .heater (s.head h).tempSet x.tempSet (s.head h).heaterCode ∧
      x.pressureCode = (s.head h).codeAt .pressure (s.head h).presSet x.presSet (s.head h).pressureCode ∧
      (∀ s0 v, p.temperature = some (s0, v) → x.tempSet = between s0 v ∧ min s0 v ≤ x.tempSet ∧ x.tempSet ≤ max s0 v) ∧
      (∀ s0 v, p.pressure = some (s0, v) → x.presSet = between s0 v ∧ min s0 v ≤ x.presSet ∧ x.presSet ≤ max s0 v) ∧
      (p.temperature = none → x.tempSet = (s.head h).tempSet ∧ x.heaterCode = (s.head h).heaterCode) ∧
      (p.pressure = none → x.presSet = (s.head h).presSet ∧ x.pressureCode = (s.head h).pressureCode)

/-- CYCLE-ONCE (R170): the checks in their order; when accepted, the cycle starts in the same act with the profile's copy, base 0,
cap 4000, no reseal, the request's window or none, and no pack reference.
The output-clamped flag is set where a code is computed: DEDUCED (log entry 13). -/
def Obligations.CycleOnceStarts : Prop :=
  ∀ (s : State) (tag b : Byte) (h : Fin 16) (q : CycleOnceReq), s.takesNow → b.toNat = h.val →
    let x := s.head h
    let id := q.profile.toNat
    let good := 1 ≤ id ∧ id ≤ 24 ∧ (q.flags.getLsbD 0 = true → q.windowMin.toNat ≤ q.windowMax.toNat)
    let ready := x.state = .ready ∧ x.params.loopMode ≠ .monitor
    (¬good → exec (.cycleOnce tag b q) s = .next (s.withReply 0xC0 tag [3])) ∧
    (good → s.track.mode = .run → exec (.cycleOnce tag b q) s = .next (s.withReply 0xC0 tag [4])) ∧
    (good → s.track.mode ≠ .run → ¬ready → exec (.cycleOnce tag b q) s = .next (s.withReply 0xC0 tag [5])) ∧
    (good → s.track.mode ≠ .run → ready → s.library.profile id = none →
      exec (.cycleOnce tag b q) s = .next (s.withReply 0xC0 tag [9])) ∧
    (good → s.track.mode ≠ .run → ready → ∀ gs, s.library.profile id = some gs →
      ∃ t : State, exec (.cycleOnce tag b q) s = .next (t.withReply 0xC0 tag [0]) ∧
        s.goesOn h 0
          (x.started .once none
            (.atStart id gs 0 4000 (if q.flags.getLsbD 0 then some (q.windowMin.toNat, q.windowMax.toNat) else none) false)) t ∧
        t.track = s.track)

/-! ### Head status and track status (R151 to R160) -/

/-- A solicited event at a status record (R151, R152): into an empty pending status it goes alone with a notice owed; into content,
pending or held behind an alert, it merges: kinds and end reasons join, the first cycle record stays, the last notify segment is
the newest, the count goes up to 255 at most. -/
def Obligations.SolicitedEventsMerge : Prop :=
  ∀ (e : SolicitedEvent) (t : HeadStatus),
    let bit : Byte := match e with | .primary _ => 1 | .secondary => 2 | .intermediate _ => 4
    let reasons : BitVec 16 := match e with | .primary r => 1#16 <<< (r.result.reason.code - 1) | .secondary | .intermediate _ => 0
    let record : Option CycleRecord := match e with | .primary r => some r | .secondary | .intermediate _ => none
    let segment : Option Nat := match e with | .intermediate n => some n | .primary _ | .secondary => none
    let alone : Solicited := ⟨bit, reasons, record, segment, 1⟩
    let merged := fun c : Solicited =>
      (⟨c.kinds ||| bit, c.reasons ||| reasons, if c.first = none then record else c.first,
        if segment = none then c.notify else segment, min 255 (c.merged + 1)⟩ : Solicited)
    (t.pending = .empty → t.post e = { t with pending := .solicited alone, owed := true }) ∧
    (∀ c, t.pending = .solicited c → t.post e = { t with pending := .solicited (merged c) }) ∧
    (t.pending = .alert → t.held = none → t.post e = { t with held := some alone }) ∧
    (∀ c, t.pending = .alert → t.held = some c → t.post e = { t with held := some (merged c) })

/-- STATUS-TAKE (R155): the reply carries the head, the content code, the live set and the changed set as they stand, and solicited
content whole, every byte of it as R197 lays it out and 0 where there is none; the pending
status is emptied and, after alert content, the changed set; held content moves up with a notice owed, and otherwise the alert
test is made. -/
def Obligations.StatusTakeDrainsStatus : Prop :=
  ∀ (s : State) (tag b : Byte) (h : Fin 16), s.takesNow → b.toNat = h.val →
    let y := s.status h
    let changed : Byte := if y.pending = .alert then 0 else y.changed
    let code : Byte := match y.pending with | .empty => 0 | .solicited _ => 1 | .alert => 2
    let two := fun n : Nat => [BitVec.ofNat 8 (n / 256), BitVec.ofNat 8 n]
    let flags := fun r : StationResult =>
      (if r.resealed then 1 else 0) + (if r.ceilingClamped then 2 else 0) + (if r.outputClamped then 4 else 0) +
        (if r.lowSeen then 8 else 0) + (if r.tainted then 16 else 0) + (if r.dose = none then 0 else 32) +
        (if r.closure = none then 0 else 64)
    let first : Option CycleRecord → List Byte := fun o =>
      match o with
      | none => List.replicate 10 0
      | some r =>
        [match r.origin with | .pack => 0 | .once => 1] ++ two (r.serial.getD 0) ++
          [match r.lane with | none => 0xFF | some l => BitVec.ofNat 8 l.val, BitVec.ofNat 8 r.result.reason.code,
            BitVec.ofNat 8 (flags r.result)] ++ two (r.result.dose.getD 0) ++ two (r.result.closure.getD 0)
    let content : List Byte :=
      match y.pending with
      | .empty => List.replicate 16 0
      | .alert => List.replicate 16 0
      | .solicited c =>
        [c.kinds, (if c.first = none then 0 else 1) ||| (if c.notify = none then 0 else 2), BitVec.ofNat 8 c.merged] ++
          two c.reasons.toNat ++ [BitVec.ofNat 8 (c.notify.getD 0)] ++ first c.first
    ∃ u : HeadStatus,
      exec (.statusTake tag b) s =
        .next ((s.putStatus h u).withReply 0xA8 tag
          ([0, b, code, (s.head h).monitor.live, y.changed] ++ content ++ [0, 0])) ∧
      u.enable = y.enable ∧ u.changed = changed ∧ u.held = none ∧
      (∀ c, y.held = some c → u.pending = .solicited c ∧ u.owed = true) ∧
      (y.held = none → changed &&& y.enable ≠ 0 → u.pending = .alert ∧ u.owed = true) ∧
      (y.held = none → changed &&& y.enable = 0 → u.pending = .empty ∧ u.owed = false)

/-- TRACK-STATUS-TAKE (R160): the reply carries the changed set and the live set as they stand; the changed set is emptied and the
owed flag cleared; with the mark present the mask carried replaces the enable mask, as far as it names members (R198). Of the live
set, bit 0 is MANIFEST_LOW: the count at or below the threshold, and never with the threshold OFF (R30). -/
def Obligations.TrackStatusTakeEmptiesSet : Prop :=
  ∀ (s : State) (tag flags mask : Byte), s.takesNow →
    let live : Byte :=
      (if s.track.runsLow then 1 else 0) ||| (if s.causes = 0 then 0 else 2) ||| (if s.causes.getLsbD 7 then 4 else 0)
    exec (.trackStatusTake tag flags mask) s =
      .next ((s.setTrackStatus ⟨0, if flags.getLsbD 0 then mask &&& 0x3F else s.trackStatus.enable, false⟩).withReply 0xA9 tag
        [0, s.trackStatus.changed, live])

/-! ### Queries and counters (R16, R17, R94, R131 to R133, R181) -/

/-- The queries change nothing but their reply slot, and their replies carry every byte that R202 lays out: TRACK-QUERY (R16),
HEAD-QUERY (R94), NEST-QUERY with the nest record of R196 (R17), and STORE-QUERY in every store state (R181): the state, the records
judged while LOADING, the head concerned while READING or WRITING, and the last-write head. The codes are those of R200 and R203.
The lane of a binding of NONE is sent as 0: the model's choice (log entry 11). -/
def Obligations.QueriesOnlyReply : Prop :=
  ([TrackMode.halted, .run, .test].map TrackMode.code = [0, 1, 2] ∧
   [IndexState.dwell, .moving].map IndexState.code = [0, 1] ∧
   [HeadState.offline, .releasing, .heating, .ready, .pending, .running, .safe].map HeadState.code = [0, 1, 2, 3, 4, 5, 6] ∧
   [PlatenState.unknown, .opened, .closing, .closed, .opening].map PlatenState.code = [0, 1, 2, 3, 4] ∧
   [Station.form, .sealing].map Station.code = [1, 2] ∧
   [StartSource.index, .delayed, .line].map StartSource.code = [0, 1, 2] ∧
   [LoopMode.normal, .dry, .monitor].map LoopMode.code = [0, 1, 2] ∧
   [EndReason.complete, .completeResealed, .doseLow, .doseHigh, .closeLate, .openLate, .overrun, .halted, .safeHigh,
       .safeSensor, .platenFault, .startTimeout, .cancelled, .skipped].map EndReason.code =
     [1, 2, 3, 4, 6, 7, 8, 9, 10, 11, 12, 13, 14, 15]) ∧
  ∀ (s : State) (tag : Byte), s.takesNow →
    exec (.trackQuery tag) s = .next (s.withReply 0xAB tag (0 :: s.trackLayout)) ∧
    (∀ (b : Byte) (h : Fin 16), b.toNat = h.val →
      exec (.headQuery tag b) s = .next (s.withReply 0xAA tag (0 :: (s.head h).layout h))) ∧
    (exec (.nestQuery tag 0) s = .next (s.withReply 0xAC tag (3 :: List.replicate 194 0))) ∧
    (∀ serial : Half, serial ≠ 0 →
      (s.track.find serial.toNat = none →
        exec (.nestQuery tag serial) s = .next (s.withReply 0xAC tag (12 :: List.replicate 194 0))) ∧
      (∀ p n, s.track.find serial.toNat = some (p, n) →
        exec (.nestQuery tag serial) s = .next (s.withReply 0xAC tag ([0, BitVec.ofNat 8 p] ++ n.layout)))) ∧
    (let last : Byte := if s.store.lastWrite = none then 0 else 2
     let lastHead : Byte := match s.store.lastWrite with | none => 0 | some w => BitVec.ofNat 8 w.val
     let answers := fun content : List Byte => exec (.storeQuery tag) s = .next (s.withReply 0xBA tag (0 :: content))
     (∀ l, s.store.op = .loading l → answers [0, BitVec.ofNat 8 l.length, last, 0, lastHead]) ∧
     (s.store.op = .idle → answers [1, 0, last, 0, lastHead]) ∧
     (∀ h : Fin 16, s.store.op = .reading h → answers [2, 0, 1 ||| last, BitVec.ofNat 8 h.val, lastHead]) ∧
     ∀ (h : Fin 16) c, s.store.op = .writing h c → answers [3, 0, 1 ||| last, BitVec.ofNat 8 h.val, lastHead])

/-- COUNT-SNAPSHOT (R131): the live counters of every head become its held counters, in one act; nothing else moves. COUNT-READ
(R132): the six held counters of the head, and nothing changes; after either reset they are all 0. COUNT-ZERO (R133): the live
counters of the named head, or of every head, return to 0; where the deviations stood at 65535 COUNT_FULL clears, with a condition
change; the held counters stay, and a running cycle goes on. -/
def Obligations.CountersAreHeldReadAndZeroed : Prop :=
  ((∀ (s : State) (tag : Byte), s.takesNow →
     ∃ t : State, exec (.countSnapshot tag) s = .next (t.withReply 0xB0 tag [0]) ∧ { t with heads := s.heads } = s ∧
       ∀ h, t.head h = { s.head h with held := (s.head h).counters }) ∧
   (∀ (s : State) (tag b : Byte), s.takesNow →
     (16 ≤ b.toNat → exec (.countRead tag b) s = .next (s.withReply 0xB1 tag (3 :: List.replicate 15 0))) ∧
     ∀ h : Fin 16, b.toNat = h.val →
       let c := (s.head h).held
       let two := fun n : Nat => [BitVec.ofNat 8 (n / 256), BitVec.ofNat 8 n]
       exec (.countRead tag b) s =
         .next (s.withReply 0xB1 tag
           ([0, b] ++ two c.deviations ++ two c.sensorFaults ++ two (c.started / 65536) ++ two c.started ++
             two c.failed ++ two c.reseals ++ two c.longest))) ∧
   (∀ h, (State.reset.head h).held = {}) ∧
   (∀ (s : State) (o c : BitVec 16), ∃ t, exec (.deviceReset o c) s = .next t ∧ ∀ h, (t.head h).held = {}) ∧
   ∀ (s : State) (tag : Byte), s.takesNow → ∃ t, exec (.partReset tag) s = .next t ∧ ∀ h, (t.head h).held = {}) ∧
  ∀ (s : State) (tag flags b : Byte), s.takesNow →
    let zeroed := fun (h : Fin 16) (t : State) =>
      t.head h =
        { s.head h with
          counters := {}
          monitor :=
            { (s.head h).monitor with
              live := if (s.head h).counters.deviations = 65535 then (s.head h).monitor.live &&& 0xEF
                else (s.head h).monitor.live } } ∧
      t.status h = (s.status h).joinedBy (if (s.head h).counters.deviations = 65535 then 0x10 else 0)
    let others := fun t : State => { t with heads := s.heads, statuses := s.statuses } = s
    (flags.getLsbD 0 = false → 16 ≤ b.toNat → exec (.countZero tag flags b) s = .next (s.withReply 0xB2 tag [3])) ∧
    (flags.getLsbD 0 = true →
      ∃ t, exec (.countZero tag flags b) s = .next (t.withReply 0xB2 tag [0]) ∧ others t ∧ ∀ h, zeroed h t) ∧
    (∀ h : Fin 16, flags.getLsbD 0 = false → b.toNat = h.val →
      ∃ t, exec (.countZero tag flags b) s = .next (t.withReply 0xB2 tag [0]) ∧ others t ∧ zeroed h t ∧
        ∀ h' ≠ h, t.head h' = s.head h' ∧ t.status h' = s.status h')

/-! ### The recipe library (R47 to R61) -/

/-- FORMAT-PUT (R48, R49) and FORMAT-DROP (R52): the checks in their order; an accepted put stores the record under its code, an
accepted drop removes it, and no other code and no profile changes. -/
def Obligations.FormatTableChangesOneCode : Prop :=
  ∀ (s : State) (tag : Byte), s.takesNow →
    let keeps := fun (l : Library) (code : Nat) =>
      l.profiles = s.library.profiles ∧ ∀ c ≠ code, l.format c = s.library.format c
    (∀ r : FormatReq,
      let code := r.code.toNat
      let hasForm := r.flags.getLsbD 0 = true
      let dose := fun d : DoseFields =>
        d.base.toNat ≤ 3000 ∧ d.base.toNat < d.cap.toNat ∧ d.cap.toNat ≤ 4000 ∧ d.windowMin.toNat ≤ d.windowMax.toNat
      let items := fun d : DoseFields =>
        (⟨d.base.toNat, d.cap.toNat, d.windowMin.toNat, d.windowMax.toNat⟩ : DoseItems)
      let good := 1 ≤ code ∧ code ≤ 250 ∧ r.laneMask ≠ 0 ∧ 1 ≤ r.sealProfile.toNat ∧ r.sealProfile.toNat ≤ 24 ∧
        dose r.sealDose ∧ (hasForm → 1 ≤ r.formProfile.toNat ∧ r.formProfile.toNat ≤ 24 ∧ dose r.formDose)
      let named := s.library.profile r.sealProfile.toNat ≠ none ∧
        (hasForm → s.library.profile r.formProfile.toNat ≠ none)
      let room := s.library.format code ≠ none ∨ s.library.formats.length < 32
      (¬good → exec (.formatPut tag r) s = .next (s.withReply 0x88 tag [3, 0, 0])) ∧
      (good → ¬named → exec (.formatPut tag r) s = .next (s.withReply 0x88 tag [9, 0, 0])) ∧
      (good → named → ¬room → exec (.formatPut tag r) s = .next (s.withReply 0x88 tag [7, 0, 0])) ∧
      (good → named → room →
        ∃ l : Library, keeps l code ∧ exec (.formatPut tag r) s = .next ((s.setLibrary l).withReply 0x88 tag
            [0, BitVec.ofNat 8 l.formats.length, if s.library.format code = none then 0 else 1]) ∧
          l.format code =
            some ⟨r.laneMask, if hasForm then some (r.formProfile.toNat, items r.formDose) else none, r.sealProfile.toNat,
              items r.sealDose, r.flags.getLsbD 1, r.flags.getLsbD 2⟩)) ∧
    ∀ code : Byte,
      let good := 1 ≤ code.toNat ∧ code.toNat ≤ 250
      let queued := ∃ m ∈ s.track.manifests, ∃ lane, m.get lane = code.toNat
      let onTrack := ∃ n, some n ∈ s.track.slots ∧ ∃ lane, (n.packs.get lane).format = code.toNat
      (¬good → exec (.formatDrop tag code) s = .next (s.withReply 0x89 tag [3, 0, 0])) ∧
      (good → s.library.format code.toNat = none →
        exec (.formatDrop tag code) s = .next (s.withReply 0x89 tag [12, 0, 0])) ∧
      (good → s.library.format code.toNat ≠ none → queued ∨ onTrack →
        ∃ place : Byte, (place.getLsbD 0 = true ↔ queued) ∧ (place.getLsbD 1 = true ↔ onTrack) ∧ place &&& 0xFC = 0 ∧
          exec (.formatDrop tag code) s = .next (s.withReply 0x89 tag [6, 0, place])) ∧
      (good → s.library.format code.toNat ≠ none → ¬queued → ¬onTrack →
        ∃ l : Library, keeps l code.toNat ∧ l.format code.toNat = none ∧
          exec (.formatDrop tag code) s =
            .next ((s.setLibrary l).withReply 0x89 tag [0, BitVec.ofNat 8 l.formats.length, 0]))

/-- The checks of a profile. A segment record (R55, R56, R194): its eight bytes in a PROFILE-PUT; the value checks refuse a kind
other than the four and a target above its range that the record says is present; any other record spells the segment whose kind,
targets, duration and flags it carries. The structure and timing checks (R57, R58): what passes them all, and the number that a
PROFILE_INVALID reply carries: that of the first segment that fails the structure tests, then that of a CLOSE without an OPEN, then
that of the first segment that fails its timing test, and 0xFF for the tests of the whole profile. -/
def Obligations.ProfileChecksAreComplete : Prop :=
  (∀ tag id k g t1 t0 p1 p0 d1 d0 : Byte,
    ∃ r : SegmentReq, decodeFrame ⟨0x0A, tag, [id, 1, k, g, t1, t0, p1, p0, d1, d0]⟩ = .request (.profilePut tag id [r]) ∧
      r.kind = k ∧ r.flags = g ∧ r.temperature.toNat = 256 * t1.toNat + t0.toNat ∧
      r.pressure.toNat = 256 * p1.toNat + p0.toNat ∧ r.duration.toNat = 256 * d1.toNat + d0.toNat) ∧
  (∀ r : SegmentReq,
     let hasTemperature := r.flags.getLsbD 4 = true
     let hasPressure := r.flags.getLsbD 5 = true
     let good := (r.kind = 1 ∨ r.kind = 2 ∨ r.kind = 3 ∨ r.kind = 4) ∧ (hasTemperature → r.temperature.toNat ≤ 3000) ∧
       (hasPressure → r.pressure.toNat ≤ 800)
     (¬good → segmentOf r = none) ∧
     (good →
       segmentOf r =
         some
           { kind := if r.kind = 1 then .close else if r.kind = 2 then .hold else if r.kind = 3 then .ramp else .openUp
             temperature := if hasTemperature then some r.temperature.toNat else none
             pressure := if hasPressure then some r.pressure.toNat else none
             duration := r.duration.toNat
             dose := r.flags.getLsbD 0
             aux := r.flags.getLsbD 1
             notify := r.flags.getLsbD 2
             resealPoint := r.flags.getLsbD 3 })) ∧
  ∀ gs : List Segment,
    let fits := fun (n : Nat) (g : Segment) =>
      let before := fun p : Segment → Prop => ∃ m < n, ∃ g', gs[m]? = some g' ∧ p g'
      (g.kind = .close → ¬before (fun g' => g'.kind = .close)) ∧
      (g.kind = .openUp → before (fun g' => g'.kind = .close) ∧ ¬before (fun g' => g'.kind = .openUp) ∧
        g.pressure = none) ∧
      (g.dose = true → g.kind = .hold ∧ before (fun g' => g'.kind = .close) ∧ ¬before (fun g' => g'.kind = .openUp)) ∧
      (g.resealPoint = true → ¬before (fun g' => g'.resealPoint = true) ∧ (g.kind = .hold ∨ g.kind = .ramp) ∧
        before (fun g' => g'.kind = .close) ∧ ∃ m ≥ n, ∃ g', gs[m]? = some g' ∧ g'.dose = true)
    let timed := fun g : Segment =>
      (g.kind = .close ∨ g.kind = .openUp → 50 ≤ g.duration ∧ g.duration ≤ 5000) ∧ g.duration ≤ 10000
    let structured := ∀ n g, gs[n]? = some g → fits n g
    let opened := (∃ g ∈ gs, g.kind = .close) → ∃ g ∈ gs, g.kind = .openUp
    let whole := (gs.map Segment.duration).sum ≤ 30000 ∧ ∃ g ∈ gs, g.duration ≠ 0 ∨ g.kind = .close ∨ g.kind = .openUp
    (profileFault gs = none ↔ structured ∧ opened ∧ (∀ g ∈ gs, timed g) ∧ whole) ∧
    (∀ n g, gs[n]? = some g → ¬fits n g → (∀ m < n, ∀ g', gs[m]? = some g' → fits m g') → profileFault gs = some n) ∧
    (structured → ¬opened → ∀ n g, gs[n]? = some g → g.kind = .close → profileFault gs = some n) ∧
    (structured → opened → ∀ n g, gs[n]? = some g → ¬timed g → (∀ m < n, ∀ g', gs[m]? = some g' → timed g') →
      profileFault gs = some n) ∧
    (structured → opened → (∀ g ∈ gs, timed g) → ¬whole → profileFault gs = some 255)

/-- PROFILE-PUT (R56 to R60) and PROFILE-DROP (R61): the checks in their order; an accepted put stores the segments under the id,
an accepted drop removes them, the reply carries the free count, and no other id and no format changes. -/
def Obligations.ProfileStoreChangesOneId : Prop :=
  ∀ (s : State) (tag idByte : Byte), s.takesNow →
    let id := idByte.toNat
    let goodId := 1 ≤ id ∧ id ≤ 24
    let used := fun l : Library => (l.profiles.map fun x => x.2.length).sum
    let free := 192 - used s.library
    let held := match s.library.profile id with | some gs => gs.length | none => 0
    let keeps := fun l : Library =>
      l.formats = s.library.formats ∧ ∀ i ≠ id, l.profile i = s.library.profile i
    (∀ l : List SegmentReq,
      (¬goodId ∨ l.length = 0 ∨ 16 < l.length ∨ (∃ r ∈ l, segmentOf r = none) →
        exec (.profilePut tag idByte l) s = .next (s.withReply 0x8A tag [3, 0, 0])) ∧
      ∀ gs : List Segment, goodId → 1 ≤ l.length → l.length ≤ 16 → l.map segmentOf = gs.map some →
        (∀ n, profileFault gs = some n →
          exec (.profilePut tag idByte l) s = .next (s.withReply 0x8A tag [17, 0, BitVec.ofNat 8 n])) ∧
        (profileFault gs = none → free + held < gs.length →
          exec (.profilePut tag idByte l) s = .next (s.withReply 0x8A tag [7, BitVec.ofNat 8 free, 0])) ∧
        (profileFault gs = none → gs.length ≤ free + held →
          ∃ l' : Library, keeps l' ∧ l'.profile id = some gs ∧
            exec (.profilePut tag idByte l) s =
              .next ((s.setLibrary l').withReply 0x8A tag [0, BitVec.ofNat 8 (192 - used l'), 0]))) ∧
    (¬goodId → exec (.profileDrop tag idByte) s = .next (s.withReply 0x8B tag [3, 0, 0])) ∧
    (goodId → s.library.profile id = none →
      exec (.profileDrop tag idByte) s = .next (s.withReply 0x8B tag [12, 0, 0])) ∧
    (goodId → s.library.profile id ≠ none →
      let names := fun f : Format => f.sealProfile = id ∨ ∃ d, f.form = some (id, d)
      ((∃ x ∈ s.library.formats, names x.2) →
        ∃ x ∈ s.library.formats, names x.2 ∧
          (s.library.bounded → ∀ y ∈ s.library.formats, names y.2 → x.1 ≤ y.1) ∧
          exec (.profileDrop tag idByte) s = .next (s.withReply 0x8B tag [6, 0, BitVec.ofNat 8 x.1])) ∧
      ((∀ x ∈ s.library.formats, ¬names x.2) →
        ∃ l' : Library, keeps l' ∧ l'.profile id = none ∧
          exec (.profileDrop tag idByte) s =
            .next ((s.setLibrary l').withReply 0x8B tag [0, BitVec.ofNat 8 (192 - used l'), 0])))

/-! ### The Coefficient Store (R174 to R179) -/

/-- COEFF-READ (R177): refused STORE_BUSY unless the store is IDLE; otherwise the read ends 3 ms later, and the reply then carries
the head, the four stored items and the validity of the record, judged as R174 says. The reply goes to the oldest slot that a
COEFF-READ reserves, whatever other slots are reserved (log entry 17).
The clock stands at the expiry at least: the model's choice (log entry 2). -/
def Obligations.CoeffReadReportsRecord : Prop :=
  ∀ (s : State) (tag b : Byte) (h : Fin 16), b.toNat = h.val →
    (s.takesNow →
      (s.store.op ≠ .idle → exec (.coeffRead tag b) s = .next (s.withReply 0xB8 tag (14 :: List.replicate 10 0))) ∧
      (s.store.op = .idle →
        exec (.coeffRead tag b) s =
          .next ((s.setStore { s.store with op := .reading h, due := s.now + 3 }).withReserved 0x38 tag))) ∧
    (∀ older younger : List Reserved, s.store.op = .reading h → s.link.reserved = older ++ ⟨0x38, tag⟩ :: younger →
      (∀ r ∈ older, r.kind ≠ 0x38) →
      let r := s.store.records.get h
      let bytes := bytes16 r.items.tempGain ++ bytes16 r.items.tempOffset ++ bytes16 r.items.presGain ++
        bytes16 r.items.presOffset
      exec .coeffReadEnd s =
        .next (((s.setNow (max s.now s.store.due)).setStore { s.store with op := .idle }).setLink
          { s.link with
            reserved := older ++ younger
            filled := s.link.filled ++
              [⟨0xB8, tag, [0, b] ++ bytes ++
                [if r.check.toNat + (bytes.map BitVec.toNat).sum = 65535 then 1 else 0]⟩] }))

/-- COEFF-WRITE (R178, R179): refused STORE_BUSY unless the store is IDLE and WRONG_STATE unless the head is OFFLINE; otherwise the
store is WRITING for 20 ms. At the end the record is valid and holds the items, the head's active coefficients are those items,
and a live UNCAL clears with a condition change.
The clock stands at the expiry at least: the model's choice (log entry 2). -/
def Obligations.CoeffWriteStoresRecord : Prop :=
  ∀ (s : State) (tag b : Byte) (h : Fin 16) (c : CoeffItems), b.toNat = h.val →
    (s.takesNow →
      (s.store.op ≠ .idle → exec (.coeffWrite tag b c) s = .next (s.withReply 0xB9 tag [14])) ∧
      (s.store.op = .idle → (s.head h).state ≠ .offline →
        exec (.coeffWrite tag b c) s = .next (s.withReply 0xB9 tag [5])) ∧
      (s.store.op = .idle → (s.head h).state = .offline →
        exec (.coeffWrite tag b c) s =
          .next ((s.setStore
            { s.store with op := .writing h c, due := s.now + 20, lastWrite := some h }).withReply 0xB9 tag [0]))) ∧
    (s.store.op = .writing h c →
      ∃ (x : Head) (y : HeadStatus) (r : StoreRecord),
        exec .coeffWriteEnd s =
          .next (((s.setNow (max s.now s.store.due)).setStore
            { s.store with op := .idle, records := s.store.records.set h r }).withHead h x y) ∧
        r.items = c ∧
        r.check.toNat +
          ((bytes16 c.tempGain ++ bytes16 c.tempOffset ++ bytes16 c.presGain ++ bytes16 c.presOffset).map
            BitVec.toNat).sum = 65535 ∧
        x = { s.head h with coeffs := c, monitor := { (s.head h).monitor with live := (s.head h).monitor.live &&& 0xDF } } ∧
        y = (s.status h).joinedBy (if (s.head h).monitor.live.getLsbD 5 then 0x20 else 0))

/-- A record of the load is judged (R175): the next is due 3 ms later. The sixteenth ends the load: every head has the items judged
for it, or zeros, and UNCAL is live exactly where the record failed. That the sixteenth judgement and the end of the load are one act is
DEDUCED (log entry 8).
The clock stands at the expiry at least: the model's choice (log entry 2). -/
def Obligations.LoadJudgesRecords : Prop :=
  ∀ (s : State) (l : List (Option CoeffItems)) (h : Fin 16), s.store.op = .loading l → l.length = h.val →
    let r := s.store.records.get h
    let sum := ((bytes16 r.items.tempGain ++ bytes16 r.items.tempOffset ++ bytes16 r.items.presGain ++
      bytes16 r.items.presOffset).map BitVec.toNat).sum
    let judged := l ++ [if r.check.toNat + sum = 65535 then some r.items else none]
    (h.val < 15 →
      exec .loadRecordJudged s =
        .next ((s.setNow (max s.now s.store.due)).setStore { s.store with op := .loading judged, due := s.store.due + 3 })) ∧
    (h.val = 15 →
      ∃ t, exec .loadRecordJudged s = .next t ∧
        { t with heads := s.heads, statuses := s.statuses, store := s.store, now := s.now } = s ∧
        t.now = max s.now s.store.due ∧ t.store = { s.store with op := .idle } ∧
        ∀ h' : Fin 16,
          (∀ c, judged[h'.val]? = some (some c) →
            t.head h' =
              { s.head h' with
                coeffs := c, monitor := { (s.head h').monitor with live := (s.head h').monitor.live &&& 0xDF } } ∧
            t.status h' = s.status h') ∧
          (judged[h'.val]? = some none →
            t.head h' =
              { s.head h' with
                coeffs := ⟨0, 0, 0, 0⟩
                monitor := { (s.head h').monitor with live := (s.head h').monitor.live ||| 0x20 } } ∧
            t.status h' = (s.status h').joinedBy 0x20))

/-! ### Setpoint arithmetic and samples (R102 to R104, R111 to R126) -/

/-- The corrected code of a setpoint (R102 to R104): 0 for a setpoint of 0; otherwise the exact sum of the ideal code, the gain term
and the offset term, rounded to the nearest whole number with halves to the larger, and limited to 0 to 65535. -/
def Obligations.CorrectedCodeIsRounded : Prop :=
  ∀ (o : Output) (c : CoeffItems) (setpoint : Nat),
    let scale : Nat := match o with | .heater => 20 | .pressure => 64
    let gain : Half := match o with | .heater => c.tempGain | .pressure => c.presGain
    let offset : Half := match o with | .heater => c.tempOffset | .pressure => c.presOffset
    let ideal : ℚ := setpoint * scale
    let exact : ℚ := ideal + ideal * gain.toInt / 262144 + offset.toInt / 4
    let rounded : ℤ := ⌊exact + 1 / 2⌋
    (setpoint = 0 → correctedCode o c setpoint = (0, false)) ∧
    (setpoint ≠ 0 →
      correctedCode o c setpoint = ((max 0 (min 65535 rounded)).toNat, decide (rounded < 0 ∨ 65535 < rounded)))

/-- One sample (R110 to R126, R130): without a running timer only the lines are read. Otherwise the next is due one period later, and
the steps of R112 are taken. The head is as `x'`: the reading, injected or not, is judged low and high against the ceiling and, where
window evaluation is active, the window; LOW and HIGH are declared and cleared by their runs, SENSOR by the reading, PLATEN by the
levels, COUNT_FULL by the deviations; a counting sample adds to the dose or taints the cycle, LOW is seen, readiness counts in
HEATING. Each condition that changes joins the changed set. Then HIGH and SENSOR, when declared, send the head to SAFE, and PLATEN
ends a running cycle PLATEN_FAULT.
The clock stands at the expiry at least: the model's choice (log entry 2). -/
def Obligations.SampleJudgesReading : Prop :=
  ∀ (s : State) (h : Fin 16) (reading : Option Nat) (closedLevel openLevel : Bool),
    let heard := s.setLines { s.lines with heads := s.lines.heads.set h ⟨reading, closedLevel, openLevel⟩ }
    let x := s.head h
    let m : Option Nat := if x.params.loopMode = .dry then some x.tempSet else reading.map (min 4000)
    let outcome := exec (.sample h reading closedLevel openLevel) s
    (x.monitor.sampleTimer = none → outcome = .next heard) ∧
    ∀ due, x.monitor.sampleTimer = some due → x.state ≠ .offline →
      let later := heard.setNow (max s.now due)
      ∃ (t : State) (x' : Head), outcome = .next t ∧
        x'.sampled later.now due m (closedLevel && openLevel) x ∧
        (later.withHead h x' ((s.status h).joinedBy (x'.changesOf x))).takesDeclared h x.monitor.live t

/-! ### The gate (R137 to R143) -/

/-- The punch (R138): its delay asserts the output and starts the width; its width releases it. A reject-confirm edge
(R142): inside the confirm window it adds one to the confirm counter, which stops at 255; outside it changes nothing.
The clock stands at the expiry at least: the model's choice (log entry 2). -/
def Obligations.PunchStrikesAndEdgesCount : Prop :=
  (∀ (s : State) (a : GateActivity) (due : Nat), s.gate.activity = some a → s.gate.punchTimer = some due →
     let later := s.setNow (max s.now due)
     (a.punch = .delay →
       exec .punchDelayExpiry s =
         .next (later.setGate
           { s.gate with
             activity := some { a with punch := .asserted }, punchOut := true
             punchTimer := some (max s.now due + s.gate.config.punchWidth) })) ∧
     (a.punch = .asserted →
       exec .punchWidthExpiry s =
         .next (later.setGate
           { s.gate with activity := some { a with punch := .done }, punchOut := false, punchTimer := none }))) ∧
  ∀ s : State,
    (∀ a, s.gate.activity = some a → a.diverter = .pulse ∨ a.diverter = .window →
      exec .rejectConfirmEdge s =
        .next (s.setGate
          { s.gate with activity := some { a with confirm := a.confirm.map fun n => min 255 (n + 1) } })) ∧
    ((∀ a, s.gate.activity = some a → a.diverter ≠ .pulse ∧ a.diverter ≠ .window) →
      exec .rejectConfirmEdge s = .next s)

/-- The diverter decision (R139) and the end of its pulse (R141): a lane is diverted exactly when its pack is non-empty with a
non-empty reject-reason set, NO_VERDICT of a required verdict in it; the outputs of those lanes alone are asserted.
The clock stands at the expiry at least: the model's choice (log entry 2). -/
def Obligations.DecisionDivertsRejectedPacks : Prop :=
  ∀ (s : State) (a : GateActivity) (due p : Nat) (n : Nest), s.gate.activity = some a →
    s.gate.diverterTimer = some due → s.track.find a.serial = some (p, n) →
    let now := max s.now due
    (a.diverter = .delay →
      ∃ (t : State) (n' : Nest) (lanes : Byte), exec .diverterDelayExpiry s = .next t ∧
        (t.setTrack s.track).setGate s.gate = s.setNow now ∧ { t.track with slots := s.track.slots } = s.track ∧
        State.packsKept (fun serial _ => serial = a.serial) s t ∧
        t.track.find a.serial = some (p, n') ∧ n.decidedAs s.track.config.verdictRequired lanes n' ∧
        t.gate =
          { s.gate with
            activity := some { a with
              diverter := if lanes = 0 then .window else .pulse, diverted := some lanes, confirm := some 0 }
            diverterOut := lanes
            diverterTimer := if lanes = 0 then none else some (now + s.gate.config.diverterWidth)
            windowTimer := some (now + s.gate.config.diverterWidth + s.gate.config.confirmGrace) }) ∧
    (a.diverter = .pulse →
      exec .diverterWidthExpiry s =
        .next ((s.setNow now).setGate
          { s.gate with activity := some { a with diverter := .window }, diverterOut := 0, diverterTimer := none }))

/-- The confirm window ends (R143): the count is written into the gate nest's record and compared with the number of diverted
lanes; a difference posts the cause and the track event GATE_MISMATCH, with HOLD_CHANGED exactly where the cause set was empty (R21)
and the notice of R159, and nothing else joins the changed set.
The clock stands at the expiry at least: the model's choice (log entry 2). -/
def Obligations.ConfirmWindowComparesCounts : Prop :=
  ∀ (s : State) (a : GateActivity) (due count p : Nat) (lanes : Byte) (n : Nest), s.gate.activity = some a →
    s.gate.windowTimer = some due → a.diverter = .pulse ∨ a.diverter = .window → a.confirm = some count →
    a.diverted = some lanes → s.track.find a.serial = some (p, n) →
    let number := ((List.range 8).filter fun i => lanes.getLsbD i).length
    ∃ t, exec .confirmWindowExpiry s = .next t ∧ t.now = max s.now due ∧
      { t with now := s.now, track := s.track, causes := s.causes, trackStatus := s.trackStatus, gate := s.gate } = s ∧
      { t.track with slots := s.track.slots } = s.track ∧
      t.track.find a.serial = some (p, { n with confirm := some count }) ∧
      t.gate =
        { s.gate with
          activity := some { a with diverter := .done, confirm := none }
          diverterOut := 0, diverterTimer := none, windowTimer := none } ∧
      (count = number → t.causes = s.causes ∧ t.trackStatus = s.trackStatus) ∧
      (count ≠ number →
        t.causes = s.causes ||| 0x08 ∧ t.trackStatus.enable = s.trackStatus.enable ∧
        t.trackStatus.changed = s.trackStatus.changed ||| 0x04 ||| (if s.causes = 0 then 0x10 else 0) ∧ s.noticeFollows t)

/-! ### What every step keeps -/

/-- Every step keeps the bounds of the queues, the slots and the library, the shape of the track, and that a frame waits only while
no slot is free (R1, R2, R25, R41, R43, R47, R54, R185, R187). -/
def Obligations.StepKeepsBounds : Prop :=
  ∀ s t : State, s.queuesBounded → s.library.bounded → s.track.shaped → step s = .next t →
    t.queuesBounded ∧ t.library.bounded ∧ t.track.shaped

/-- Every step keeps the nests of the track numbered by their entries, so that no two nests in the track carry one serial number
(R1, R11). Of a report that waits while the counter comes round nothing is said (log entry 20). -/
def Obligations.StepKeepsSerials : Prop :=
  (∀ s t : State, s.track.shaped → s.track.numbered → step s = .next t → t.track.numbered) ∧
  ∀ t : Track, t.shaped → t.numbered → ∀ p q n m, t.nestAt p = some n → t.nestAt q = some m → n.serial = m.serial → p = q

/-- Every step keeps each head coherent (R72, R83, R84, R110), its setpoints outside RUNNING those of its state (R96), and what it
presents (R105, R106): both codes 0 in OFFLINE, in SAFE and in DRY mode, and otherwise the corrected codes of its setpoints. Every step
keeps also that the store loads and writes only for heads that are OFFLINE (R68, R107, R178), so that no code is left behind by a
change of coefficients. -/
def Obligations.StepKeepsHeadsCoherent : Prop :=
  ∀ s t : State, s.everyHead Head.coherent → s.everyHead Head.presentsSafely → s.storeServesOffline → step s = .next t →
    t.everyHead Head.coherent ∧ t.everyHead Head.presentsSafely ∧ t.storeServesOffline

/-- Every step keeps HEAD_SAFE present exactly while a head with hold-on-safe is in SAFE, and no two heads at one binding (R19,
R66). -/
def Obligations.StepKeepsCauseAndBindings : Prop :=
  ∀ s t : State, s.headSafeFollows → s.bindingsDistinct → step s = .next t → t.headSafeFollows ∧ t.bindingsDistinct

/-- The state after reset has all that every step keeps. -/
def Obligations.ResetIsSound : Prop :=
  State.reset.queuesBounded ∧ State.reset.library.bounded ∧ State.reset.track.shaped ∧
  State.reset.track.numbered ∧ State.reset.everyHead Head.coherent ∧ State.reset.everyHead Head.presentsSafely ∧
  State.reset.storeServesOffline ∧ State.reset.headSafeFollows ∧ State.reset.bindingsDistinct
end

