-- ==== Sys2Proof/Laws/Bank.lean ====
section
/-! SUPPORT. Reading and writing the places of a bank of sixteen and of eight. -/

namespace Sys2Proof

/-- Every head number is one of the sixteen literals. -/
theorem Fin16_cases {p : Fin 16 → Prop} (h0 : p 0) (h1 : p 1) (h2 : p 2) (h3 : p 3) (h4 : p 4) (h5 : p 5) (h6 : p 6)
    (h7 : p 7) (h8 : p 8) (h9 : p 9) (h10 : p 10) (h11 : p 11) (h12 : p 12) (h13 : p 13) (h14 : p 14) (h15 : p 15)
    (i : Fin 16) : p i := by
  fin_cases i <;> assumption

/-- Every lane number is one of the eight literals. -/
theorem Fin8_cases {p : Fin 8 → Prop} (h0 : p 0) (h1 : p 1) (h2 : p 2) (h3 : p 3) (h4 : p 4) (h5 : p 5) (h6 : p 6)
    (h7 : p 7) (i : Fin 8) : p i := by
  fin_cases i <;> assumption

/-- Every head number stands in the list of them. -/
theorem mem_allHeads (h : Fin 16) : h ∈ allHeads := by
  revert h; decide

/-- Every lane number stands in the list of them. -/
theorem mem_allLanes (l : Fin 8) : l ∈ allLanes := by
  revert l; decide

namespace Bank

variable {α β : Type} (x : Bank α)

@[simp] theorem get_set_self (i : Fin 16) (a : α) : (x.set i a).get i = a := by
  revert i; apply Fin16_cases <;> rfl

theorem get_set_of_ne {i j : Fin 16} (a : α) (h : j ≠ i) : (x.set i a).get j = x.get j := by
  revert j; revert i
  apply Fin16_cases <;> apply Fin16_cases <;> intro h <;> first | rfl | exact absurd rfl h

theorem get_set (i j : Fin 16) (a : α) : (x.set i a).get j = if j = i then a else x.get j := by
  split
  · subst_vars; simp
  · exact x.get_set_of_ne a ‹_›

@[simp] theorem set_get_self (i : Fin 16) : x.set i (x.get i) = x := by
  revert i; apply Fin16_cases <;> rfl

@[simp] theorem set_set (i : Fin 16) (a b : α) : (x.set i a).set i b = x.set i b := by
  revert i; apply Fin16_cases <;> rfl

@[simp] theorem get_fill (i : Fin 16) (a : α) : (fill a).get i = a := by
  revert i; apply Fin16_cases <;> rfl

@[simp] theorem get_mapIdx (f : Fin 16 → α → β) (i : Fin 16) : (x.mapIdx f).get i = f i (x.get i) := by
  revert i; apply Fin16_cases <;> rfl

@[simp] theorem get_map (f : α → β) (i : Fin 16) : (x.map f).get i = f (x.get i) := by
  simp [map]

theorem get_modify (i j : Fin 16) (f : α → α) : (x.modify i f).get j = if j = i then f (x.get i) else x.get j := by
  simp [modify, get_set]

/-- A bank's values are those its places hold. -/
theorem toList_eq : x.toList = allHeads.map x.get := rfl

/-- Some value of a bank passes a test exactly when some place holds one. -/
theorem any_toList (p : α → Bool) : x.toList.any p = true ↔ ∃ i, p (x.get i) = true := by
  constructor
  · intro h
    obtain ⟨a, ha, hp⟩ := List.any_eq_true.mp h
    rw [toList_eq] at ha
    obtain ⟨i, -, rfl⟩ := List.mem_map.mp ha
    exact ⟨i, hp⟩
  · rintro ⟨i, hp⟩
    refine List.any_eq_true.mpr ⟨x.get i, ?_, hp⟩
    rw [toList_eq]
    exact List.mem_map_of_mem (mem_allHeads i)

/-- Two banks that hold the same in every place are equal. -/
theorem ext_get {x y : Bank α} (h : ∀ i, x.get i = y.get i) : x = y := by
  cases x; cases y
  have := h 0; have := h 1; have := h 2; have := h 3; have := h 4; have := h 5; have := h 6; have := h 7
  have := h 8; have := h 9; have := h 10; have := h 11; have := h 12; have := h 13; have := h 14; have := h 15
  simp_all [get]

end Bank

namespace Lanes

variable {α β : Type} (x : Lanes α)

@[simp] theorem get_set_self (i : Fin 8) (a : α) : (x.set i a).get i = a := by
  revert i; apply Fin8_cases <;> rfl

theorem get_set (i j : Fin 8) (a : α) : (x.set i a).get j = if j = i then a else x.get j := by
  revert j; revert i; apply Fin8_cases <;> apply Fin8_cases <;> rfl

@[simp] theorem get_fill (i : Fin 8) (a : α) : (fill a).get i = a := by
  revert i; apply Fin8_cases <;> rfl

@[simp] theorem get_mapIdx (f : Fin 8 → α → β) (i : Fin 8) : (x.mapIdx f).get i = f i (x.get i) := by
  revert i; apply Fin8_cases <;> rfl

@[simp] theorem get_map (f : α → β) (i : Fin 8) : (x.map f).get i = f (x.get i) := by
  simp [map]

theorem get_modify (i j : Fin 8) (f : α → α) : (x.modify i f).get j = if j = i then f (x.get i) else x.get j := by
  simp [modify, get_set]

/-- The values of eight lanes are those its places hold. -/
theorem toList_eq : x.toList = allLanes.map x.get := rfl

end Lanes

end Sys2Proof
end

