-- ==== Sys2Proof/Laws/State.lean ====
section
/-! SUPPORT. What each named update of the state leaves: one lemma per field per update, true by computation. -/

namespace Sys2Proof.Machine.State

variable (s : State)

@[simp] theorem setNow_now (x : Nat) : (s.setNow x).now = x := rfl
@[simp] theorem setNow_link (x : Nat) : (s.setNow x).link = s.link := rfl
@[simp] theorem setNow_track (x : Nat) : (s.setNow x).track = s.track := rfl
@[simp] theorem setNow_causes (x : Nat) : (s.setNow x).causes = s.causes := rfl
@[simp] theorem setNow_trackStatus (x : Nat) : (s.setNow x).trackStatus = s.trackStatus := rfl
@[simp] theorem setNow_library (x : Nat) : (s.setNow x).library = s.library := rfl
@[simp] theorem setNow_heads (x : Nat) : (s.setNow x).heads = s.heads := rfl
@[simp] theorem setNow_statuses (x : Nat) : (s.setNow x).statuses = s.statuses := rfl
@[simp] theorem setNow_gate (x : Nat) : (s.setNow x).gate = s.gate := rfl
@[simp] theorem setNow_store (x : Nat) : (s.setNow x).store = s.store := rfl
@[simp] theorem setNow_lines (x : Nat) : (s.setNow x).lines = s.lines := rfl
@[simp] theorem setNow_draws (x : Nat) : (s.setNow x).draws = s.draws := rfl
@[simp] theorem setNow_pending (x : Nat) : (s.setNow x).pending = s.pending := rfl

@[simp] theorem setLink_now (x : Link) : (s.setLink x).now = s.now := rfl
@[simp] theorem setLink_link (x : Link) : (s.setLink x).link = x := rfl
@[simp] theorem setLink_track (x : Link) : (s.setLink x).track = s.track := rfl
@[simp] theorem setLink_causes (x : Link) : (s.setLink x).causes = s.causes := rfl
@[simp] theorem setLink_trackStatus (x : Link) : (s.setLink x).trackStatus = s.trackStatus := rfl
@[simp] theorem setLink_library (x : Link) : (s.setLink x).library = s.library := rfl
@[simp] theorem setLink_heads (x : Link) : (s.setLink x).heads = s.heads := rfl
@[simp] theorem setLink_statuses (x : Link) : (s.setLink x).statuses = s.statuses := rfl
@[simp] theorem setLink_gate (x : Link) : (s.setLink x).gate = s.gate := rfl
@[simp] theorem setLink_store (x : Link) : (s.setLink x).store = s.store := rfl
@[simp] theorem setLink_lines (x : Link) : (s.setLink x).lines = s.lines := rfl
@[simp] theorem setLink_draws (x : Link) : (s.setLink x).draws = s.draws := rfl
@[simp] theorem setLink_pending (x : Link) : (s.setLink x).pending = s.pending := rfl

@[simp] theorem setTrack_now (x : Track) : (s.setTrack x).now = s.now := rfl
@[simp] theorem setTrack_link (x : Track) : (s.setTrack x).link = s.link := rfl
@[simp] theorem setTrack_track (x : Track) : (s.setTrack x).track = x := rfl
@[simp] theorem setTrack_causes (x : Track) : (s.setTrack x).causes = s.causes := rfl
@[simp] theorem setTrack_trackStatus (x : Track) : (s.setTrack x).trackStatus = s.trackStatus := rfl
@[simp] theorem setTrack_library (x : Track) : (s.setTrack x).library = s.library := rfl
@[simp] theorem setTrack_heads (x : Track) : (s.setTrack x).heads = s.heads := rfl
@[simp] theorem setTrack_statuses (x : Track) : (s.setTrack x).statuses = s.statuses := rfl
@[simp] theorem setTrack_gate (x : Track) : (s.setTrack x).gate = s.gate := rfl
@[simp] theorem setTrack_store (x : Track) : (s.setTrack x).store = s.store := rfl
@[simp] theorem setTrack_lines (x : Track) : (s.setTrack x).lines = s.lines := rfl
@[simp] theorem setTrack_draws (x : Track) : (s.setTrack x).draws = s.draws := rfl
@[simp] theorem setTrack_pending (x : Track) : (s.setTrack x).pending = s.pending := rfl

@[simp] theorem setCauseSet_now (x : Byte) : (s.setCauseSet x).now = s.now := rfl
@[simp] theorem setCauseSet_link (x : Byte) : (s.setCauseSet x).link = s.link := rfl
@[simp] theorem setCauseSet_track (x : Byte) : (s.setCauseSet x).track = s.track := rfl
@[simp] theorem setCauseSet_causes (x : Byte) : (s.setCauseSet x).causes = x := rfl
@[simp] theorem setCauseSet_trackStatus (x : Byte) : (s.setCauseSet x).trackStatus = s.trackStatus := rfl
@[simp] theorem setCauseSet_library (x : Byte) : (s.setCauseSet x).library = s.library := rfl
@[simp] theorem setCauseSet_heads (x : Byte) : (s.setCauseSet x).heads = s.heads := rfl
@[simp] theorem setCauseSet_statuses (x : Byte) : (s.setCauseSet x).statuses = s.statuses := rfl
@[simp] theorem setCauseSet_gate (x : Byte) : (s.setCauseSet x).gate = s.gate := rfl
@[simp] theorem setCauseSet_store (x : Byte) : (s.setCauseSet x).store = s.store := rfl
@[simp] theorem setCauseSet_lines (x : Byte) : (s.setCauseSet x).lines = s.lines := rfl
@[simp] theorem setCauseSet_draws (x : Byte) : (s.setCauseSet x).draws = s.draws := rfl
@[simp] theorem setCauseSet_pending (x : Byte) : (s.setCauseSet x).pending = s.pending := rfl

@[simp] theorem setTrackStatus_now (x : TrackStatus) : (s.setTrackStatus x).now = s.now := rfl
@[simp] theorem setTrackStatus_link (x : TrackStatus) : (s.setTrackStatus x).link = s.link := rfl
@[simp] theorem setTrackStatus_track (x : TrackStatus) : (s.setTrackStatus x).track = s.track := rfl
@[simp] theorem setTrackStatus_causes (x : TrackStatus) : (s.setTrackStatus x).causes = s.causes := rfl
@[simp] theorem setTrackStatus_trackStatus (x : TrackStatus) : (s.setTrackStatus x).trackStatus = x := rfl
@[simp] theorem setTrackStatus_library (x : TrackStatus) : (s.setTrackStatus x).library = s.library := rfl
@[simp] theorem setTrackStatus_heads (x : TrackStatus) : (s.setTrackStatus x).heads = s.heads := rfl
@[simp] theorem setTrackStatus_statuses (x : TrackStatus) : (s.setTrackStatus x).statuses = s.statuses := rfl
@[simp] theorem setTrackStatus_gate (x : TrackStatus) : (s.setTrackStatus x).gate = s.gate := rfl
@[simp] theorem setTrackStatus_store (x : TrackStatus) : (s.setTrackStatus x).store = s.store := rfl
@[simp] theorem setTrackStatus_lines (x : TrackStatus) : (s.setTrackStatus x).lines = s.lines := rfl
@[simp] theorem setTrackStatus_draws (x : TrackStatus) : (s.setTrackStatus x).draws = s.draws := rfl
@[simp] theorem setTrackStatus_pending (x : TrackStatus) : (s.setTrackStatus x).pending = s.pending := rfl

@[simp] theorem setLibrary_now (x : Library) : (s.setLibrary x).now = s.now := rfl
@[simp] theorem setLibrary_link (x : Library) : (s.setLibrary x).link = s.link := rfl
@[simp] theorem setLibrary_track (x : Library) : (s.setLibrary x).track = s.track := rfl
@[simp] theorem setLibrary_causes (x : Library) : (s.setLibrary x).causes = s.causes := rfl
@[simp] theorem setLibrary_trackStatus (x : Library) : (s.setLibrary x).trackStatus = s.trackStatus := rfl
@[simp] theorem setLibrary_library (x : Library) : (s.setLibrary x).library = x := rfl
@[simp] theorem setLibrary_heads (x : Library) : (s.setLibrary x).heads = s.heads := rfl
@[simp] theorem setLibrary_statuses (x : Library) : (s.setLibrary x).statuses = s.statuses := rfl
@[simp] theorem setLibrary_gate (x : Library) : (s.setLibrary x).gate = s.gate := rfl
@[simp] theorem setLibrary_store (x : Library) : (s.setLibrary x).store = s.store := rfl
@[simp] theorem setLibrary_lines (x : Library) : (s.setLibrary x).lines = s.lines := rfl
@[simp] theorem setLibrary_draws (x : Library) : (s.setLibrary x).draws = s.draws := rfl
@[simp] theorem setLibrary_pending (x : Library) : (s.setLibrary x).pending = s.pending := rfl

@[simp] theorem setHeads_now (x : Bank Head) : (s.setHeads x).now = s.now := rfl
@[simp] theorem setHeads_link (x : Bank Head) : (s.setHeads x).link = s.link := rfl
@[simp] theorem setHeads_track (x : Bank Head) : (s.setHeads x).track = s.track := rfl
@[simp] theorem setHeads_causes (x : Bank Head) : (s.setHeads x).causes = s.causes := rfl
@[simp] theorem setHeads_trackStatus (x : Bank Head) : (s.setHeads x).trackStatus = s.trackStatus := rfl
@[simp] theorem setHeads_library (x : Bank Head) : (s.setHeads x).library = s.library := rfl
@[simp] theorem setHeads_heads (x : Bank Head) : (s.setHeads x).heads = x := rfl
@[simp] theorem setHeads_statuses (x : Bank Head) : (s.setHeads x).statuses = s.statuses := rfl
@[simp] theorem setHeads_gate (x : Bank Head) : (s.setHeads x).gate = s.gate := rfl
@[simp] theorem setHeads_store (x : Bank Head) : (s.setHeads x).store = s.store := rfl
@[simp] theorem setHeads_lines (x : Bank Head) : (s.setHeads x).lines = s.lines := rfl
@[simp] theorem setHeads_draws (x : Bank Head) : (s.setHeads x).draws = s.draws := rfl
@[simp] theorem setHeads_pending (x : Bank Head) : (s.setHeads x).pending = s.pending := rfl

@[simp] theorem setStatuses_now (x : Bank HeadStatus) : (s.setStatuses x).now = s.now := rfl
@[simp] theorem setStatuses_link (x : Bank HeadStatus) : (s.setStatuses x).link = s.link := rfl
@[simp] theorem setStatuses_track (x : Bank HeadStatus) : (s.setStatuses x).track = s.track := rfl
@[simp] theorem setStatuses_causes (x : Bank HeadStatus) : (s.setStatuses x).causes = s.causes := rfl
@[simp] theorem setStatuses_trackStatus (x : Bank HeadStatus) : (s.setStatuses x).trackStatus = s.trackStatus := rfl
@[simp] theorem setStatuses_library (x : Bank HeadStatus) : (s.setStatuses x).library = s.library := rfl
@[simp] theorem setStatuses_heads (x : Bank HeadStatus) : (s.setStatuses x).heads = s.heads := rfl
@[simp] theorem setStatuses_statuses (x : Bank HeadStatus) : (s.setStatuses x).statuses = x := rfl
@[simp] theorem setStatuses_gate (x : Bank HeadStatus) : (s.setStatuses x).gate = s.gate := rfl
@[simp] theorem setStatuses_store (x : Bank HeadStatus) : (s.setStatuses x).store = s.store := rfl
@[simp] theorem setStatuses_lines (x : Bank HeadStatus) : (s.setStatuses x).lines = s.lines := rfl
@[simp] theorem setStatuses_draws (x : Bank HeadStatus) : (s.setStatuses x).draws = s.draws := rfl
@[simp] theorem setStatuses_pending (x : Bank HeadStatus) : (s.setStatuses x).pending = s.pending := rfl

@[simp] theorem setGate_now (x : Gate) : (s.setGate x).now = s.now := rfl
@[simp] theorem setGate_link (x : Gate) : (s.setGate x).link = s.link := rfl
@[simp] theorem setGate_track (x : Gate) : (s.setGate x).track = s.track := rfl
@[simp] theorem setGate_causes (x : Gate) : (s.setGate x).causes = s.causes := rfl
@[simp] theorem setGate_trackStatus (x : Gate) : (s.setGate x).trackStatus = s.trackStatus := rfl
@[simp] theorem setGate_library (x : Gate) : (s.setGate x).library = s.library := rfl
@[simp] theorem setGate_heads (x : Gate) : (s.setGate x).heads = s.heads := rfl
@[simp] theorem setGate_statuses (x : Gate) : (s.setGate x).statuses = s.statuses := rfl
@[simp] theorem setGate_gate (x : Gate) : (s.setGate x).gate = x := rfl
@[simp] theorem setGate_store (x : Gate) : (s.setGate x).store = s.store := rfl
@[simp] theorem setGate_lines (x : Gate) : (s.setGate x).lines = s.lines := rfl
@[simp] theorem setGate_draws (x : Gate) : (s.setGate x).draws = s.draws := rfl
@[simp] theorem setGate_pending (x : Gate) : (s.setGate x).pending = s.pending := rfl

@[simp] theorem setStore_now (x : Store) : (s.setStore x).now = s.now := rfl
@[simp] theorem setStore_link (x : Store) : (s.setStore x).link = s.link := rfl
@[simp] theorem setStore_track (x : Store) : (s.setStore x).track = s.track := rfl
@[simp] theorem setStore_causes (x : Store) : (s.setStore x).causes = s.causes := rfl
@[simp] theorem setStore_trackStatus (x : Store) : (s.setStore x).trackStatus = s.trackStatus := rfl
@[simp] theorem setStore_library (x : Store) : (s.setStore x).library = s.library := rfl
@[simp] theorem setStore_heads (x : Store) : (s.setStore x).heads = s.heads := rfl
@[simp] theorem setStore_statuses (x : Store) : (s.setStore x).statuses = s.statuses := rfl
@[simp] theorem setStore_gate (x : Store) : (s.setStore x).gate = s.gate := rfl
@[simp] theorem setStore_store (x : Store) : (s.setStore x).store = x := rfl
@[simp] theorem setStore_lines (x : Store) : (s.setStore x).lines = s.lines := rfl
@[simp] theorem setStore_draws (x : Store) : (s.setStore x).draws = s.draws := rfl
@[simp] theorem setStore_pending (x : Store) : (s.setStore x).pending = s.pending := rfl

@[simp] theorem setLines_now (x : Lines) : (s.setLines x).now = s.now := rfl
@[simp] theorem setLines_link (x : Lines) : (s.setLines x).link = s.link := rfl
@[simp] theorem setLines_track (x : Lines) : (s.setLines x).track = s.track := rfl
@[simp] theorem setLines_causes (x : Lines) : (s.setLines x).causes = s.causes := rfl
@[simp] theorem setLines_trackStatus (x : Lines) : (s.setLines x).trackStatus = s.trackStatus := rfl
@[simp] theorem setLines_library (x : Lines) : (s.setLines x).library = s.library := rfl
@[simp] theorem setLines_heads (x : Lines) : (s.setLines x).heads = s.heads := rfl
@[simp] theorem setLines_statuses (x : Lines) : (s.setLines x).statuses = s.statuses := rfl
@[simp] theorem setLines_gate (x : Lines) : (s.setLines x).gate = s.gate := rfl
@[simp] theorem setLines_store (x : Lines) : (s.setLines x).store = s.store := rfl
@[simp] theorem setLines_lines (x : Lines) : (s.setLines x).lines = x := rfl
@[simp] theorem setLines_draws (x : Lines) : (s.setLines x).draws = s.draws := rfl
@[simp] theorem setLines_pending (x : Lines) : (s.setLines x).pending = s.pending := rfl

@[simp] theorem setDraws_now (x : Nat) : (s.setDraws x).now = s.now := rfl
@[simp] theorem setDraws_link (x : Nat) : (s.setDraws x).link = s.link := rfl
@[simp] theorem setDraws_track (x : Nat) : (s.setDraws x).track = s.track := rfl
@[simp] theorem setDraws_causes (x : Nat) : (s.setDraws x).causes = s.causes := rfl
@[simp] theorem setDraws_trackStatus (x : Nat) : (s.setDraws x).trackStatus = s.trackStatus := rfl
@[simp] theorem setDraws_library (x : Nat) : (s.setDraws x).library = s.library := rfl
@[simp] theorem setDraws_heads (x : Nat) : (s.setDraws x).heads = s.heads := rfl
@[simp] theorem setDraws_statuses (x : Nat) : (s.setDraws x).statuses = s.statuses := rfl
@[simp] theorem setDraws_gate (x : Nat) : (s.setDraws x).gate = s.gate := rfl
@[simp] theorem setDraws_store (x : Nat) : (s.setDraws x).store = s.store := rfl
@[simp] theorem setDraws_lines (x : Nat) : (s.setDraws x).lines = s.lines := rfl
@[simp] theorem setDraws_draws (x : Nat) : (s.setDraws x).draws = x := rfl
@[simp] theorem setDraws_pending (x : Nat) : (s.setDraws x).pending = s.pending := rfl

@[simp] theorem setPending_now (x : List Instr) : (s.setPending x).now = s.now := rfl
@[simp] theorem setPending_link (x : List Instr) : (s.setPending x).link = s.link := rfl
@[simp] theorem setPending_track (x : List Instr) : (s.setPending x).track = s.track := rfl
@[simp] theorem setPending_causes (x : List Instr) : (s.setPending x).causes = s.causes := rfl
@[simp] theorem setPending_trackStatus (x : List Instr) : (s.setPending x).trackStatus = s.trackStatus := rfl
@[simp] theorem setPending_library (x : List Instr) : (s.setPending x).library = s.library := rfl
@[simp] theorem setPending_heads (x : List Instr) : (s.setPending x).heads = s.heads := rfl
@[simp] theorem setPending_statuses (x : List Instr) : (s.setPending x).statuses = s.statuses := rfl
@[simp] theorem setPending_gate (x : List Instr) : (s.setPending x).gate = s.gate := rfl
@[simp] theorem setPending_store (x : List Instr) : (s.setPending x).store = s.store := rfl
@[simp] theorem setPending_lines (x : List Instr) : (s.setPending x).lines = s.lines := rfl
@[simp] theorem setPending_draws (x : List Instr) : (s.setPending x).draws = s.draws := rfl
@[simp] theorem setPending_pending (x : List Instr) : (s.setPending x).pending = x := rfl

/-! ### One head's record or status replaced -/

@[simp] theorem putHead_now (h : Fin 16) (x : Head) : (s.putHead h x).now = s.now := rfl
@[simp] theorem putHead_link (h : Fin 16) (x : Head) : (s.putHead h x).link = s.link := rfl
@[simp] theorem putHead_track (h : Fin 16) (x : Head) : (s.putHead h x).track = s.track := rfl
@[simp] theorem putHead_causes (h : Fin 16) (x : Head) : (s.putHead h x).causes = s.causes := rfl
@[simp] theorem putHead_trackStatus (h : Fin 16) (x : Head) : (s.putHead h x).trackStatus = s.trackStatus := rfl
@[simp] theorem putHead_library (h : Fin 16) (x : Head) : (s.putHead h x).library = s.library := rfl
@[simp] theorem putHead_heads (h : Fin 16) (x : Head) : (s.putHead h x).heads = s.heads.set h x := rfl
@[simp] theorem putHead_statuses (h : Fin 16) (x : Head) : (s.putHead h x).statuses = s.statuses := rfl
@[simp] theorem putHead_gate (h : Fin 16) (x : Head) : (s.putHead h x).gate = s.gate := rfl
@[simp] theorem putHead_store (h : Fin 16) (x : Head) : (s.putHead h x).store = s.store := rfl
@[simp] theorem putHead_lines (h : Fin 16) (x : Head) : (s.putHead h x).lines = s.lines := rfl
@[simp] theorem putHead_draws (h : Fin 16) (x : Head) : (s.putHead h x).draws = s.draws := rfl
@[simp] theorem putHead_pending (h : Fin 16) (x : Head) : (s.putHead h x).pending = s.pending := rfl

@[simp] theorem putStatus_now (h : Fin 16) (x : HeadStatus) : (s.putStatus h x).now = s.now := rfl
@[simp] theorem putStatus_link (h : Fin 16) (x : HeadStatus) : (s.putStatus h x).link = s.link := rfl
@[simp] theorem putStatus_track (h : Fin 16) (x : HeadStatus) : (s.putStatus h x).track = s.track := rfl
@[simp] theorem putStatus_causes (h : Fin 16) (x : HeadStatus) : (s.putStatus h x).causes = s.causes := rfl
@[simp] theorem putStatus_trackStatus (h : Fin 16) (x : HeadStatus) : (s.putStatus h x).trackStatus = s.trackStatus := rfl
@[simp] theorem putStatus_library (h : Fin 16) (x : HeadStatus) : (s.putStatus h x).library = s.library := rfl
@[simp] theorem putStatus_heads (h : Fin 16) (x : HeadStatus) : (s.putStatus h x).heads = s.heads := rfl
@[simp] theorem putStatus_statuses (h : Fin 16) (x : HeadStatus) : (s.putStatus h x).statuses = s.statuses.set h x := rfl
@[simp] theorem putStatus_gate (h : Fin 16) (x : HeadStatus) : (s.putStatus h x).gate = s.gate := rfl
@[simp] theorem putStatus_store (h : Fin 16) (x : HeadStatus) : (s.putStatus h x).store = s.store := rfl
@[simp] theorem putStatus_lines (h : Fin 16) (x : HeadStatus) : (s.putStatus h x).lines = s.lines := rfl
@[simp] theorem putStatus_draws (h : Fin 16) (x : HeadStatus) : (s.putStatus h x).draws = s.draws := rfl
@[simp] theorem putStatus_pending (h : Fin 16) (x : HeadStatus) : (s.putStatus h x).pending = s.pending := rfl

@[simp] theorem advanceTo_now (t : Nat) : (s.advanceTo t).now = max s.now t := rfl
@[simp] theorem advanceTo_link (t : Nat) : (s.advanceTo t).link = s.link := rfl
@[simp] theorem advanceTo_track (t : Nat) : (s.advanceTo t).track = s.track := rfl
@[simp] theorem advanceTo_causes (t : Nat) : (s.advanceTo t).causes = s.causes := rfl
@[simp] theorem advanceTo_trackStatus (t : Nat) : (s.advanceTo t).trackStatus = s.trackStatus := rfl
@[simp] theorem advanceTo_library (t : Nat) : (s.advanceTo t).library = s.library := rfl
@[simp] theorem advanceTo_heads (t : Nat) : (s.advanceTo t).heads = s.heads := rfl
@[simp] theorem advanceTo_statuses (t : Nat) : (s.advanceTo t).statuses = s.statuses := rfl
@[simp] theorem advanceTo_gate (t : Nat) : (s.advanceTo t).gate = s.gate := rfl
@[simp] theorem advanceTo_store (t : Nat) : (s.advanceTo t).store = s.store := rfl
@[simp] theorem advanceTo_lines (t : Nat) : (s.advanceTo t).lines = s.lines := rfl
@[simp] theorem advanceTo_draws (t : Nat) : (s.advanceTo t).draws = s.draws := rfl
@[simp] theorem advanceTo_pending (t : Nat) : (s.advanceTo t).pending = s.pending := rfl

@[simp] theorem mapLink_now (f : Link → Link) : (s.mapLink f).now = s.now := rfl
@[simp] theorem mapLink_link (f : Link → Link) : (s.mapLink f).link = f s.link := rfl
@[simp] theorem mapLink_track (f : Link → Link) : (s.mapLink f).track = s.track := rfl
@[simp] theorem mapLink_causes (f : Link → Link) : (s.mapLink f).causes = s.causes := rfl
@[simp] theorem mapLink_trackStatus (f : Link → Link) : (s.mapLink f).trackStatus = s.trackStatus := rfl
@[simp] theorem mapLink_library (f : Link → Link) : (s.mapLink f).library = s.library := rfl
@[simp] theorem mapLink_heads (f : Link → Link) : (s.mapLink f).heads = s.heads := rfl
@[simp] theorem mapLink_statuses (f : Link → Link) : (s.mapLink f).statuses = s.statuses := rfl
@[simp] theorem mapLink_gate (f : Link → Link) : (s.mapLink f).gate = s.gate := rfl
@[simp] theorem mapLink_store (f : Link → Link) : (s.mapLink f).store = s.store := rfl
@[simp] theorem mapLink_lines (f : Link → Link) : (s.mapLink f).lines = s.lines := rfl
@[simp] theorem mapLink_draws (f : Link → Link) : (s.mapLink f).draws = s.draws := rfl
@[simp] theorem mapLink_pending (f : Link → Link) : (s.mapLink f).pending = s.pending := rfl

end Sys2Proof.Machine.State
end

