-- ==== Sys2Proof/Laws/Frames.lean ====
section
/-! SUPPORT. What each shared operation leaves alone: one lemma per operation and untouched field. -/

namespace Sys2Proof.Machine

variable (s : State)

/-! ### State.postTrack -/

@[simp] theorem State.postTrack_now (e : TrackEvent) : (s.postTrack e).now = s.now := by
  rfl
@[simp] theorem State.postTrack_link (e : TrackEvent) : (s.postTrack e).link = s.link := by
  rfl
@[simp] theorem State.postTrack_track (e : TrackEvent) : (s.postTrack e).track = s.track := by
  rfl
@[simp] theorem State.postTrack_causes (e : TrackEvent) : (s.postTrack e).causes = s.causes := by
  rfl
@[simp] theorem State.postTrack_library (e : TrackEvent) : (s.postTrack e).library = s.library := by
  rfl
@[simp] theorem State.postTrack_heads (e : TrackEvent) : (s.postTrack e).heads = s.heads := by
  rfl
@[simp] theorem State.postTrack_statuses (e : TrackEvent) : (s.postTrack e).statuses = s.statuses := by
  rfl
@[simp] theorem State.postTrack_gate (e : TrackEvent) : (s.postTrack e).gate = s.gate := by
  rfl
@[simp] theorem State.postTrack_store (e : TrackEvent) : (s.postTrack e).store = s.store := by
  rfl
@[simp] theorem State.postTrack_lines (e : TrackEvent) : (s.postTrack e).lines = s.lines := by
  rfl
@[simp] theorem State.postTrack_draws (e : TrackEvent) : (s.postTrack e).draws = s.draws := by
  rfl
@[simp] theorem State.postTrack_pending (e : TrackEvent) : (s.postTrack e).pending = s.pending := by
  rfl

/-! ### State.changeCauses -/

@[simp] theorem State.changeCauses_now (x : Byte) : (s.changeCauses x).now = s.now := by
  simp only [State.changeCauses]; split <;> simp
@[simp] theorem State.changeCauses_link (x : Byte) : (s.changeCauses x).link = s.link := by
  simp only [State.changeCauses]; split <;> simp
@[simp] theorem State.changeCauses_track (x : Byte) : (s.changeCauses x).track = s.track := by
  simp only [State.changeCauses]; split <;> simp
@[simp] theorem State.changeCauses_library (x : Byte) : (s.changeCauses x).library = s.library := by
  simp only [State.changeCauses]; split <;> simp
@[simp] theorem State.changeCauses_heads (x : Byte) : (s.changeCauses x).heads = s.heads := by
  simp only [State.changeCauses]; split <;> simp
@[simp] theorem State.changeCauses_statuses (x : Byte) : (s.changeCauses x).statuses = s.statuses := by
  simp only [State.changeCauses]; split <;> simp
@[simp] theorem State.changeCauses_gate (x : Byte) : (s.changeCauses x).gate = s.gate := by
  simp only [State.changeCauses]; split <;> simp
@[simp] theorem State.changeCauses_store (x : Byte) : (s.changeCauses x).store = s.store := by
  simp only [State.changeCauses]; split <;> simp
@[simp] theorem State.changeCauses_lines (x : Byte) : (s.changeCauses x).lines = s.lines := by
  simp only [State.changeCauses]; split <;> simp
@[simp] theorem State.changeCauses_draws (x : Byte) : (s.changeCauses x).draws = s.draws := by
  simp only [State.changeCauses]; split <;> simp
@[simp] theorem State.changeCauses_pending (x : Byte) : (s.changeCauses x).pending = s.pending := by
  simp only [State.changeCauses]; split <;> simp

/-! ### State.postCause -/

@[simp] theorem State.postCause_now (c : Cause) : (s.postCause c).now = s.now := by
  simp [State.postCause]
@[simp] theorem State.postCause_link (c : Cause) : (s.postCause c).link = s.link := by
  simp [State.postCause]
@[simp] theorem State.postCause_track (c : Cause) : (s.postCause c).track = s.track := by
  simp [State.postCause]
@[simp] theorem State.postCause_library (c : Cause) : (s.postCause c).library = s.library := by
  simp [State.postCause]
@[simp] theorem State.postCause_heads (c : Cause) : (s.postCause c).heads = s.heads := by
  simp [State.postCause]
@[simp] theorem State.postCause_statuses (c : Cause) : (s.postCause c).statuses = s.statuses := by
  simp [State.postCause]
@[simp] theorem State.postCause_gate (c : Cause) : (s.postCause c).gate = s.gate := by
  simp [State.postCause]
@[simp] theorem State.postCause_store (c : Cause) : (s.postCause c).store = s.store := by
  simp [State.postCause]
@[simp] theorem State.postCause_lines (c : Cause) : (s.postCause c).lines = s.lines := by
  simp [State.postCause]
@[simp] theorem State.postCause_draws (c : Cause) : (s.postCause c).draws = s.draws := by
  simp [State.postCause]
@[simp] theorem State.postCause_pending (c : Cause) : (s.postCause c).pending = s.pending := by
  simp [State.postCause]

/-! ### State.dropCause -/

@[simp] theorem State.dropCause_now (c : Cause) : (s.dropCause c).now = s.now := by
  simp [State.dropCause]
@[simp] theorem State.dropCause_link (c : Cause) : (s.dropCause c).link = s.link := by
  simp [State.dropCause]
@[simp] theorem State.dropCause_track (c : Cause) : (s.dropCause c).track = s.track := by
  simp [State.dropCause]
@[simp] theorem State.dropCause_library (c : Cause) : (s.dropCause c).library = s.library := by
  simp [State.dropCause]
@[simp] theorem State.dropCause_heads (c : Cause) : (s.dropCause c).heads = s.heads := by
  simp [State.dropCause]
@[simp] theorem State.dropCause_statuses (c : Cause) : (s.dropCause c).statuses = s.statuses := by
  simp [State.dropCause]
@[simp] theorem State.dropCause_gate (c : Cause) : (s.dropCause c).gate = s.gate := by
  simp [State.dropCause]
@[simp] theorem State.dropCause_store (c : Cause) : (s.dropCause c).store = s.store := by
  simp [State.dropCause]
@[simp] theorem State.dropCause_lines (c : Cause) : (s.dropCause c).lines = s.lines := by
  simp [State.dropCause]
@[simp] theorem State.dropCause_draws (c : Cause) : (s.dropCause c).draws = s.draws := by
  simp [State.dropCause]
@[simp] theorem State.dropCause_pending (c : Cause) : (s.dropCause c).pending = s.pending := by
  simp [State.dropCause]

/-! ### State.evalHeadSafe -/

@[simp] theorem State.evalHeadSafe_now : (s.evalHeadSafe).now = s.now := by
  unfold State.evalHeadSafe; split <;> simp
@[simp] theorem State.evalHeadSafe_link : (s.evalHeadSafe).link = s.link := by
  unfold State.evalHeadSafe; split <;> simp
@[simp] theorem State.evalHeadSafe_track : (s.evalHeadSafe).track = s.track := by
  unfold State.evalHeadSafe; split <;> simp
@[simp] theorem State.evalHeadSafe_library : (s.evalHeadSafe).library = s.library := by
  unfold State.evalHeadSafe; split <;> simp
@[simp] theorem State.evalHeadSafe_heads : (s.evalHeadSafe).heads = s.heads := by
  unfold State.evalHeadSafe; split <;> simp
@[simp] theorem State.evalHeadSafe_statuses : (s.evalHeadSafe).statuses = s.statuses := by
  unfold State.evalHeadSafe; split <;> simp
@[simp] theorem State.evalHeadSafe_gate : (s.evalHeadSafe).gate = s.gate := by
  unfold State.evalHeadSafe; split <;> simp
@[simp] theorem State.evalHeadSafe_store : (s.evalHeadSafe).store = s.store := by
  unfold State.evalHeadSafe; split <;> simp
@[simp] theorem State.evalHeadSafe_lines : (s.evalHeadSafe).lines = s.lines := by
  unfold State.evalHeadSafe; split <;> simp
@[simp] theorem State.evalHeadSafe_draws : (s.evalHeadSafe).draws = s.draws := by
  unfold State.evalHeadSafe; split <;> simp
@[simp] theorem State.evalHeadSafe_pending : (s.evalHeadSafe).pending = s.pending := by
  unfold State.evalHeadSafe; split <;> simp

/-! ### State.crossManifest -/

@[simp] theorem State.crossManifest_now (t : Track) : (s.crossManifest t).now = s.now := by
  simp only [State.crossManifest]; split <;> simp
@[simp] theorem State.crossManifest_link (t : Track) : (s.crossManifest t).link = s.link := by
  simp only [State.crossManifest]; split <;> simp
@[simp] theorem State.crossManifest_causes (t : Track) : (s.crossManifest t).causes = s.causes := by
  simp only [State.crossManifest]; split <;> simp
@[simp] theorem State.crossManifest_library (t : Track) : (s.crossManifest t).library = s.library := by
  simp only [State.crossManifest]; split <;> simp
@[simp] theorem State.crossManifest_heads (t : Track) : (s.crossManifest t).heads = s.heads := by
  simp only [State.crossManifest]; split <;> simp
@[simp] theorem State.crossManifest_statuses (t : Track) : (s.crossManifest t).statuses = s.statuses := by
  simp only [State.crossManifest]; split <;> simp
@[simp] theorem State.crossManifest_gate (t : Track) : (s.crossManifest t).gate = s.gate := by
  simp only [State.crossManifest]; split <;> simp
@[simp] theorem State.crossManifest_store (t : Track) : (s.crossManifest t).store = s.store := by
  simp only [State.crossManifest]; split <;> simp
@[simp] theorem State.crossManifest_lines (t : Track) : (s.crossManifest t).lines = s.lines := by
  simp only [State.crossManifest]; split <;> simp
@[simp] theorem State.crossManifest_draws (t : Track) : (s.crossManifest t).draws = s.draws := by
  simp only [State.crossManifest]; split <;> simp
@[simp] theorem State.crossManifest_pending (t : Track) : (s.crossManifest t).pending = s.pending := by
  simp only [State.crossManifest]; split <;> simp

/-! ### HeadEffect.apply -/

@[simp] theorem HeadEffect.apply_now (e : HeadEffect) : (HeadEffect.apply e s).now = s.now := by
  cases e <;> simp [HeadEffect.apply]
@[simp] theorem HeadEffect.apply_link (e : HeadEffect) : (HeadEffect.apply e s).link = s.link := by
  cases e <;> simp [HeadEffect.apply]
@[simp] theorem HeadEffect.apply_library (e : HeadEffect) : (HeadEffect.apply e s).library = s.library := by
  cases e <;> simp [HeadEffect.apply]
@[simp] theorem HeadEffect.apply_heads (e : HeadEffect) : (HeadEffect.apply e s).heads = s.heads := by
  cases e <;> simp [HeadEffect.apply]
@[simp] theorem HeadEffect.apply_statuses (e : HeadEffect) : (HeadEffect.apply e s).statuses = s.statuses := by
  cases e <;> simp [HeadEffect.apply]
@[simp] theorem HeadEffect.apply_gate (e : HeadEffect) : (HeadEffect.apply e s).gate = s.gate := by
  cases e <;> simp [HeadEffect.apply]
@[simp] theorem HeadEffect.apply_store (e : HeadEffect) : (HeadEffect.apply e s).store = s.store := by
  cases e <;> simp [HeadEffect.apply]
@[simp] theorem HeadEffect.apply_lines (e : HeadEffect) : (HeadEffect.apply e s).lines = s.lines := by
  cases e <;> simp [HeadEffect.apply]
@[simp] theorem HeadEffect.apply_draws (e : HeadEffect) : (HeadEffect.apply e s).draws = s.draws := by
  cases e <;> simp [HeadEffect.apply]
@[simp] theorem HeadEffect.apply_pending (e : HeadEffect) : (HeadEffect.apply e s).pending = s.pending := by
  cases e <;> simp [HeadEffect.apply]

/-! ### applyEffects -/

@[simp] theorem applyEffects_now (l : List HeadEffect) : (applyEffects l s).now = s.now := by
  induction l generalizing s with
  | nil => rfl
  | cons e l ih => simp [applyEffects, ih]
@[simp] theorem applyEffects_link (l : List HeadEffect) : (applyEffects l s).link = s.link := by
  induction l generalizing s with
  | nil => rfl
  | cons e l ih => simp [applyEffects, ih]
@[simp] theorem applyEffects_library (l : List HeadEffect) : (applyEffects l s).library = s.library := by
  induction l generalizing s with
  | nil => rfl
  | cons e l ih => simp [applyEffects, ih]
@[simp] theorem applyEffects_heads (l : List HeadEffect) : (applyEffects l s).heads = s.heads := by
  induction l generalizing s with
  | nil => rfl
  | cons e l ih => simp [applyEffects, ih]
@[simp] theorem applyEffects_statuses (l : List HeadEffect) : (applyEffects l s).statuses = s.statuses := by
  induction l generalizing s with
  | nil => rfl
  | cons e l ih => simp [applyEffects, ih]
@[simp] theorem applyEffects_gate (l : List HeadEffect) : (applyEffects l s).gate = s.gate := by
  induction l generalizing s with
  | nil => rfl
  | cons e l ih => simp [applyEffects, ih]
@[simp] theorem applyEffects_store (l : List HeadEffect) : (applyEffects l s).store = s.store := by
  induction l generalizing s with
  | nil => rfl
  | cons e l ih => simp [applyEffects, ih]
@[simp] theorem applyEffects_lines (l : List HeadEffect) : (applyEffects l s).lines = s.lines := by
  induction l generalizing s with
  | nil => rfl
  | cons e l ih => simp [applyEffects, ih]
@[simp] theorem applyEffects_draws (l : List HeadEffect) : (applyEffects l s).draws = s.draws := by
  induction l generalizing s with
  | nil => rfl
  | cons e l ih => simp [applyEffects, ih]
@[simp] theorem applyEffects_pending (l : List HeadEffect) : (applyEffects l s).pending = s.pending := by
  induction l generalizing s with
  | nil => rfl
  | cons e l ih => simp [applyEffects, ih]

/-! ### State.actHead -/

@[simp] theorem State.actHead_now (h : Fin 16) (f : HeadCtx → HeadCtx) : (s.actHead h f).now = s.now := by
  simp only [State.actHead]; split <;> simp
@[simp] theorem State.actHead_link (h : Fin 16) (f : HeadCtx → HeadCtx) : (s.actHead h f).link = s.link := by
  simp only [State.actHead]; split <;> simp
@[simp] theorem State.actHead_library (h : Fin 16) (f : HeadCtx → HeadCtx) : (s.actHead h f).library = s.library := by
  simp only [State.actHead]; split <;> simp
@[simp] theorem State.actHead_gate (h : Fin 16) (f : HeadCtx → HeadCtx) : (s.actHead h f).gate = s.gate := by
  simp only [State.actHead]; split <;> simp
@[simp] theorem State.actHead_store (h : Fin 16) (f : HeadCtx → HeadCtx) : (s.actHead h f).store = s.store := by
  simp only [State.actHead]; split <;> simp
@[simp] theorem State.actHead_lines (h : Fin 16) (f : HeadCtx → HeadCtx) : (s.actHead h f).lines = s.lines := by
  simp only [State.actHead]; split <;> simp
@[simp] theorem State.actHead_draws (h : Fin 16) (f : HeadCtx → HeadCtx) : (s.actHead h f).draws = s.draws := by
  simp only [State.actHead]; split <;> simp
@[simp] theorem State.actHead_pending (h : Fin 16) (f : HeadCtx → HeadCtx) : (s.actHead h f).pending = s.pending := by
  simp only [State.actHead]; split <;> simp

/-! ### State.actHeads -/

@[simp] theorem State.actHeads_now (f : Fin 16 → HeadCtx → HeadCtx) (l : List (Fin 16)) : (s.actHeads f l).now = s.now := by
  induction l generalizing s with
  | nil => rfl
  | cons e l ih => simp [State.actHeads, ih]
@[simp] theorem State.actHeads_link (f : Fin 16 → HeadCtx → HeadCtx) (l : List (Fin 16)) : (s.actHeads f l).link = s.link := by
  induction l generalizing s with
  | nil => rfl
  | cons e l ih => simp [State.actHeads, ih]
@[simp] theorem State.actHeads_library (f : Fin 16 → HeadCtx → HeadCtx) (l : List (Fin 16)) : (s.actHeads f l).library = s.library := by
  induction l generalizing s with
  | nil => rfl
  | cons e l ih => simp [State.actHeads, ih]
@[simp] theorem State.actHeads_gate (f : Fin 16 → HeadCtx → HeadCtx) (l : List (Fin 16)) : (s.actHeads f l).gate = s.gate := by
  induction l generalizing s with
  | nil => rfl
  | cons e l ih => simp [State.actHeads, ih]
@[simp] theorem State.actHeads_store (f : Fin 16 → HeadCtx → HeadCtx) (l : List (Fin 16)) : (s.actHeads f l).store = s.store := by
  induction l generalizing s with
  | nil => rfl
  | cons e l ih => simp [State.actHeads, ih]
@[simp] theorem State.actHeads_lines (f : Fin 16 → HeadCtx → HeadCtx) (l : List (Fin 16)) : (s.actHeads f l).lines = s.lines := by
  induction l generalizing s with
  | nil => rfl
  | cons e l ih => simp [State.actHeads, ih]
@[simp] theorem State.actHeads_draws (f : Fin 16 → HeadCtx → HeadCtx) (l : List (Fin 16)) : (s.actHeads f l).draws = s.draws := by
  induction l generalizing s with
  | nil => rfl
  | cons e l ih => simp [State.actHeads, ih]
@[simp] theorem State.actHeads_pending (f : Fin 16 → HeadCtx → HeadCtx) (l : List (Fin 16)) : (s.actHeads f l).pending = s.pending := by
  induction l generalizing s with
  | nil => rfl
  | cons e l ih => simp [State.actHeads, ih]

/-! ### State.divert -/

@[simp] theorem State.divert_now : (s.divert).now = s.now := by
  unfold State.divert; split <;> simp
@[simp] theorem State.divert_link : (s.divert).link = s.link := by
  unfold State.divert; split <;> simp
@[simp] theorem State.divert_causes : (s.divert).causes = s.causes := by
  unfold State.divert; split <;> simp
@[simp] theorem State.divert_trackStatus : (s.divert).trackStatus = s.trackStatus := by
  unfold State.divert; split <;> simp
@[simp] theorem State.divert_library : (s.divert).library = s.library := by
  unfold State.divert; split <;> simp
@[simp] theorem State.divert_heads : (s.divert).heads = s.heads := by
  unfold State.divert; split <;> simp
@[simp] theorem State.divert_statuses : (s.divert).statuses = s.statuses := by
  unfold State.divert; split <;> simp
@[simp] theorem State.divert_store : (s.divert).store = s.store := by
  unfold State.divert; split <;> simp
@[simp] theorem State.divert_lines : (s.divert).lines = s.lines := by
  unfold State.divert; split <;> simp
@[simp] theorem State.divert_draws : (s.divert).draws = s.draws := by
  unfold State.divert; split <;> simp
@[simp] theorem State.divert_pending : (s.divert).pending = s.pending := by
  unfold State.divert; split <;> simp

/-! ### State.gateArrival -/

@[simp] theorem State.gateArrival_now (n : Nest) : (s.gateArrival n).now = s.now := by
  unfold State.gateArrival; (repeat' split) <;> simp
@[simp] theorem State.gateArrival_link (n : Nest) : (s.gateArrival n).link = s.link := by
  unfold State.gateArrival; (repeat' split) <;> simp
@[simp] theorem State.gateArrival_causes (n : Nest) : (s.gateArrival n).causes = s.causes := by
  unfold State.gateArrival; (repeat' split) <;> simp
@[simp] theorem State.gateArrival_trackStatus (n : Nest) : (s.gateArrival n).trackStatus = s.trackStatus := by
  unfold State.gateArrival; (repeat' split) <;> simp
@[simp] theorem State.gateArrival_library (n : Nest) : (s.gateArrival n).library = s.library := by
  unfold State.gateArrival; (repeat' split) <;> simp
@[simp] theorem State.gateArrival_heads (n : Nest) : (s.gateArrival n).heads = s.heads := by
  unfold State.gateArrival; (repeat' split) <;> simp
@[simp] theorem State.gateArrival_statuses (n : Nest) : (s.gateArrival n).statuses = s.statuses := by
  unfold State.gateArrival; (repeat' split) <;> simp
@[simp] theorem State.gateArrival_store (n : Nest) : (s.gateArrival n).store = s.store := by
  unfold State.gateArrival; (repeat' split) <;> simp
@[simp] theorem State.gateArrival_lines (n : Nest) : (s.gateArrival n).lines = s.lines := by
  unfold State.gateArrival; (repeat' split) <;> simp
@[simp] theorem State.gateArrival_draws (n : Nest) : (s.gateArrival n).draws = s.draws := by
  unfold State.gateArrival; (repeat' split) <;> simp
@[simp] theorem State.gateArrival_pending (n : Nest) : (s.gateArrival n).pending = s.pending := by
  unfold State.gateArrival; (repeat' split) <;> simp

/-! ### State.windowEnd -/

@[simp] theorem State.windowEnd_now (a : GateActivity) : (s.windowEnd a).now = s.now := by
  simp only [State.windowEnd]; split <;> simp
@[simp] theorem State.windowEnd_link (a : GateActivity) : (s.windowEnd a).link = s.link := by
  simp only [State.windowEnd]; split <;> simp
@[simp] theorem State.windowEnd_library (a : GateActivity) : (s.windowEnd a).library = s.library := by
  simp only [State.windowEnd]; split <;> simp
@[simp] theorem State.windowEnd_heads (a : GateActivity) : (s.windowEnd a).heads = s.heads := by
  simp only [State.windowEnd]; split <;> simp
@[simp] theorem State.windowEnd_statuses (a : GateActivity) : (s.windowEnd a).statuses = s.statuses := by
  simp only [State.windowEnd]; split <;> simp
@[simp] theorem State.windowEnd_store (a : GateActivity) : (s.windowEnd a).store = s.store := by
  simp only [State.windowEnd]; split <;> simp
@[simp] theorem State.windowEnd_lines (a : GateActivity) : (s.windowEnd a).lines = s.lines := by
  simp only [State.windowEnd]; split <;> simp
@[simp] theorem State.windowEnd_draws (a : GateActivity) : (s.windowEnd a).draws = s.draws := by
  simp only [State.windowEnd]; split <;> simp
@[simp] theorem State.windowEnd_pending (a : GateActivity) : (s.windowEnd a).pending = s.pending := by
  simp only [State.windowEnd]; split <;> simp

/-! ### State.gateIndexStart -/

@[simp] theorem State.gateIndexStart_now : (s.gateIndexStart).now = s.now := by
  unfold State.gateIndexStart; (repeat' split) <;> simp
@[simp] theorem State.gateIndexStart_link : (s.gateIndexStart).link = s.link := by
  unfold State.gateIndexStart; (repeat' split) <;> simp
@[simp] theorem State.gateIndexStart_library : (s.gateIndexStart).library = s.library := by
  unfold State.gateIndexStart; (repeat' split) <;> simp
@[simp] theorem State.gateIndexStart_heads : (s.gateIndexStart).heads = s.heads := by
  unfold State.gateIndexStart; (repeat' split) <;> simp
@[simp] theorem State.gateIndexStart_statuses : (s.gateIndexStart).statuses = s.statuses := by
  unfold State.gateIndexStart; (repeat' split) <;> simp
@[simp] theorem State.gateIndexStart_store : (s.gateIndexStart).store = s.store := by
  unfold State.gateIndexStart; (repeat' split) <;> simp
@[simp] theorem State.gateIndexStart_lines : (s.gateIndexStart).lines = s.lines := by
  unfold State.gateIndexStart; (repeat' split) <;> simp
@[simp] theorem State.gateIndexStart_draws : (s.gateIndexStart).draws = s.draws := by
  unfold State.gateIndexStart; (repeat' split) <;> simp
@[simp] theorem State.gateIndexStart_pending : (s.gateIndexStart).pending = s.pending := by
  unfold State.gateIndexStart; (repeat' split) <;> simp

/-! ### State.discharge -/

@[simp] theorem State.discharge_now (n : Nest) : (s.discharge n).now = s.now := by
  simp only [State.discharge]; split <;> simp
@[simp] theorem State.discharge_link (n : Nest) : (s.discharge n).link = s.link := by
  simp only [State.discharge]; split <;> simp
@[simp] theorem State.discharge_library (n : Nest) : (s.discharge n).library = s.library := by
  simp only [State.discharge]; split <;> simp
@[simp] theorem State.discharge_heads (n : Nest) : (s.discharge n).heads = s.heads := by
  simp only [State.discharge]; split <;> simp
@[simp] theorem State.discharge_statuses (n : Nest) : (s.discharge n).statuses = s.statuses := by
  simp only [State.discharge]; split <;> simp
@[simp] theorem State.discharge_gate (n : Nest) : (s.discharge n).gate = s.gate := by
  simp only [State.discharge]; split <;> simp
@[simp] theorem State.discharge_store (n : Nest) : (s.discharge n).store = s.store := by
  simp only [State.discharge]; split <;> simp
@[simp] theorem State.discharge_lines (n : Nest) : (s.discharge n).lines = s.lines := by
  simp only [State.discharge]; split <;> simp
@[simp] theorem State.discharge_draws (n : Nest) : (s.discharge n).draws = s.draws := by
  simp only [State.discharge]; split <;> simp
@[simp] theorem State.discharge_pending (n : Nest) : (s.discharge n).pending = s.pending := by
  simp only [State.discharge]; split <;> simp

/-! ### dischargeAll -/

@[simp] theorem dischargeAll_now (l : List Nest) : (dischargeAll l s).now = s.now := by
  induction l generalizing s with
  | nil => rfl
  | cons e l ih => simp [dischargeAll, ih]
@[simp] theorem dischargeAll_link (l : List Nest) : (dischargeAll l s).link = s.link := by
  induction l generalizing s with
  | nil => rfl
  | cons e l ih => simp [dischargeAll, ih]
@[simp] theorem dischargeAll_library (l : List Nest) : (dischargeAll l s).library = s.library := by
  induction l generalizing s with
  | nil => rfl
  | cons e l ih => simp [dischargeAll, ih]
@[simp] theorem dischargeAll_heads (l : List Nest) : (dischargeAll l s).heads = s.heads := by
  induction l generalizing s with
  | nil => rfl
  | cons e l ih => simp [dischargeAll, ih]
@[simp] theorem dischargeAll_statuses (l : List Nest) : (dischargeAll l s).statuses = s.statuses := by
  induction l generalizing s with
  | nil => rfl
  | cons e l ih => simp [dischargeAll, ih]
@[simp] theorem dischargeAll_gate (l : List Nest) : (dischargeAll l s).gate = s.gate := by
  induction l generalizing s with
  | nil => rfl
  | cons e l ih => simp [dischargeAll, ih]
@[simp] theorem dischargeAll_store (l : List Nest) : (dischargeAll l s).store = s.store := by
  induction l generalizing s with
  | nil => rfl
  | cons e l ih => simp [dischargeAll, ih]
@[simp] theorem dischargeAll_lines (l : List Nest) : (dischargeAll l s).lines = s.lines := by
  induction l generalizing s with
  | nil => rfl
  | cons e l ih => simp [dischargeAll, ih]
@[simp] theorem dischargeAll_draws (l : List Nest) : (dischargeAll l s).draws = s.draws := by
  induction l generalizing s with
  | nil => rfl
  | cons e l ih => simp [dischargeAll, ih]
@[simp] theorem dischargeAll_pending (l : List Nest) : (dischargeAll l s).pending = s.pending := by
  induction l generalizing s with
  | nil => rfl
  | cons e l ih => simp [dischargeAll, ih]

/-! ### State.entry -/

@[simp] theorem State.entry_now : (s.entry).now = s.now := by
  unfold State.entry; split <;> (try split) <;> simp
@[simp] theorem State.entry_link : (s.entry).link = s.link := by
  unfold State.entry; split <;> (try split) <;> simp
@[simp] theorem State.entry_library : (s.entry).library = s.library := by
  unfold State.entry; split <;> (try split) <;> simp
@[simp] theorem State.entry_heads : (s.entry).heads = s.heads := by
  unfold State.entry; split <;> (try split) <;> simp
@[simp] theorem State.entry_statuses : (s.entry).statuses = s.statuses := by
  unfold State.entry; split <;> (try split) <;> simp
@[simp] theorem State.entry_gate : (s.entry).gate = s.gate := by
  unfold State.entry; split <;> (try split) <;> simp
@[simp] theorem State.entry_store : (s.entry).store = s.store := by
  unfold State.entry; split <;> (try split) <;> simp
@[simp] theorem State.entry_lines : (s.entry).lines = s.lines := by
  unfold State.entry; split <;> (try split) <;> simp
@[simp] theorem State.entry_draws : (s.entry).draws = s.draws := by
  unfold State.entry; split <;> (try split) <;> simp
@[simp] theorem State.entry_pending : (s.entry).pending = s.pending := by
  unfold State.entry; split <;> (try split) <;> simp

/-! ### State.noHeads -/

@[simp] theorem State.noHeads_now (st : Station) (n : Nest) : (s.noHeads st n).now = s.now := by
  rfl
@[simp] theorem State.noHeads_link (st : Station) (n : Nest) : (s.noHeads st n).link = s.link := by
  rfl
@[simp] theorem State.noHeads_causes (st : Station) (n : Nest) : (s.noHeads st n).causes = s.causes := by
  rfl
@[simp] theorem State.noHeads_trackStatus (st : Station) (n : Nest) : (s.noHeads st n).trackStatus = s.trackStatus := by
  rfl
@[simp] theorem State.noHeads_library (st : Station) (n : Nest) : (s.noHeads st n).library = s.library := by
  rfl
@[simp] theorem State.noHeads_heads (st : Station) (n : Nest) : (s.noHeads st n).heads = s.heads := by
  rfl
@[simp] theorem State.noHeads_statuses (st : Station) (n : Nest) : (s.noHeads st n).statuses = s.statuses := by
  rfl
@[simp] theorem State.noHeads_gate (st : Station) (n : Nest) : (s.noHeads st n).gate = s.gate := by
  rfl
@[simp] theorem State.noHeads_store (st : Station) (n : Nest) : (s.noHeads st n).store = s.store := by
  rfl
@[simp] theorem State.noHeads_lines (st : Station) (n : Nest) : (s.noHeads st n).lines = s.lines := by
  rfl
@[simp] theorem State.noHeads_draws (st : Station) (n : Nest) : (s.noHeads st n).draws = s.draws := by
  rfl
@[simp] theorem State.noHeads_pending (st : Station) (n : Nest) : (s.noHeads st n).pending = s.pending := by
  rfl

/-! ### State.stationArrival -/

@[simp] theorem State.stationArrival_now (st : Station) (n : Nest) : (s.stationArrival st n).now = s.now := by
  simp [State.stationArrival]
@[simp] theorem State.stationArrival_link (st : Station) (n : Nest) : (s.stationArrival st n).link = s.link := by
  simp [State.stationArrival]
@[simp] theorem State.stationArrival_library (st : Station) (n : Nest) : (s.stationArrival st n).library = s.library := by
  simp [State.stationArrival]
@[simp] theorem State.stationArrival_gate (st : Station) (n : Nest) : (s.stationArrival st n).gate = s.gate := by
  simp [State.stationArrival]
@[simp] theorem State.stationArrival_store (st : Station) (n : Nest) : (s.stationArrival st n).store = s.store := by
  simp [State.stationArrival]
@[simp] theorem State.stationArrival_lines (st : Station) (n : Nest) : (s.stationArrival st n).lines = s.lines := by
  simp [State.stationArrival]
@[simp] theorem State.stationArrival_draws (st : Station) (n : Nest) : (s.stationArrival st n).draws = s.draws := by
  simp [State.stationArrival]
@[simp] theorem State.stationArrival_pending (st : Station) (n : Nest) : (s.stationArrival st n).pending = s.pending := by
  simp [State.stationArrival]

/-! ### State.withNestAt -/

@[simp] theorem State.withNestAt_now (p : Nat) (f : Nest → State → State)
    (hf : ∀ n s, (f n s).now = s.now) : (s.withNestAt p f).now = s.now := by
  unfold State.withNestAt; split <;> simp [hf]
@[simp] theorem State.withNestAt_link (p : Nat) (f : Nest → State → State)
    (hf : ∀ n s, (f n s).link = s.link) : (s.withNestAt p f).link = s.link := by
  unfold State.withNestAt; split <;> simp [hf]
@[simp] theorem State.withNestAt_track (p : Nat) (f : Nest → State → State)
    (hf : ∀ n s, (f n s).track = s.track) : (s.withNestAt p f).track = s.track := by
  unfold State.withNestAt; split <;> simp [hf]
@[simp] theorem State.withNestAt_causes (p : Nat) (f : Nest → State → State)
    (hf : ∀ n s, (f n s).causes = s.causes) : (s.withNestAt p f).causes = s.causes := by
  unfold State.withNestAt; split <;> simp [hf]
@[simp] theorem State.withNestAt_trackStatus (p : Nat) (f : Nest → State → State)
    (hf : ∀ n s, (f n s).trackStatus = s.trackStatus) : (s.withNestAt p f).trackStatus = s.trackStatus := by
  unfold State.withNestAt; split <;> simp [hf]
@[simp] theorem State.withNestAt_library (p : Nat) (f : Nest → State → State)
    (hf : ∀ n s, (f n s).library = s.library) : (s.withNestAt p f).library = s.library := by
  unfold State.withNestAt; split <;> simp [hf]
@[simp] theorem State.withNestAt_heads (p : Nat) (f : Nest → State → State)
    (hf : ∀ n s, (f n s).heads = s.heads) : (s.withNestAt p f).heads = s.heads := by
  unfold State.withNestAt; split <;> simp [hf]
@[simp] theorem State.withNestAt_statuses (p : Nat) (f : Nest → State → State)
    (hf : ∀ n s, (f n s).statuses = s.statuses) : (s.withNestAt p f).statuses = s.statuses := by
  unfold State.withNestAt; split <;> simp [hf]
@[simp] theorem State.withNestAt_gate (p : Nat) (f : Nest → State → State)
    (hf : ∀ n s, (f n s).gate = s.gate) : (s.withNestAt p f).gate = s.gate := by
  unfold State.withNestAt; split <;> simp [hf]
@[simp] theorem State.withNestAt_store (p : Nat) (f : Nest → State → State)
    (hf : ∀ n s, (f n s).store = s.store) : (s.withNestAt p f).store = s.store := by
  unfold State.withNestAt; split <;> simp [hf]
@[simp] theorem State.withNestAt_lines (p : Nat) (f : Nest → State → State)
    (hf : ∀ n s, (f n s).lines = s.lines) : (s.withNestAt p f).lines = s.lines := by
  unfold State.withNestAt; split <;> simp [hf]
@[simp] theorem State.withNestAt_draws (p : Nat) (f : Nest → State → State)
    (hf : ∀ n s, (f n s).draws = s.draws) : (s.withNestAt p f).draws = s.draws := by
  unfold State.withNestAt; split <;> simp [hf]
@[simp] theorem State.withNestAt_pending (p : Nat) (f : Nest → State → State)
    (hf : ∀ n s, (f n s).pending = s.pending) : (s.withNestAt p f).pending = s.pending := by
  unfold State.withNestAt; split <;> simp [hf]

/-! ### State.formArrival -/

@[simp] theorem State.formArrival_now : (s.formArrival).now = s.now := by
  unfold State.formArrival; split <;> simp
@[simp] theorem State.formArrival_link : (s.formArrival).link = s.link := by
  unfold State.formArrival; split <;> simp
@[simp] theorem State.formArrival_library : (s.formArrival).library = s.library := by
  unfold State.formArrival; split <;> simp
@[simp] theorem State.formArrival_gate : (s.formArrival).gate = s.gate := by
  unfold State.formArrival; split <;> simp
@[simp] theorem State.formArrival_store : (s.formArrival).store = s.store := by
  unfold State.formArrival; split <;> simp
@[simp] theorem State.formArrival_lines : (s.formArrival).lines = s.lines := by
  unfold State.formArrival; split <;> simp
@[simp] theorem State.formArrival_draws : (s.formArrival).draws = s.draws := by
  unfold State.formArrival; split <;> simp
@[simp] theorem State.formArrival_pending : (s.formArrival).pending = s.pending := by
  unfold State.formArrival; split <;> simp

/-! ### State.arrivals -/

@[simp] theorem State.arrivals_now : (s.arrivals).now = s.now := by
  simp [State.arrivals]
@[simp] theorem State.arrivals_link : (s.arrivals).link = s.link := by
  simp [State.arrivals]
@[simp] theorem State.arrivals_library : (s.arrivals).library = s.library := by
  simp [State.arrivals]
@[simp] theorem State.arrivals_store : (s.arrivals).store = s.store := by
  simp [State.arrivals]
@[simp] theorem State.arrivals_lines : (s.arrivals).lines = s.lines := by
  simp [State.arrivals]
@[simp] theorem State.arrivals_draws : (s.arrivals).draws = s.draws := by
  simp [State.arrivals]
@[simp] theorem State.arrivals_pending : (s.arrivals).pending = s.pending := by
  simp [State.arrivals]

/-! ### State.shift -/

@[simp] theorem State.shift_now : (s.shift).now = s.now := by
  simp [State.shift]
@[simp] theorem State.shift_link : (s.shift).link = s.link := by
  simp [State.shift]
@[simp] theorem State.shift_library : (s.shift).library = s.library := by
  simp [State.shift]
@[simp] theorem State.shift_store : (s.shift).store = s.store := by
  simp [State.shift]
@[simp] theorem State.shift_lines : (s.shift).lines = s.lines := by
  simp [State.shift]
@[simp] theorem State.shift_draws : (s.shift).draws = s.draws := by
  simp [State.shift]
@[simp] theorem State.shift_pending : (s.shift).pending = s.pending := by
  simp [State.shift]

/-! ### State.trackIndexStart -/

@[simp] theorem State.trackIndexStart_now : (s.trackIndexStart).now = s.now := by
  unfold State.trackIndexStart; split <;> simp
@[simp] theorem State.trackIndexStart_link : (s.trackIndexStart).link = s.link := by
  unfold State.trackIndexStart; split <;> simp
@[simp] theorem State.trackIndexStart_causes : (s.trackIndexStart).causes = s.causes := by
  unfold State.trackIndexStart; split <;> simp
@[simp] theorem State.trackIndexStart_library : (s.trackIndexStart).library = s.library := by
  unfold State.trackIndexStart; split <;> simp
@[simp] theorem State.trackIndexStart_heads : (s.trackIndexStart).heads = s.heads := by
  unfold State.trackIndexStart; split <;> simp
@[simp] theorem State.trackIndexStart_statuses : (s.trackIndexStart).statuses = s.statuses := by
  unfold State.trackIndexStart; split <;> simp
@[simp] theorem State.trackIndexStart_gate : (s.trackIndexStart).gate = s.gate := by
  unfold State.trackIndexStart; split <;> simp
@[simp] theorem State.trackIndexStart_store : (s.trackIndexStart).store = s.store := by
  unfold State.trackIndexStart; split <;> simp
@[simp] theorem State.trackIndexStart_lines : (s.trackIndexStart).lines = s.lines := by
  unfold State.trackIndexStart; split <;> simp
@[simp] theorem State.trackIndexStart_draws : (s.trackIndexStart).draws = s.draws := by
  unfold State.trackIndexStart; split <;> simp
@[simp] theorem State.trackIndexStart_pending : (s.trackIndexStart).pending = s.pending := by
  unfold State.trackIndexStart; split <;> simp

/-! ### State.takeIndexStart -/

@[simp] theorem State.takeIndexStart_now : (s.takeIndexStart).now = s.now := by
  simp [State.takeIndexStart]
@[simp] theorem State.takeIndexStart_link : (s.takeIndexStart).link = s.link := by
  simp [State.takeIndexStart]
@[simp] theorem State.takeIndexStart_library : (s.takeIndexStart).library = s.library := by
  simp [State.takeIndexStart]
@[simp] theorem State.takeIndexStart_store : (s.takeIndexStart).store = s.store := by
  simp [State.takeIndexStart]
@[simp] theorem State.takeIndexStart_lines : (s.takeIndexStart).lines = s.lines := by
  simp [State.takeIndexStart]
@[simp] theorem State.takeIndexStart_draws : (s.takeIndexStart).draws = s.draws := by
  simp [State.takeIndexStart]
@[simp] theorem State.takeIndexStart_pending : (s.takeIndexStart).pending = s.pending := by
  simp [State.takeIndexStart]

/-! ### State.takeIndexDone -/

@[simp] theorem State.takeIndexDone_now (m : TrackMode) : ((s.takeIndexDone m).1).now = s.now := by
  unfold State.takeIndexDone; split <;> (try split) <;> simp
@[simp] theorem State.takeIndexDone_link (m : TrackMode) : ((s.takeIndexDone m).1).link = s.link := by
  unfold State.takeIndexDone; split <;> (try split) <;> simp
@[simp] theorem State.takeIndexDone_library (m : TrackMode) : ((s.takeIndexDone m).1).library = s.library := by
  unfold State.takeIndexDone; split <;> (try split) <;> simp
@[simp] theorem State.takeIndexDone_store (m : TrackMode) : ((s.takeIndexDone m).1).store = s.store := by
  unfold State.takeIndexDone; split <;> (try split) <;> simp
@[simp] theorem State.takeIndexDone_lines (m : TrackMode) : ((s.takeIndexDone m).1).lines = s.lines := by
  unfold State.takeIndexDone; split <;> (try split) <;> simp
@[simp] theorem State.takeIndexDone_draws (m : TrackMode) : ((s.takeIndexDone m).1).draws = s.draws := by
  unfold State.takeIndexDone; split <;> (try split) <;> simp
@[simp] theorem State.takeIndexDone_pending (m : TrackMode) : ((s.takeIndexDone m).1).pending = s.pending := by
  unfold State.takeIndexDone; split <;> (try split) <;> simp

/-! ### State.stopTrack -/

@[simp] theorem State.stopTrack_now : (s.stopTrack).now = s.now := by
  simp [State.stopTrack]
@[simp] theorem State.stopTrack_link : (s.stopTrack).link = s.link := by
  simp [State.stopTrack]
@[simp] theorem State.stopTrack_library : (s.stopTrack).library = s.library := by
  simp [State.stopTrack]
@[simp] theorem State.stopTrack_store : (s.stopTrack).store = s.store := by
  simp [State.stopTrack]
@[simp] theorem State.stopTrack_lines : (s.stopTrack).lines = s.lines := by
  simp [State.stopTrack]
@[simp] theorem State.stopTrack_draws : (s.stopTrack).draws = s.draws := by
  simp [State.stopTrack]
@[simp] theorem State.stopTrack_pending : (s.stopTrack).pending = s.pending := by
  simp [State.stopTrack]

/-! ### State.endLoad -/

@[simp] theorem State.endLoad_now (l : List (Option CoeffItems)) : (s.endLoad l).now = s.now := by
  simp [State.endLoad]
@[simp] theorem State.endLoad_link (l : List (Option CoeffItems)) : (s.endLoad l).link = s.link := by
  simp [State.endLoad]
@[simp] theorem State.endLoad_library (l : List (Option CoeffItems)) : (s.endLoad l).library = s.library := by
  simp [State.endLoad]
@[simp] theorem State.endLoad_gate (l : List (Option CoeffItems)) : (s.endLoad l).gate = s.gate := by
  simp [State.endLoad]
@[simp] theorem State.endLoad_lines (l : List (Option CoeffItems)) : (s.endLoad l).lines = s.lines := by
  simp [State.endLoad]
@[simp] theorem State.endLoad_draws (l : List (Option CoeffItems)) : (s.endLoad l).draws = s.draws := by
  simp [State.endLoad]
@[simp] theorem State.endLoad_pending (l : List (Option CoeffItems)) : (s.endLoad l).pending = s.pending := by
  simp [State.endLoad]

/-! ### State.judgeRecord -/

@[simp] theorem State.judgeRecord_now (l : List (Option CoeffItems)) (d : Nat) : (s.judgeRecord l d).now = s.now := by
  unfold State.judgeRecord; split <;> simp
@[simp] theorem State.judgeRecord_link (l : List (Option CoeffItems)) (d : Nat) : (s.judgeRecord l d).link = s.link := by
  unfold State.judgeRecord; split <;> simp
@[simp] theorem State.judgeRecord_library (l : List (Option CoeffItems)) (d : Nat) : (s.judgeRecord l d).library = s.library := by
  unfold State.judgeRecord; split <;> simp
@[simp] theorem State.judgeRecord_gate (l : List (Option CoeffItems)) (d : Nat) : (s.judgeRecord l d).gate = s.gate := by
  unfold State.judgeRecord; split <;> simp
@[simp] theorem State.judgeRecord_lines (l : List (Option CoeffItems)) (d : Nat) : (s.judgeRecord l d).lines = s.lines := by
  unfold State.judgeRecord; split <;> simp
@[simp] theorem State.judgeRecord_draws (l : List (Option CoeffItems)) (d : Nat) : (s.judgeRecord l d).draws = s.draws := by
  unfold State.judgeRecord; split <;> simp
@[simp] theorem State.judgeRecord_pending (l : List (Option CoeffItems)) (d : Nat) : (s.judgeRecord l d).pending = s.pending := by
  unfold State.judgeRecord; split <;> simp

/-! ### State.endWrite -/

@[simp] theorem State.endWrite_now (h : Fin 16) (c : CoeffItems) : (s.endWrite h c).now = s.now := by
  simp [State.endWrite]
@[simp] theorem State.endWrite_link (h : Fin 16) (c : CoeffItems) : (s.endWrite h c).link = s.link := by
  simp [State.endWrite]
@[simp] theorem State.endWrite_library (h : Fin 16) (c : CoeffItems) : (s.endWrite h c).library = s.library := by
  simp [State.endWrite]
@[simp] theorem State.endWrite_gate (h : Fin 16) (c : CoeffItems) : (s.endWrite h c).gate = s.gate := by
  simp [State.endWrite]
@[simp] theorem State.endWrite_lines (h : Fin 16) (c : CoeffItems) : (s.endWrite h c).lines = s.lines := by
  simp [State.endWrite]
@[simp] theorem State.endWrite_draws (h : Fin 16) (c : CoeffItems) : (s.endWrite h c).draws = s.draws := by
  simp [State.endWrite]
@[simp] theorem State.endWrite_pending (h : Fin 16) (c : CoeffItems) : (s.endWrite h c).pending = s.pending := by
  simp [State.endWrite]

/-! ### State.softReset -/

@[simp] theorem State.softReset_now : (s.softReset).now = s.now := by
  rfl
@[simp] theorem State.softReset_library : (s.softReset).library = s.library := by
  rfl
@[simp] theorem State.softReset_lines : (s.softReset).lines = s.lines := by
  rfl
@[simp] theorem State.softReset_draws : (s.softReset).draws = s.draws := by
  rfl
@[simp] theorem State.softReset_pending : (s.softReset).pending = s.pending := by
  rfl

/-! ### State.removeReport -/

@[simp] theorem State.removeReport_now : (s.removeReport).now = s.now := by
  simp only [State.removeReport]; split <;> simp
@[simp] theorem State.removeReport_link : (s.removeReport).link = s.link := by
  simp only [State.removeReport]; split <;> simp
@[simp] theorem State.removeReport_library : (s.removeReport).library = s.library := by
  simp only [State.removeReport]; split <;> simp
@[simp] theorem State.removeReport_heads : (s.removeReport).heads = s.heads := by
  simp only [State.removeReport]; split <;> simp
@[simp] theorem State.removeReport_statuses : (s.removeReport).statuses = s.statuses := by
  simp only [State.removeReport]; split <;> simp
@[simp] theorem State.removeReport_gate : (s.removeReport).gate = s.gate := by
  simp only [State.removeReport]; split <;> simp
@[simp] theorem State.removeReport_store : (s.removeReport).store = s.store := by
  simp only [State.removeReport]; split <;> simp
@[simp] theorem State.removeReport_lines : (s.removeReport).lines = s.lines := by
  simp only [State.removeReport]; split <;> simp
@[simp] theorem State.removeReport_draws : (s.removeReport).draws = s.draws := by
  simp only [State.removeReport]; split <;> simp
@[simp] theorem State.removeReport_pending : (s.removeReport).pending = s.pending := by
  simp only [State.removeReport]; split <;> simp

/-! ### State.endMessage -/

@[simp] theorem State.endMessage_now (src : Source) : (s.endMessage src).now = s.now := by
  cases src <;> simp [State.endMessage]
@[simp] theorem State.endMessage_library (src : Source) : (s.endMessage src).library = s.library := by
  cases src <;> simp [State.endMessage]
@[simp] theorem State.endMessage_heads (src : Source) : (s.endMessage src).heads = s.heads := by
  cases src <;> simp [State.endMessage]
@[simp] theorem State.endMessage_statuses (src : Source) : (s.endMessage src).statuses = s.statuses := by
  cases src <;> simp [State.endMessage]
@[simp] theorem State.endMessage_gate (src : Source) : (s.endMessage src).gate = s.gate := by
  cases src <;> simp [State.endMessage]
@[simp] theorem State.endMessage_store (src : Source) : (s.endMessage src).store = s.store := by
  cases src <;> simp [State.endMessage]
@[simp] theorem State.endMessage_lines (src : Source) : (s.endMessage src).lines = s.lines := by
  cases src <;> simp [State.endMessage]
@[simp] theorem State.endMessage_draws (src : Source) : (s.endMessage src).draws = s.draws := by
  cases src <;> simp [State.endMessage]
@[simp] theorem State.endMessage_pending (src : Source) : (s.endMessage src).pending = s.pending := by
  cases src <;> simp [State.endMessage]

end Sys2Proof.Machine
end

