-- ==== Sys2Proof/Laws/Acts.lean ====
section
/-! SUPPORT. What one head's act does to the device: its own record and status record, the pack it refers to, and nothing
else. -/

namespace Sys2Proof.Machine

variable {s t : State}

/-! ### One record replaced -/

@[simp] theorem State.putHead_head_self (h : Fin 16) (x : Head) : (s.putHead h x).head h = x := by
  simp [State.head]

theorem State.putHead_head_of_ne {h h' : Fin 16} (x : Head) (ne : h' ≠ h) : (s.putHead h x).head h' = s.head h' := by
  simp [State.head, Bank.get_set_of_ne _ x ne]

@[simp] theorem State.putStatus_head (h h' : Fin 16) (y : HeadStatus) : (s.putStatus h y).head h' = s.head h' := rfl

@[simp] theorem State.putHead_status (h h' : Fin 16) (x : Head) : (s.putHead h x).status h' = s.status h' := rfl

@[simp] theorem State.putStatus_status_self (h : Fin 16) (y : HeadStatus) : (s.putStatus h y).status h = y := by
  simp [State.status]

theorem State.putStatus_status_of_ne {h h' : Fin 16} (y : HeadStatus) (ne : h' ≠ h) :
    (s.putStatus h y).status h' = s.status h' := by
  simp [State.status, Bank.get_set_of_ne _ y ne]

@[simp] theorem State.putHead_same (h : Fin 16) : s.putHead h (s.head h) = s := by
  simp [State.putHead, State.head, State.setHeads]

@[simp] theorem State.putStatus_same (h : Fin 16) : s.putStatus h (s.status h) = s := by
  simp [State.putStatus, State.status, State.setStatuses]

@[simp] theorem State.withHead_now (h : Fin 16) (x : Head) (y : HeadStatus) : (s.withHead h x y).now = s.now := rfl
@[simp] theorem State.withHead_link (h : Fin 16) (x : Head) (y : HeadStatus) : (s.withHead h x y).link = s.link := rfl
@[simp] theorem State.withHead_track (h : Fin 16) (x : Head) (y : HeadStatus) : (s.withHead h x y).track = s.track := rfl
@[simp] theorem State.withHead_causes (h : Fin 16) (x : Head) (y : HeadStatus) : (s.withHead h x y).causes = s.causes := rfl
@[simp] theorem State.withHead_trackStatus (h : Fin 16) (x : Head) (y : HeadStatus) : (s.withHead h x y).trackStatus = s.trackStatus := rfl
@[simp] theorem State.withHead_library (h : Fin 16) (x : Head) (y : HeadStatus) : (s.withHead h x y).library = s.library := rfl
@[simp] theorem State.withHead_gate (h : Fin 16) (x : Head) (y : HeadStatus) : (s.withHead h x y).gate = s.gate := rfl
@[simp] theorem State.withHead_store (h : Fin 16) (x : Head) (y : HeadStatus) : (s.withHead h x y).store = s.store := rfl
@[simp] theorem State.withHead_lines (h : Fin 16) (x : Head) (y : HeadStatus) : (s.withHead h x y).lines = s.lines := rfl
@[simp] theorem State.withHead_draws (h : Fin 16) (x : Head) (y : HeadStatus) : (s.withHead h x y).draws = s.draws := rfl
@[simp] theorem State.withHead_pending (h : Fin 16) (x : Head) (y : HeadStatus) : (s.withHead h x y).pending = s.pending := rfl
@[simp] theorem State.withHead_heads (h : Fin 16) (x : Head) (y : HeadStatus) :
    (s.withHead h x y).heads = s.heads.set h x := rfl
@[simp] theorem State.withHead_statuses (h : Fin 16) (x : Head) (y : HeadStatus) :
    (s.withHead h x y).statuses = s.statuses.set h y := rfl
@[simp] theorem State.withHead_status_same (h : Fin 16) (x : Head) : s.withHead h x (s.status h) = s.putHead h x := by
  have e : s.status h = (s.putHead h x).status h := rfl
  rw [State.withHead, e, State.putStatus_same]

/-! ### Packs (R15) -/

@[simp] theorem State.packsKept_refl (named : Nat → Fin 8 → Prop) : State.packsKept named s s :=
  ⟨rfl, fun _ => ⟨id, fun n e => ⟨n, e, rfl, fun _ _ => rfl⟩⟩⟩

theorem State.packsKept_trans {u : State} {named : Nat → Fin 8 → Prop} (a : State.packsKept named s t)
    (b : State.packsKept named t u) : State.packsKept named s u := by
  refine ⟨b.1.trans a.1, fun p => ⟨fun e => (b.2 p).1 ((a.2 p).1 e), fun n e => ?_⟩⟩
  obtain ⟨n1, e1, f1, g1⟩ := (a.2 p).2 n e
  obtain ⟨n2, e2, f2, g2⟩ := (b.2 p).2 n1 e1
  have hs : n1.serial = n.serial := by rw [← f1]
  refine ⟨n2, e2, ?_, fun lane no => ?_⟩
  · rw [← f1, ← f2]
  · rw [g2 lane (hs ▸ no), g1 lane no]

theorem Track.nestAt_updateNest (t : Track) (serial : Nat) (f : Nest → Nest) (p : Nat) :
    (t.updateNest serial f).nestAt p = (t.nestAt p).map fun n => if n.serial = serial then f n else n := by
  simp only [Track.nestAt, Track.updateNest, List.getElem?_map]
  rcases t.slots[p]? with _ | _ | n <;> rfl

@[simp] theorem Nest.updatePack_serial (lane : Fin 8) (f : Pack → Pack) (n : Nest) :
    (n.updatePack lane f).serial = n.serial := rfl

theorem State.packsKept_updatePack {named : Nat → Fin 8 → Prop} {serial : Nat} {lane : Fin 8} (f : Pack → Pack)
    (h : named serial lane) : State.packsKept named s (s.setTrack (s.track.updatePack serial lane f)) := by
  refine ⟨by simp [Track.updatePack, Track.updateNest], fun p => ?_⟩
  simp only [State.setTrack_track, Track.updatePack, Track.nestAt_updateNest]
  refine ⟨fun e => by simp [e], fun n e => ⟨_, by rw [e]; rfl, ?_, fun l no => ?_⟩⟩
  · dsimp only; split <;> rfl
  · dsimp only
    split
    · rename_i hs
      have : l ≠ lane := fun e => no (by rw [hs, e]; exact h)
      simp [Nest.updatePack, Lanes.get_modify, this]
    · rfl

theorem findNestFrom_map (serial k : Nat) (f : Nest → Nest) (hf : ∀ n, (f n).serial = n.serial) (l : List (Option Nest))
    (i : Nat) :
    findNestFrom serial i (l.map (Option.map fun n => if n.serial = k then f n else n)) =
      (findNestFrom serial i l).map fun x => (x.1, if x.2.serial = k then f x.2 else x.2) := by
  induction l generalizing i with
  | nil => rfl
  | cons o rest ih =>
    rcases o with _ | n
    · simpa [findNestFrom] using ih (i + 1)
    · have hn : (if n.serial = k then f n else n).serial = n.serial := by split <;> simp [hf]
      simp only [List.map_cons, Option.map_some, findNestFrom, hn]
      split
      · rfl
      · exact ih (i + 1)

/-- What is found by serial number after a write addressed by serial number. -/
theorem Track.find_updateNest (t : Track) (serial k : Nat) (f : Nest → Nest) (hf : ∀ n, (f n).serial = n.serial) :
    (t.updateNest k f).find serial = (t.find serial).map fun x => (x.1, if x.2.serial = k then f x.2 else x.2) :=
  findNestFrom_map serial k f hf t.slots 0

theorem findNestFrom_serial {serial i : Nat} {l : List (Option Nest)} {x : Nat × Nest}
    (h : findNestFrom serial i l = some x) : x.2.serial = serial := by
  induction l generalizing i with
  | nil => cases h
  | cons o rest ih =>
    rcases o with _ | n
    · exact ih h
    · simp only [findNestFrom] at h
      split at h
      · cases h; assumption
      · exact ih h

theorem Track.find_serial {t : Track} {serial : Nat} {x : Nat × Nest} (h : t.find serial = some x) : x.2.serial = serial :=
  findNestFrom_serial h

/-- The pack of a reference after a write to a pack of the same serial number and lane. -/
theorem Track.packOf_updatePack_self (t : Track) (r : PackRef) (f : Pack → Pack) :
    (t.updatePack r.serial r.lane f).packOf r = (t.packOf r).map f := by
  have e1 := Track.find_updateNest t r.serial r.serial (Nest.updatePack r.lane f) (fun _ => rfl)
  simp only [Track.packOf, Track.updatePack, e1]
  rcases e : t.find r.serial with _ | x
  · rfl
  · simp [Track.find_serial e, Nest.updatePack, Lanes.get_modify]

/-! ### Effects (R15, R18) -/

/-- The effects a head that holds a pack reference may have: on that pack, and PLATEN_STUCK. -/
def HeadEffect.within (ref : Option PackRef) : HeadEffect → Prop
  | .result r _ _ => ref = some r
  | .reasons serial lane _ => ∃ r, ref = some r ∧ r.serial = serial ∧ r.lane = lane
  | .cause c => c = .platenStuck

/-- Posts of one act: the enable mask stands, events join the changed set, and a notice becomes owed where an enabled one joins a set
that holds none (R159). -/
def TrackStatus.gains (u v : TrackStatus) : Prop :=
  v.enable = u.enable ∧ (∃ b, v.changed = u.changed ||| b) ∧
    v.owed = (u.owed || (u.changed &&& u.enable == 0 && v.changed &&& v.enable != 0))

@[simp] theorem TrackStatus.gains_refl (u : TrackStatus) : u.gains u := by
  refine ⟨rfl, ⟨0, by simp⟩, ?_⟩
  cases u.owed <;> simp

theorem TrackStatus.gains_trans {u v w : TrackStatus} (a : u.gains v) (b : v.gains w) : u.gains w := by
  obtain ⟨e1, ⟨b1, c1⟩, o1⟩ := a
  obtain ⟨e2, ⟨b2, c2⟩, o2⟩ := b
  refine ⟨e2.trans e1, ⟨b1 ||| b2, by rw [c2, c1, BitVec.or_assoc]⟩, ?_⟩
  have h1 : v.changed &&& v.enable = (u.changed &&& u.enable) ||| (b1 &&& u.enable) := by
    rw [c1, e1, BitVec.and_comm, BitVec.and_or_distrib_left, BitVec.and_comm, BitVec.and_comm u.enable b1]
  have h2 : w.changed &&& w.enable = (v.changed &&& v.enable) ||| (b2 &&& u.enable) := by
    rw [c2, e2, e1, BitVec.and_comm, BitVec.and_or_distrib_left, BitVec.and_comm, BitVec.and_comm u.enable b2]
  rw [o2, o1]
  have or0 : ∀ x y : Byte, x ||| y = 0#8 → x = 0#8 := fun x y h => (BitVec.or_eq_zero_iff.1 h).1
  by_cases z1 : v.changed &&& v.enable = 0#8
  · have z0 : u.changed &&& u.enable = 0#8 := or0 _ _ (h1 ▸ z1)
    simp only [z1, z0]
    cases u.owed <;> simp
  · have z2 : w.changed &&& w.enable ≠ 0#8 := fun z => z1 (or0 _ _ (h2 ▸ z))
    have z1' : (v.changed &&& v.enable == 0) = false := by simpa using z1
    have z2' : (w.changed &&& w.enable == 0) = false := by simpa using z2
    simp only [bne, z1', z2']
    cases u.owed <;> simp

theorem TrackStatus.post_gains (u : TrackStatus) (e : TrackEvent) : u.gains (u.post e) := by
  refine ⟨rfl, ⟨_, rfl⟩, ?_⟩
  simp only [TrackStatus.post, BitSet.add]
  by_cases z0 : u.changed &&& u.enable = 0#8
  · have h : (u.changed ||| BitVec.twoPow 8 e.bit) &&& u.enable = u.enable &&& BitVec.twoPow 8 e.bit := by
      rw [BitVec.and_comm, BitVec.and_or_distrib_left, BitVec.and_comm u.enable u.changed, z0, BitVec.zero_or]
    rw [h, BitSet.has, BitVec.and_twoPow]
    have : BitVec.twoPow 8 e.bit ≠ 0#8 := by cases e <;> decide
    cases hg : u.enable.getLsbD e.bit <;> simp [z0, this]
  · have z0' : (u.changed &&& u.enable == 0) = false := by simpa using z0
    rw [z0']; simp

theorem State.noticeFollows_of {s t : State} (h : s.trackStatus.gains t.trackStatus) : s.noticeFollows t := h.2.2

/-- What a change of the cause set does: the set, and HOLD_CHANGED when the output changes level (R21). -/
theorem State.changeCauses_causes (x : Byte) : (s.changeCauses x).causes = x := by
  simp only [State.changeCauses]; split <;> rfl

theorem State.changeCauses_trackStatus (x : Byte) :
    (s.changeCauses x).trackStatus =
      if (x = 0 ↔ s.causes = 0) then s.trackStatus else s.trackStatus.post .holdChanged := by
  simp only [State.changeCauses, State.holdAsserted, State.setCauseSet_causes]
  have e : ((x != 0) = (s.causes != 0)) ↔ (x = 0 ↔ s.causes = 0) := by
    rw [Bool.eq_iff_iff]
    by_cases h1 : x = 0 <;> by_cases h2 : s.causes = 0 <;> simp_all
  simp only [e]
  split <;> rfl

theorem TrackStatus.post_holdChanged_changed (u : TrackStatus) : (u.post .holdChanged).changed &&& 0xEF = u.changed &&& 0xEF := by
  simp only [TrackStatus.post, BitSet.add, TrackEvent.bit]
  generalize u.changed = x
  apply BitVec.eq_of_getLsbD_eq
  intro i hi
  have : i = 0 ∨ i = 1 ∨ i = 2 ∨ i = 3 ∨ i = 4 ∨ i = 5 ∨ i = 6 ∨ i = 7 := by omega
  rcases this with rfl | rfl | rfl | rfl | rfl | rfl | rfl | rfl <;> simp

theorem State.changeCauses_status (x : Byte) :
    s.trackStatus.gains (s.changeCauses x).trackStatus ∧
      (s.changeCauses x).trackStatus.changed &&& 0xEF = s.trackStatus.changed &&& 0xEF := by
  rw [State.changeCauses_trackStatus]
  split
  · exact ⟨TrackStatus.gains_refl _, rfl⟩
  · exact ⟨TrackStatus.post_gains _ _, TrackStatus.post_holdChanged_changed _⟩

/-! ### The causes of one act (R18, R19, R21) -/

/-- A step of one act in which causes only join: HOLD_CHANGED follows the output, and no other track event is posted. -/
def State.joins (b : Byte) (s t : State) : Prop :=
  t.causes = s.causes ||| b ∧ s.trackStatus.gains t.trackStatus ∧ s.holdFollows t ∧
    t.trackStatus.changed &&& 0xEF = s.trackStatus.changed &&& 0xEF

theorem State.joins_refl (s : State) : s.joins 0 s :=
  ⟨by simp, TrackStatus.gains_refl _, by simp [State.holdFollows], rfl⟩

theorem State.joins_trans {b c : Byte} {u : State} (x : s.joins b t) (y : t.joins c u) : s.joins (b ||| c) u := by
  obtain ⟨x1, x2, x3, x4⟩ := x
  obtain ⟨y1, y2, y3, y4⟩ := y
  refine ⟨by rw [y1, x1, BitVec.or_assoc], TrackStatus.gains_trans x2 y2, ?_, y4.trans x4⟩
  have ht : t.causes = 0#8 → s.causes = 0#8 := fun e => (BitVec.or_eq_zero_iff.1 (x1 ▸ e)).1
  have hu : u.causes = 0#8 → t.causes = 0#8 := fun e => (BitVec.or_eq_zero_iff.1 (y1 ▸ e)).1
  unfold State.holdFollows at *
  rw [y3, x3]
  tauto

/-- A change of the cause set posts HOLD_CHANGED when the output changes level, and nothing else (R21). -/
theorem State.changeCauses_holds (x : Byte) : s.holdFollows (s.changeCauses x) := by
  unfold State.holdFollows
  rw [State.changeCauses_trackStatus, State.changeCauses_causes]
  split
  · rename_i h; exact ⟨.inl, fun q => q.elim id (absurd h.symm)⟩
  · rename_i h
    have h' : ¬(s.causes = 0#8 ↔ x = 0#8) := fun e => h e.symm
    have : (s.trackStatus.post .holdChanged).changed.getLsbD 4 = true := by
      simp [TrackStatus.post, BitSet.add, TrackEvent.bit]
    exact ⟨fun _ => .inr h', fun _ => this⟩

theorem State.postCause_joins (c : Cause) (s : State) : s.joins (BitVec.twoPow 8 c.bit) (s.postCause c) :=
  ⟨State.changeCauses_causes _, (State.changeCauses_status _).1, State.changeCauses_holds _, (State.changeCauses_status _).2⟩

/-- The causes that effects post. -/
def effectsCauses : List HeadEffect → Byte
  | [] => 0
  | .cause c :: rest => BitVec.twoPow 8 c.bit ||| effectsCauses rest
  | .result .. :: rest | .reasons .. :: rest => effectsCauses rest

theorem effectsCauses_append (l l' : List HeadEffect) : effectsCauses (l ++ l') = effectsCauses l ||| effectsCauses l' := by
  induction l with
  | nil => simp [effectsCauses]
  | cons e l ih => cases e <;> simp [effectsCauses, ih, BitVec.or_assoc]

/-- The causes that a head's own effects post: at most PLATEN_STUCK. -/
theorem effectsCauses_within {ref : Option PackRef} {l : List HeadEffect} (h : ∀ e ∈ l, e.within ref) :
    effectsCauses l = 0 ∨ effectsCauses l = 0x04 := by
  induction l with
  | nil => exact .inl rfl
  | cons e l ih =>
    have r := ih fun e he => h e (by simp [he])
    cases e with
    | result r' x y => exact r
    | reasons a b x => exact r
    | cause c =>
      have hc : c = .platenStuck := h (.cause c) (by simp)
      subst hc
      right
      rcases r with r | r <;> rw [effectsCauses, r] <;> rfl

/-- Effects in order: the causes among them join, and HOLD_CHANGED follows. -/
theorem applyEffects_joins (l : List HeadEffect) (s : State) : s.joins (effectsCauses l) (applyEffects l s) := by
  induction l generalizing s with
  | nil => exact s.joins_refl
  | cons e l ih =>
    cases e with
    | result r x y => exact ih (HeadEffect.apply (.result r x y) s)
    | reasons a b x => exact ih (HeadEffect.apply (.reasons a b x) s)
    | cause c => exact State.joins_trans (State.postCause_joins c s) (ih (s.postCause c))

/-- An effect of a head that holds a reference touches that pack alone. -/
theorem HeadEffect.apply_kept {ref : Option PackRef} {e : HeadEffect} (h : e.within ref) (s : State) :
    { (e.apply s).track with slots := s.track.slots } = s.track ∧
    State.packsKept (fun serial lane => ∃ r, ref = some r ∧ r.serial = serial ∧ r.lane = lane) s (e.apply s) := by
  cases e with
  | result r x y => exact ⟨rfl, State.packsKept_updatePack _ ⟨r, h, rfl, rfl⟩⟩
  | reasons serial lane x => exact ⟨rfl, State.packsKept_updatePack _ h⟩
  | cause c =>
    refine ⟨by simp [HeadEffect.apply], by simp [HeadEffect.apply], fun p => ?_⟩
    simp only [HeadEffect.apply, State.postCause_track]
    exact ⟨id, fun n e => ⟨n, e, rfl, fun _ _ => rfl⟩⟩

theorem applyEffects_kept {ref : Option PackRef} (l : List HeadEffect) (h : ∀ e ∈ l, e.within ref) (s : State) :
    { (applyEffects l s).track with slots := s.track.slots } = s.track ∧
    State.packsKept (fun serial lane => ∃ r, ref = some r ∧ r.serial = serial ∧ r.lane = lane) s (applyEffects l s) := by
  induction l generalizing s with
  | nil => exact ⟨rfl, State.packsKept_refl _⟩
  | cons e l ih =>
    obtain ⟨a1, a2⟩ := HeadEffect.apply_kept (h e (by simp)) s
    obtain ⟨b1, b2⟩ := ih (fun e he => h e (by simp [he])) (e.apply s)
    refine ⟨?_, State.packsKept_trans a2 b2⟩
    rw [← a1]
    simp only [applyEffects]
    rw [← b1]

/-- HEAD_SAFE's evaluation: it is present exactly while a head with hold-on-safe is in SAFE, and no other cause moves (R19). -/
theorem State.evalHeadSafe_causes (s : State) :
    (s.evalHeadSafe).causes &&& 0xBF = s.causes &&& 0xBF ∧
    ((s.evalHeadSafe).causes.getLsbD 6 = true ↔
      ∃ h : Fin 16, (s.head h).params.holdOnSafe = true ∧ (s.head h).state = .safe) := by
  have any : s.heads.toList.any Head.holdsSafe = true ↔
      ∃ h : Fin 16, (s.head h).params.holdOnSafe = true ∧ (s.head h).state = .safe := by
    rw [Bank.any_toList]
    simp [Head.holdsSafe, State.head]
  unfold State.evalHeadSafe
  rw [← any]
  split
  all_goals
    rename_i hh
    simp only [State.postCause, State.dropCause, State.changeCauses_causes, BitSet.add, BitSet.remove, Cause.bit, hh]
    generalize s.causes = x
    refine ⟨?_, by simp⟩
    apply BitVec.eq_of_getLsbD_eq
    intro i hi
    have : i = 0 ∨ i = 1 ∨ i = 2 ∨ i = 3 ∨ i = 4 ∨ i = 5 ∨ i = 6 ∨ i = 7 := by omega
    rcases this with rfl | rfl | rfl | rfl | rfl | rfl | rfl | rfl <;> simp

/-- HEAD_SAFE's evaluation after causes have joined: HOLD_CHANGED follows the two together where nothing but PLATEN_STUCK joined. -/
theorem State.evalHeadSafe_holds {b : Byte} (j : s.joins b t) (hb : b = 0 ∨ b = 0x04) :
    s.holdFollows t.evalHeadSafe ∧ s.trackStatus.gains t.evalHeadSafe.trackStatus ∧
    t.evalHeadSafe.trackStatus.changed &&& 0xEF = s.trackStatus.changed &&& 0xEF := by
  obtain ⟨x1, x2, x3, x4⟩ := j
  have e : ∃ x, t.evalHeadSafe = t.changeCauses x ∧ (s.causes = 0#8 → t.causes ≠ 0#8 → x ≠ 0#8) := by
    unfold State.evalHeadSafe
    split
    · refine ⟨_, rfl, fun _ n z => n (BitVec.or_eq_zero_iff.1 z).1⟩
    · refine ⟨_, rfl, fun z n => ?_⟩
      rw [x1, z] at n ⊢
      rcases hb with rfl | rfl
      · simp at n
      · decide
  obtain ⟨x, e, k⟩ := e
  rw [e]
  refine ⟨?_, TrackStatus.gains_trans x2 (State.changeCauses_status _).1, (State.changeCauses_status _).2.trans x4⟩
  have y := State.changeCauses_holds (s := t) x
  have ht : t.causes = 0#8 → s.causes = 0#8 := fun e => (BitVec.or_eq_zero_iff.1 (x1 ▸ e)).1
  unfold State.holdFollows at *
  rw [y, x3, State.changeCauses_causes]
  clear y x3 x1 x2 x4
  by_cases c1 : s.causes = 0#8 <;> by_cases c2 : t.causes = 0#8
  · simp [c1, c2]
  · simp [c1, c2, k c1 c2]
  · exact absurd (ht c2) c1
  · simp [c1, c2]

/-! ### One head's act -/

/-- An act of a head: its two records, its effects, and HEAD_SAFE evaluated where it has entered or left SAFE. -/
theorem State.actHead_eq (s : State) (h : Fin 16) (f : HeadCtx → HeadCtx) :
    let u := applyEffects (f (s.ctx h)).out (s.withHead h (f (s.ctx h)).head (f (s.ctx h)).status)
    s.actHead h f = u ∧ ((f (s.ctx h)).head.state = .safe ↔ (s.head h).state = .safe) ∨
    s.actHead h f = u.evalHeadSafe ∧ ¬((f (s.ctx h)).head.state = .safe ↔ (s.head h).state = .safe) := by
  have e : (((f (s.ctx h)).head.state == HeadState.safe) = ((s.head h).state == HeadState.safe)) ↔
      ((f (s.ctx h)).head.state = .safe ↔ (s.head h).state = .safe) := by
    by_cases h1 : (f (s.ctx h)).head.state = .safe <;> by_cases h2 : (s.head h).state = .safe <;> simp [h1, h2]
  simp only [State.actHead, State.withHead, e]
  by_cases hs : ((f (s.ctx h)).head.state = .safe ↔ (s.head h).state = .safe)
  · left; exact ⟨if_pos hs, hs⟩
  · right; exact ⟨if_neg hs, hs⟩

/-- The head's own record after its act. -/
@[simp] theorem State.actHead_head_self (s : State) (h : Fin 16) (f : HeadCtx → HeadCtx) :
    (s.actHead h f).head h = (f (s.ctx h)).head := by
  rcases s.actHead_eq h f with ⟨e, -⟩ | ⟨e, -⟩ <;> simp [e, State.head, State.withHead]

@[simp] theorem State.actHead_status_self (s : State) (h : Fin 16) (f : HeadCtx → HeadCtx) :
    (s.actHead h f).status h = (f (s.ctx h)).status := by
  rcases s.actHead_eq h f with ⟨e, -⟩ | ⟨e, -⟩ <;> simp [e, State.status, State.withHead]

theorem State.actHead_of_ne (s : State) {h h' : Fin 16} (f : HeadCtx → HeadCtx) (ne : h' ≠ h) :
    (s.actHead h f).head h' = s.head h' ∧ (s.actHead h f).status h' = s.status h' := by
  rcases s.actHead_eq h f with ⟨e, -⟩ | ⟨e, -⟩ <;>
    simp [e, State.head, State.status, State.withHead, Bank.get_set_of_ne _ _ ne]

/-- A head whose effects stay within the pack it refers to acts alone, and posts the causes among its effects. -/
theorem State.actHead_posting (s : State) (h : Fin 16) (f : HeadCtx → HeadCtx)
    (he : ∀ e ∈ (f (s.ctx h)).out, e.within (s.head h).packRef) :
    s.onlyHeadPosting (effectsCauses (f (s.ctx h)).out) h (s.actHead h f) := by
  obtain ⟨a1, a2⟩ := applyEffects_kept _ he (s.withHead h (f (s.ctx h)).head (f (s.ctx h)).status)
  have a3 := applyEffects_joins (f (s.ctx h)).out (s.withHead h (f (s.ctx h)).head (f (s.ctx h)).status)
  have hb : { s.actHead h f with
      heads := s.heads, statuses := s.statuses, causes := s.causes, trackStatus := s.trackStatus, track := s.track } = s := by
    apply State.ext <;> simp
  have hs := s.actHead_head_self h f
  rcases s.actHead_eq h f with ⟨e, same⟩ | ⟨e, same⟩
  · obtain ⟨c1, c2, c3, c4⟩ := a3
    refine ⟨hb, fun h' ne => s.actHead_of_ne f ne, ?_, ?_, ⟨fun _ => ?_, fun n => ?_⟩, ?_, ?_, ?_, ?_⟩
    · rw [e]; exact a1
    · rw [e]; exact a2
    · rw [e]; exact c1
    · rw [hs] at n; exact absurd same n
    · rw [e]; exact c3
    · rw [e]; exact c2.1
    · rw [e]; exact c4
    · rw [e]; exact c2.2.2
  · obtain ⟨b1, b2⟩ := State.evalHeadSafe_causes
      (applyEffects (f (s.ctx h)).out (s.withHead h (f (s.ctx h)).head (f (s.ctx h)).status))
    obtain ⟨c1, c2, c3⟩ := State.evalHeadSafe_holds a3 (effectsCauses_within he)
    refine ⟨hb, fun h' ne => s.actHead_of_ne f ne, ?_, ?_, ⟨fun n => ?_, fun _ => ⟨?_, ?_⟩⟩, ?_, ?_, ?_, ?_⟩
    · rw [e]; simpa using a1
    · rw [e]; exact ⟨by simpa using a2.1, fun p => by simpa using a2.2 p⟩
    · rw [hs] at n; exact absurd n same
    · rw [e, b1, a3.1]; rfl
    · rw [e, b2]; simp [State.head]
    · rw [e]; exact c1
    · rw [e]; exact c2.1
    · rw [e]; exact c3
    · rw [e]; exact c2.2.2

/-- A head whose effects stay within the pack it refers to, with no cause among them, acts alone. -/
theorem State.actHead_onlyHead (s : State) (h : Fin 16) (f : HeadCtx → HeadCtx)
    (he : ∀ e ∈ (f (s.ctx h)).out, e.within (s.head h).packRef) (hc : effectsCauses (f (s.ctx h)).out = 0) :
    s.onlyHead h (s.actHead h f) :=
  by have := s.actHead_posting h f he; rwa [hc] at this

/-- An act by a head that neither enters nor leaves SAFE: its effects are all that reaches past its records. -/
theorem State.actHead_calm (s : State) (h : Fin 16) (f : HeadCtx → HeadCtx)
    (hs : (f (s.ctx h)).head.state = .safe ↔ (s.head h).state = .safe) :
    s.actHead h f = applyEffects (f (s.ctx h)).out (s.withHead h (f (s.ctx h)).head (f (s.ctx h)).status) := by
  rcases s.actHead_eq h f with ⟨e, -⟩ | ⟨-, n⟩
  · exact e
  · exact absurd hs n

/-- An act without effects, by a head that neither enters nor leaves SAFE, replaces the head's two records. -/
theorem State.actHead_quiet (s : State) (h : Fin 16) (f : HeadCtx → HeadCtx) (ho : (f (s.ctx h)).out = [])
    (hs : (f (s.ctx h)).head.state = .safe ↔ (s.head h).state = .safe) :
    s.actHead h f = s.withHead h (f (s.ctx h)).head (f (s.ctx h)).status := by
  rw [s.actHead_calm h f hs, ho]; rfl

/-- The track after an act. -/
theorem State.actHead_track (s : State) (h : Fin 16) (f : HeadCtx → HeadCtx) :
    (s.actHead h f).track =
      (applyEffects (f (s.ctx h)).out (s.withHead h (f (s.ctx h)).head (f (s.ctx h)).status)).track := by
  rcases s.actHead_eq h f with ⟨e, -⟩ | ⟨e, -⟩ <;> simp [e]

end Sys2Proof.Machine
end

