-- ==== Sys2Proof/Laws/Head.lean ====
section
/-! SUPPORT. What the operations of one head leave alone: its parameters, active coefficients and held counters, and the
moment, the number and the sensor levels it acts with. -/

namespace Sys2Proof.Machine

section HeadOps

variable (x : Head)

@[simp] theorem Head.updateRun_params (f : Run → Run) : (x.updateRun f).params = x.params := by
  rfl
@[simp] theorem Head.updateRun_coeffs (f : Run → Run) : (x.updateRun f).coeffs = x.coeffs := by
  rfl
@[simp] theorem Head.updateRun_held (f : Run → Run) : (x.updateRun f).held = x.held := by
  rfl

@[simp] theorem Head.noteClamp_params (c : Bool) : (x.noteClamp c).params = x.params := by
  unfold Head.noteClamp; (repeat' split) <;> simp
@[simp] theorem Head.noteClamp_coeffs (c : Bool) : (x.noteClamp c).coeffs = x.coeffs := by
  unfold Head.noteClamp; (repeat' split) <;> simp
@[simp] theorem Head.noteClamp_held (c : Bool) : (x.noteClamp c).held = x.held := by
  unfold Head.noteClamp; (repeat' split) <;> simp

@[simp] theorem Head.setTemp_params (now v : Nat) : (x.setTemp now v).params = x.params := by
  unfold Head.setTemp; (repeat' split) <;> simp
@[simp] theorem Head.setTemp_coeffs (now v : Nat) : (x.setTemp now v).coeffs = x.coeffs := by
  unfold Head.setTemp; (repeat' split) <;> simp
@[simp] theorem Head.setTemp_held (now v : Nat) : (x.setTemp now v).held = x.held := by
  unfold Head.setTemp; (repeat' split) <;> simp

@[simp] theorem Head.setPres_params (v : Nat) : (x.setPres v).params = x.params := by
  unfold Head.setPres; (repeat' split) <;> simp
@[simp] theorem Head.setPres_coeffs (v : Nat) : (x.setPres v).coeffs = x.coeffs := by
  unfold Head.setPres; (repeat' split) <;> simp
@[simp] theorem Head.setPres_held (v : Nat) : (x.setPres v).held = x.held := by
  unfold Head.setPres; (repeat' split) <;> simp

@[simp] theorem Head.rest_params (now : Nat) (st : HeadState) (v : Nat) : (x.rest now st v).params = x.params := by
  rfl
@[simp] theorem Head.rest_coeffs (now : Nat) (st : HeadState) (v : Nat) : (x.rest now st v).coeffs = x.coeffs := by
  rfl
@[simp] theorem Head.rest_held (now : Nat) (st : HeadState) (v : Nat) : (x.rest now st v).held = x.held := by
  rfl

@[simp] theorem Head.noteCeiling_params (t : Nat) : (x.noteCeiling t).params = x.params := by
  unfold Head.noteCeiling; (repeat' split) <;> simp
@[simp] theorem Head.noteCeiling_coeffs (t : Nat) : (x.noteCeiling t).coeffs = x.coeffs := by
  unfold Head.noteCeiling; (repeat' split) <;> simp
@[simp] theorem Head.noteCeiling_held (t : Nat) : (x.noteCeiling t).held = x.held := by
  unfold Head.noteCeiling; (repeat' split) <;> simp

@[simp] theorem Head.stepTemp_params (now : Nat) (t : Option Nat) : (x.stepTemp now t).params = x.params := by
  unfold Head.stepTemp; (repeat' split) <;> simp
@[simp] theorem Head.stepTemp_coeffs (now : Nat) (t : Option Nat) : (x.stepTemp now t).coeffs = x.coeffs := by
  unfold Head.stepTemp; (repeat' split) <;> simp
@[simp] theorem Head.stepTemp_held (now : Nat) (t : Option Nat) : (x.stepTemp now t).held = x.held := by
  unfold Head.stepTemp; (repeat' split) <;> simp

@[simp] theorem Head.stepPres_params (t : Option Nat) : (x.stepPres t).params = x.params := by
  unfold Head.stepPres; (repeat' split) <;> simp
@[simp] theorem Head.stepPres_coeffs (t : Option Nat) : (x.stepPres t).coeffs = x.coeffs := by
  unfold Head.stepPres; (repeat' split) <;> simp
@[simp] theorem Head.stepPres_held (t : Option Nat) : (x.stepPres t).held = x.held := by
  unfold Head.stepPres; (repeat' split) <;> simp

@[simp] theorem Head.rampTo_params (now e : Nat) (p : Ramp) : (x.rampTo now e p).params = x.params := by
  unfold Head.rampTo; (repeat' split) <;> simp
@[simp] theorem Head.rampTo_coeffs (now e : Nat) (p : Ramp) : (x.rampTo now e p).coeffs = x.coeffs := by
  unfold Head.rampTo; (repeat' split) <;> simp
@[simp] theorem Head.rampTo_held (now e : Nat) (p : Ramp) : (x.rampTo now e p).held = x.held := by
  unfold Head.rampTo; (repeat' split) <;> simp

@[simp] theorem Head.rampEnd_params (now : Nat) (p : Ramp) : (x.rampEnd now p).params = x.params := by
  unfold Head.rampEnd; (repeat' split) <;> simp
@[simp] theorem Head.rampEnd_coeffs (now : Nat) (p : Ramp) : (x.rampEnd now p).coeffs = x.coeffs := by
  unfold Head.rampEnd; (repeat' split) <;> simp
@[simp] theorem Head.rampEnd_held (now : Nat) (p : Ramp) : (x.rampEnd now p).held = x.held := by
  unfold Head.rampEnd; (repeat' split) <;> simp

@[simp] theorem Head.startRamp_params (now : Nat) (g : Segment) : (x.startRamp now g).params = x.params := by
  unfold Head.startRamp; (repeat' split) <;> simp
@[simp] theorem Head.startRamp_coeffs (now : Nat) (g : Segment) : (x.startRamp now g).coeffs = x.coeffs := by
  unfold Head.startRamp; (repeat' split) <;> simp
@[simp] theorem Head.startRamp_held (now : Nat) (g : Segment) : (x.startRamp now g).held = x.held := by
  unfold Head.startRamp; (repeat' split) <;> simp

@[simp] theorem Head.applyTargets_params (now : Nat) (g : Segment) : (x.applyTargets now g).params = x.params := by
  unfold Head.applyTargets; (repeat' split) <;> simp
@[simp] theorem Head.applyTargets_coeffs (now : Nat) (g : Segment) : (x.applyTargets now g).coeffs = x.coeffs := by
  unfold Head.applyTargets; (repeat' split) <;> simp
@[simp] theorem Head.applyTargets_held (now : Nat) (g : Segment) : (x.applyTargets now g).held = x.held := by
  unfold Head.applyTargets; (repeat' split) <;> simp

@[simp] theorem Head.virtualClose_params (now : Nat) : (x.virtualClose now).params = x.params := by
  unfold Head.virtualClose; (repeat' split) <;> simp
@[simp] theorem Head.virtualClose_coeffs (now : Nat) : (x.virtualClose now).coeffs = x.coeffs := by
  unfold Head.virtualClose; (repeat' split) <;> simp
@[simp] theorem Head.virtualClose_held (now : Nat) : (x.virtualClose now).held = x.held := by
  unfold Head.virtualClose; (repeat' split) <;> simp

@[simp] theorem Head.virtualOpen_params (now : Nat) : (x.virtualOpen now).params = x.params := by
  unfold Head.virtualOpen; (repeat' split) <;> simp
@[simp] theorem Head.virtualOpen_coeffs (now : Nat) : (x.virtualOpen now).coeffs = x.coeffs := by
  unfold Head.virtualOpen; (repeat' split) <;> simp
@[simp] theorem Head.virtualOpen_held (now : Nat) : (x.virtualOpen now).held = x.held := by
  unfold Head.virtualOpen; (repeat' split) <;> simp

@[simp] theorem Head.enterReady_params (now : Nat) : (x.enterReady now).params = x.params := by
  simp [Head.enterReady]
@[simp] theorem Head.enterReady_coeffs (now : Nat) : (x.enterReady now).coeffs = x.coeffs := by
  simp [Head.enterReady]
@[simp] theorem Head.enterReady_held (now : Nat) : (x.enterReady now).held = x.held := by
  simp [Head.enterReady]

@[simp] theorem Head.enterHeating_params (now : Nat) : (x.enterHeating now).params = x.params := by
  simp [Head.enterHeating]
@[simp] theorem Head.enterHeating_coeffs (now : Nat) : (x.enterHeating now).coeffs = x.coeffs := by
  simp [Head.enterHeating]
@[simp] theorem Head.enterHeating_held (now : Nat) : (x.enterHeating now).held = x.held := by
  simp [Head.enterHeating]

@[simp] theorem Head.dropCycle_params : (x.dropCycle).params = x.params := by
  rfl
@[simp] theorem Head.dropCycle_coeffs : (x.dropCycle).coeffs = x.coeffs := by
  rfl
@[simp] theorem Head.dropCycle_held : (x.dropCycle).held = x.held := by
  rfl

@[simp] theorem Head.restFor_params (now : Nat) (d : ReleaseDest) : (x.restFor now d).params = x.params := by
  unfold Head.restFor; (repeat' split) <;> simp
@[simp] theorem Head.restFor_coeffs (now : Nat) (d : ReleaseDest) : (x.restFor now d).coeffs = x.coeffs := by
  unfold Head.restFor; (repeat' split) <;> simp
@[simp] theorem Head.restFor_held (now : Nat) (d : ReleaseDest) : (x.restFor now d).held = x.held := by
  unfold Head.restFor; (repeat' split) <;> simp

@[simp] theorem Head.enterDest_params (now : Nat) (d : ReleaseDest) : (x.enterDest now d).params = x.params := by
  unfold Head.enterDest; (repeat' split) <;> simp
@[simp] theorem Head.enterDest_coeffs (now : Nat) (d : ReleaseDest) : (x.enterDest now d).coeffs = x.coeffs := by
  unfold Head.enterDest; (repeat' split) <;> simp
@[simp] theorem Head.enterDest_held (now : Nat) (d : ReleaseDest) : (x.enterDest now d).held = x.held := by
  unfold Head.enterDest; (repeat' split) <;> simp

@[simp] theorem Head.movePlaten_params (now : Nat) (g : Segment) : (x.movePlaten now g).params = x.params := by
  unfold Head.movePlaten; (repeat' split) <;> simp
@[simp] theorem Head.movePlaten_coeffs (now : Nat) (g : Segment) : (x.movePlaten now g).coeffs = x.coeffs := by
  unfold Head.movePlaten; (repeat' split) <;> simp
@[simp] theorem Head.movePlaten_held (now : Nat) (g : Segment) : (x.movePlaten now g).held = x.held := by
  unfold Head.movePlaten; (repeat' split) <;> simp

@[simp] theorem Head.doseStep_params (m : Option Nat) : (x.doseStep m).params = x.params := by
  unfold Head.doseStep; (repeat' split) <;> simp
@[simp] theorem Head.doseStep_coeffs (m : Option Nat) : (x.doseStep m).coeffs = x.coeffs := by
  unfold Head.doseStep; (repeat' split) <;> simp
@[simp] theorem Head.doseStep_held (m : Option Nat) : (x.doseStep m).held = x.held := by
  unfold Head.doseStep; (repeat' split) <;> simp

@[simp] theorem Head.consume_params (k : SampleClass) : (x.consume k).params = x.params := by
  unfold Head.consume; (repeat' split) <;> simp
@[simp] theorem Head.consume_coeffs (k : SampleClass) : (x.consume k).coeffs = x.coeffs := by
  unfold Head.consume; (repeat' split) <;> simp
@[simp] theorem Head.consume_held (k : SampleClass) : (x.consume k).held = x.held := by
  unfold Head.consume; (repeat' split) <;> simp

end HeadOps

section CtxOps

variable (x : HeadCtx)

@[simp] theorem HeadCtx.mapHead_head (f : Head → Head) : (x.mapHead f).head = f x.head := rfl
@[simp] theorem HeadCtx.mapHead_status (f : Head → Head) : (x.mapHead f).status = x.status := rfl
@[simp] theorem HeadCtx.mapHead_out (f : Head → Head) : (x.mapHead f).out = x.out := rfl
@[simp] theorem HeadCtx.post_head (e : SolicitedEvent) : (x.post e).head = x.head := rfl
@[simp] theorem HeadCtx.post_out (e : SolicitedEvent) : (x.post e).out = x.out := rfl
@[simp] theorem HeadCtx.emit_head (e : HeadEffect) : (x.emit e).head = x.head := rfl
@[simp] theorem HeadCtx.emit_status (e : HeadEffect) : (x.emit e).status = x.status := rfl
@[simp] theorem HeadCtx.emit_out (e : HeadEffect) : (x.emit e).out = x.out ++ [e] := rfl
@[simp] theorem HeadCtx.setCond_out (c : Cond) (on : Bool) : (x.setCond c on).out = x.out := rfl

@[simp] theorem HeadCtx.mapHead_now (f : Head → Head) : (x.mapHead f).now = x.now := by
  rfl
@[simp] theorem HeadCtx.mapHead_id (f : Head → Head) : (x.mapHead f).id = x.id := by
  rfl
@[simp] theorem HeadCtx.mapHead_closedLevel (f : Head → Head) : (x.mapHead f).closedLevel = x.closedLevel := by
  rfl
@[simp] theorem HeadCtx.mapHead_openLevel (f : Head → Head) : (x.mapHead f).openLevel = x.openLevel := by
  rfl

@[simp] theorem HeadCtx.post_now (e : SolicitedEvent) : (x.post e).now = x.now := by
  rfl
@[simp] theorem HeadCtx.post_id (e : SolicitedEvent) : (x.post e).id = x.id := by
  rfl
@[simp] theorem HeadCtx.post_closedLevel (e : SolicitedEvent) : (x.post e).closedLevel = x.closedLevel := by
  rfl
@[simp] theorem HeadCtx.post_openLevel (e : SolicitedEvent) : (x.post e).openLevel = x.openLevel := by
  rfl
@[simp] theorem HeadCtx.post_head_params (e : SolicitedEvent) : (x.post e).head.params = x.head.params := by
  rfl
@[simp] theorem HeadCtx.post_head_coeffs (e : SolicitedEvent) : (x.post e).head.coeffs = x.head.coeffs := by
  rfl
@[simp] theorem HeadCtx.post_head_held (e : SolicitedEvent) : (x.post e).head.held = x.head.held := by
  rfl

@[simp] theorem HeadCtx.emit_now (e : HeadEffect) : (x.emit e).now = x.now := by
  rfl
@[simp] theorem HeadCtx.emit_id (e : HeadEffect) : (x.emit e).id = x.id := by
  rfl
@[simp] theorem HeadCtx.emit_closedLevel (e : HeadEffect) : (x.emit e).closedLevel = x.closedLevel := by
  rfl
@[simp] theorem HeadCtx.emit_openLevel (e : HeadEffect) : (x.emit e).openLevel = x.openLevel := by
  rfl
@[simp] theorem HeadCtx.emit_head_params (e : HeadEffect) : (x.emit e).head.params = x.head.params := by
  rfl
@[simp] theorem HeadCtx.emit_head_coeffs (e : HeadEffect) : (x.emit e).head.coeffs = x.head.coeffs := by
  rfl
@[simp] theorem HeadCtx.emit_head_held (e : HeadEffect) : (x.emit e).head.held = x.head.held := by
  rfl

@[simp] theorem HeadCtx.setCond_now (c : Cond) (on : Bool) : (x.setCond c on).now = x.now := by
  rfl
@[simp] theorem HeadCtx.setCond_id (c : Cond) (on : Bool) : (x.setCond c on).id = x.id := by
  rfl
@[simp] theorem HeadCtx.setCond_closedLevel (c : Cond) (on : Bool) : (x.setCond c on).closedLevel = x.closedLevel := by
  rfl
@[simp] theorem HeadCtx.setCond_openLevel (c : Cond) (on : Bool) : (x.setCond c on).openLevel = x.openLevel := by
  rfl
@[simp] theorem HeadCtx.setCond_head_params (c : Cond) (on : Bool) : (x.setCond c on).head.params = x.head.params := by
  rfl
@[simp] theorem HeadCtx.setCond_head_coeffs (c : Cond) (on : Bool) : (x.setCond c on).head.coeffs = x.head.coeffs := by
  rfl
@[simp] theorem HeadCtx.setCond_head_held (c : Cond) (on : Bool) : (x.setCond c on).head.held = x.head.held := by
  rfl

@[simp] theorem HeadCtx.writeEnd_now (r : EndReason) : (x.writeEnd r).now = x.now := by
  unfold HeadCtx.writeEnd; (repeat' split) <;> simp
@[simp] theorem HeadCtx.writeEnd_id (r : EndReason) : (x.writeEnd r).id = x.id := by
  unfold HeadCtx.writeEnd; (repeat' split) <;> simp
@[simp] theorem HeadCtx.writeEnd_closedLevel (r : EndReason) : (x.writeEnd r).closedLevel = x.closedLevel := by
  unfold HeadCtx.writeEnd; (repeat' split) <;> simp
@[simp] theorem HeadCtx.writeEnd_openLevel (r : EndReason) : (x.writeEnd r).openLevel = x.openLevel := by
  unfold HeadCtx.writeEnd; (repeat' split) <;> simp
@[simp] theorem HeadCtx.writeEnd_head_params (r : EndReason) : (x.writeEnd r).head.params = x.head.params := by
  unfold HeadCtx.writeEnd; (repeat' split) <;> simp
@[simp] theorem HeadCtx.writeEnd_head_coeffs (r : EndReason) : (x.writeEnd r).head.coeffs = x.head.coeffs := by
  unfold HeadCtx.writeEnd; (repeat' split) <;> simp
@[simp] theorem HeadCtx.writeEnd_head_held (r : EndReason) : (x.writeEnd r).head.held = x.head.held := by
  unfold HeadCtx.writeEnd; (repeat' split) <;> simp

@[simp] theorem HeadCtx.finish_now (r : EndReason) (p : Bool) : (x.finish r p).now = x.now := by
  simp only [HeadCtx.finish]; split <;> simp
@[simp] theorem HeadCtx.finish_id (r : EndReason) (p : Bool) : (x.finish r p).id = x.id := by
  simp only [HeadCtx.finish]; split <;> simp
@[simp] theorem HeadCtx.finish_closedLevel (r : EndReason) (p : Bool) : (x.finish r p).closedLevel = x.closedLevel := by
  simp only [HeadCtx.finish]; split <;> simp
@[simp] theorem HeadCtx.finish_openLevel (r : EndReason) (p : Bool) : (x.finish r p).openLevel = x.openLevel := by
  simp only [HeadCtx.finish]; split <;> simp
@[simp] theorem HeadCtx.finish_head_params (r : EndReason) (p : Bool) : (x.finish r p).head.params = x.head.params := by
  simp only [HeadCtx.finish]; split <;> simp
@[simp] theorem HeadCtx.finish_head_coeffs (r : EndReason) (p : Bool) : (x.finish r p).head.coeffs = x.head.coeffs := by
  simp only [HeadCtx.finish]; split <;> simp
@[simp] theorem HeadCtx.finish_head_held (r : EndReason) (p : Bool) : (x.finish r p).head.held = x.head.held := by
  simp only [HeadCtx.finish]; split <;> simp

@[simp] theorem HeadCtx.confirm_now (r : Release) : (x.confirm r).now = x.now := by
  simp only [HeadCtx.confirm]; (repeat' split) <;> simp
@[simp] theorem HeadCtx.confirm_id (r : Release) : (x.confirm r).id = x.id := by
  simp only [HeadCtx.confirm]; (repeat' split) <;> simp
@[simp] theorem HeadCtx.confirm_closedLevel (r : Release) : (x.confirm r).closedLevel = x.closedLevel := by
  simp only [HeadCtx.confirm]; (repeat' split) <;> simp
@[simp] theorem HeadCtx.confirm_openLevel (r : Release) : (x.confirm r).openLevel = x.openLevel := by
  simp only [HeadCtx.confirm]; (repeat' split) <;> simp
@[simp] theorem HeadCtx.confirm_head_params (r : Release) : (x.confirm r).head.params = x.head.params := by
  simp only [HeadCtx.confirm]; (repeat' split) <;> simp
@[simp] theorem HeadCtx.confirm_head_coeffs (r : Release) : (x.confirm r).head.coeffs = x.head.coeffs := by
  simp only [HeadCtx.confirm]; (repeat' split) <;> simp
@[simp] theorem HeadCtx.confirm_head_held (r : Release) : (x.confirm r).head.held = x.head.held := by
  simp only [HeadCtx.confirm]; (repeat' split) <;> simp

@[simp] theorem HeadCtx.beginRelease_now (d : ReleaseDest) (o : Bool) : (x.beginRelease d o).now = x.now := by
  simp only [HeadCtx.beginRelease]; split <;> simp
@[simp] theorem HeadCtx.beginRelease_id (d : ReleaseDest) (o : Bool) : (x.beginRelease d o).id = x.id := by
  simp only [HeadCtx.beginRelease]; split <;> simp
@[simp] theorem HeadCtx.beginRelease_closedLevel (d : ReleaseDest) (o : Bool) : (x.beginRelease d o).closedLevel = x.closedLevel := by
  simp only [HeadCtx.beginRelease]; split <;> simp
@[simp] theorem HeadCtx.beginRelease_openLevel (d : ReleaseDest) (o : Bool) : (x.beginRelease d o).openLevel = x.openLevel := by
  simp only [HeadCtx.beginRelease]; split <;> simp
@[simp] theorem HeadCtx.beginRelease_head_params (d : ReleaseDest) (o : Bool) : (x.beginRelease d o).head.params = x.head.params := by
  simp only [HeadCtx.beginRelease]; split <;> simp
@[simp] theorem HeadCtx.beginRelease_head_coeffs (d : ReleaseDest) (o : Bool) : (x.beginRelease d o).head.coeffs = x.head.coeffs := by
  simp only [HeadCtx.beginRelease]; split <;> simp
@[simp] theorem HeadCtx.beginRelease_head_held (d : ReleaseDest) (o : Bool) : (x.beginRelease d o).head.held = x.head.held := by
  simp only [HeadCtx.beginRelease]; split <;> simp

@[simp] theorem HeadCtx.abnormal_now (r : EndReason) (d : ReleaseDest) (p : Bool) : (x.abnormal r d p).now = x.now := by
  simp only [HeadCtx.abnormal]; split <;> simp
@[simp] theorem HeadCtx.abnormal_id (r : EndReason) (d : ReleaseDest) (p : Bool) : (x.abnormal r d p).id = x.id := by
  simp only [HeadCtx.abnormal]; split <;> simp
@[simp] theorem HeadCtx.abnormal_closedLevel (r : EndReason) (d : ReleaseDest) (p : Bool) : (x.abnormal r d p).closedLevel = x.closedLevel := by
  simp only [HeadCtx.abnormal]; split <;> simp
@[simp] theorem HeadCtx.abnormal_openLevel (r : EndReason) (d : ReleaseDest) (p : Bool) : (x.abnormal r d p).openLevel = x.openLevel := by
  simp only [HeadCtx.abnormal]; split <;> simp
@[simp] theorem HeadCtx.abnormal_head_params (r : EndReason) (d : ReleaseDest) (p : Bool) : (x.abnormal r d p).head.params = x.head.params := by
  simp only [HeadCtx.abnormal]; split <;> simp
@[simp] theorem HeadCtx.abnormal_head_coeffs (r : EndReason) (d : ReleaseDest) (p : Bool) : (x.abnormal r d p).head.coeffs = x.head.coeffs := by
  simp only [HeadCtx.abnormal]; split <;> simp
@[simp] theorem HeadCtx.abnormal_head_held (r : EndReason) (d : ReleaseDest) (p : Bool) : (x.abnormal r d p).head.held = x.head.held := by
  simp only [HeadCtx.abnormal]; split <;> simp

@[simp] theorem HeadCtx.enterSafe_now (r : EndReason) : (x.enterSafe r).now = x.now := by
  unfold HeadCtx.enterSafe; (repeat' split) <;> simp
@[simp] theorem HeadCtx.enterSafe_id (r : EndReason) : (x.enterSafe r).id = x.id := by
  unfold HeadCtx.enterSafe; (repeat' split) <;> simp
@[simp] theorem HeadCtx.enterSafe_closedLevel (r : EndReason) : (x.enterSafe r).closedLevel = x.closedLevel := by
  unfold HeadCtx.enterSafe; (repeat' split) <;> simp
@[simp] theorem HeadCtx.enterSafe_openLevel (r : EndReason) : (x.enterSafe r).openLevel = x.openLevel := by
  unfold HeadCtx.enterSafe; (repeat' split) <;> simp
@[simp] theorem HeadCtx.enterSafe_head_params (r : EndReason) : (x.enterSafe r).head.params = x.head.params := by
  unfold HeadCtx.enterSafe; (repeat' split) <;> simp
@[simp] theorem HeadCtx.enterSafe_head_coeffs (r : EndReason) : (x.enterSafe r).head.coeffs = x.head.coeffs := by
  unfold HeadCtx.enterSafe; (repeat' split) <;> simp
@[simp] theorem HeadCtx.enterSafe_head_held (r : EndReason) : (x.enterSafe r).head.held = x.head.held := by
  unfold HeadCtx.enterSafe; (repeat' split) <;> simp

@[simp] theorem HeadCtx.beginSegment_now (n : Nat) (g : Segment) : (x.beginSegment n g).now = x.now := by
  simp only [HeadCtx.beginSegment]; (repeat' split) <;> simp <;> (repeat' split) <;> simp
@[simp] theorem HeadCtx.beginSegment_id (n : Nat) (g : Segment) : (x.beginSegment n g).id = x.id := by
  simp only [HeadCtx.beginSegment]; (repeat' split) <;> simp <;> (repeat' split) <;> simp
@[simp] theorem HeadCtx.beginSegment_closedLevel (n : Nat) (g : Segment) : (x.beginSegment n g).closedLevel = x.closedLevel := by
  simp only [HeadCtx.beginSegment]; (repeat' split) <;> simp <;> (repeat' split) <;> simp
@[simp] theorem HeadCtx.beginSegment_openLevel (n : Nat) (g : Segment) : (x.beginSegment n g).openLevel = x.openLevel := by
  simp only [HeadCtx.beginSegment]; (repeat' split) <;> simp <;> (repeat' split) <;> simp
@[simp] theorem HeadCtx.beginSegment_head_params (n : Nat) (g : Segment) : (x.beginSegment n g).head.params = x.head.params := by
  simp only [HeadCtx.beginSegment]; (repeat' split) <;> simp <;> (repeat' split) <;> simp
@[simp] theorem HeadCtx.beginSegment_head_coeffs (n : Nat) (g : Segment) : (x.beginSegment n g).head.coeffs = x.head.coeffs := by
  simp only [HeadCtx.beginSegment]; (repeat' split) <;> simp <;> (repeat' split) <;> simp
@[simp] theorem HeadCtx.beginSegment_head_held (n : Nat) (g : Segment) : (x.beginSegment n g).head.held = x.head.held := by
  simp only [HeadCtx.beginSegment]; (repeat' split) <;> simp <;> (repeat' split) <;> simp

@[simp] theorem HeadCtx.endSegment_now (r : Run) : ((x.endSegment r).2).now = x.now := by
  simp only [HeadCtx.endSegment]; (repeat' split) <;> simp
@[simp] theorem HeadCtx.endSegment_id (r : Run) : ((x.endSegment r).2).id = x.id := by
  simp only [HeadCtx.endSegment]; (repeat' split) <;> simp
@[simp] theorem HeadCtx.endSegment_closedLevel (r : Run) : ((x.endSegment r).2).closedLevel = x.closedLevel := by
  simp only [HeadCtx.endSegment]; (repeat' split) <;> simp
@[simp] theorem HeadCtx.endSegment_openLevel (r : Run) : ((x.endSegment r).2).openLevel = x.openLevel := by
  simp only [HeadCtx.endSegment]; (repeat' split) <;> simp
@[simp] theorem HeadCtx.endSegment_head_params (r : Run) : ((x.endSegment r).2).head.params = x.head.params := by
  simp only [HeadCtx.endSegment]; (repeat' split) <;> simp
@[simp] theorem HeadCtx.endSegment_head_coeffs (r : Run) : ((x.endSegment r).2).head.coeffs = x.head.coeffs := by
  simp only [HeadCtx.endSegment]; (repeat' split) <;> simp
@[simp] theorem HeadCtx.endSegment_head_held (r : Run) : ((x.endSegment r).2).head.held = x.head.held := by
  simp only [HeadCtx.endSegment]; (repeat' split) <;> simp

@[simp] theorem HeadCtx.complete_now : (x.complete).now = x.now := by
  simp only [HeadCtx.complete]; split <;> simp
@[simp] theorem HeadCtx.complete_id : (x.complete).id = x.id := by
  simp only [HeadCtx.complete]; split <;> simp
@[simp] theorem HeadCtx.complete_closedLevel : (x.complete).closedLevel = x.closedLevel := by
  simp only [HeadCtx.complete]; split <;> simp
@[simp] theorem HeadCtx.complete_openLevel : (x.complete).openLevel = x.openLevel := by
  simp only [HeadCtx.complete]; split <;> simp
@[simp] theorem HeadCtx.complete_head_params : (x.complete).head.params = x.head.params := by
  simp only [HeadCtx.complete]; split <;> simp
@[simp] theorem HeadCtx.complete_head_coeffs : (x.complete).head.coeffs = x.head.coeffs := by
  simp only [HeadCtx.complete]; split <;> simp
@[simp] theorem HeadCtx.complete_head_held : (x.complete).head.held = x.head.held := by
  simp only [HeadCtx.complete]; split <;> simp

@[simp] theorem HeadCtx.runFrom_now (k n : Nat) : (x.runFrom k n).now = x.now := by
  induction k generalizing n x with
  | zero => rfl
  | succ k ih => simp only [HeadCtx.runFrom]; (repeat' split) <;> simp [*]
@[simp] theorem HeadCtx.runFrom_id (k n : Nat) : (x.runFrom k n).id = x.id := by
  induction k generalizing n x with
  | zero => rfl
  | succ k ih => simp only [HeadCtx.runFrom]; (repeat' split) <;> simp [*]
@[simp] theorem HeadCtx.runFrom_closedLevel (k n : Nat) : (x.runFrom k n).closedLevel = x.closedLevel := by
  induction k generalizing n x with
  | zero => rfl
  | succ k ih => simp only [HeadCtx.runFrom]; (repeat' split) <;> simp [*]
@[simp] theorem HeadCtx.runFrom_openLevel (k n : Nat) : (x.runFrom k n).openLevel = x.openLevel := by
  induction k generalizing n x with
  | zero => rfl
  | succ k ih => simp only [HeadCtx.runFrom]; (repeat' split) <;> simp [*]
@[simp] theorem HeadCtx.runFrom_head_params (k n : Nat) : (x.runFrom k n).head.params = x.head.params := by
  induction k generalizing n x with
  | zero => rfl
  | succ k ih => simp only [HeadCtx.runFrom]; (repeat' split) <;> simp [*]
@[simp] theorem HeadCtx.runFrom_head_coeffs (k n : Nat) : (x.runFrom k n).head.coeffs = x.head.coeffs := by
  induction k generalizing n x with
  | zero => rfl
  | succ k ih => simp only [HeadCtx.runFrom]; (repeat' split) <;> simp [*]
@[simp] theorem HeadCtx.runFrom_head_held (k n : Nat) : (x.runFrom k n).head.held = x.head.held := by
  induction k generalizing n x with
  | zero => rfl
  | succ k ih => simp only [HeadCtx.runFrom]; (repeat' split) <;> simp [*]

@[simp] theorem HeadCtx.advance_now : (x.advance).now = x.now := by
  unfold HeadCtx.advance; (repeat' split) <;> simp
@[simp] theorem HeadCtx.advance_id : (x.advance).id = x.id := by
  unfold HeadCtx.advance; (repeat' split) <;> simp
@[simp] theorem HeadCtx.advance_closedLevel : (x.advance).closedLevel = x.closedLevel := by
  unfold HeadCtx.advance; (repeat' split) <;> simp
@[simp] theorem HeadCtx.advance_openLevel : (x.advance).openLevel = x.openLevel := by
  unfold HeadCtx.advance; (repeat' split) <;> simp
@[simp] theorem HeadCtx.advance_head_params : (x.advance).head.params = x.head.params := by
  unfold HeadCtx.advance; (repeat' split) <;> simp
@[simp] theorem HeadCtx.advance_head_coeffs : (x.advance).head.coeffs = x.head.coeffs := by
  unfold HeadCtx.advance; (repeat' split) <;> simp
@[simp] theorem HeadCtx.advance_head_held : (x.advance).head.held = x.head.held := by
  unfold HeadCtx.advance; (repeat' split) <;> simp

@[simp] theorem HeadCtx.launch_now (o : Origin) (r : Run) : (x.launch o r).now = x.now := by
  simp [HeadCtx.launch]
@[simp] theorem HeadCtx.launch_id (o : Origin) (r : Run) : (x.launch o r).id = x.id := by
  simp [HeadCtx.launch]
@[simp] theorem HeadCtx.launch_closedLevel (o : Origin) (r : Run) : (x.launch o r).closedLevel = x.closedLevel := by
  simp [HeadCtx.launch]
@[simp] theorem HeadCtx.launch_openLevel (o : Origin) (r : Run) : (x.launch o r).openLevel = x.openLevel := by
  simp [HeadCtx.launch]
@[simp] theorem HeadCtx.launch_head_params (o : Origin) (r : Run) : (x.launch o r).head.params = x.head.params := by
  simp [HeadCtx.launch]
@[simp] theorem HeadCtx.launch_head_coeffs (o : Origin) (r : Run) : (x.launch o r).head.coeffs = x.head.coeffs := by
  simp [HeadCtx.launch]
@[simp] theorem HeadCtx.launch_head_held (o : Origin) (r : Run) : (x.launch o r).head.held = x.head.held := by
  simp [HeadCtx.launch]

@[simp] theorem HeadCtx.dropPending_now : (x.dropPending).now = x.now := by
  simp [HeadCtx.dropPending]
@[simp] theorem HeadCtx.dropPending_id : (x.dropPending).id = x.id := by
  simp [HeadCtx.dropPending]
@[simp] theorem HeadCtx.dropPending_closedLevel : (x.dropPending).closedLevel = x.closedLevel := by
  simp [HeadCtx.dropPending]
@[simp] theorem HeadCtx.dropPending_openLevel : (x.dropPending).openLevel = x.openLevel := by
  simp [HeadCtx.dropPending]
@[simp] theorem HeadCtx.dropPending_head_params : (x.dropPending).head.params = x.head.params := by
  simp [HeadCtx.dropPending]
@[simp] theorem HeadCtx.dropPending_head_coeffs : (x.dropPending).head.coeffs = x.head.coeffs := by
  simp [HeadCtx.dropPending]
@[simp] theorem HeadCtx.dropPending_head_held : (x.dropPending).head.held = x.head.held := by
  simp [HeadCtx.dropPending]

@[simp] theorem HeadCtx.startPack_now (l : Library) (c : Option Nat) : (x.startPack l c).now = x.now := by
  unfold HeadCtx.startPack; (repeat' split) <;> simp
@[simp] theorem HeadCtx.startPack_id (l : Library) (c : Option Nat) : (x.startPack l c).id = x.id := by
  unfold HeadCtx.startPack; (repeat' split) <;> simp
@[simp] theorem HeadCtx.startPack_closedLevel (l : Library) (c : Option Nat) : (x.startPack l c).closedLevel = x.closedLevel := by
  unfold HeadCtx.startPack; (repeat' split) <;> simp
@[simp] theorem HeadCtx.startPack_openLevel (l : Library) (c : Option Nat) : (x.startPack l c).openLevel = x.openLevel := by
  unfold HeadCtx.startPack; (repeat' split) <;> simp
@[simp] theorem HeadCtx.startPack_head_params (l : Library) (c : Option Nat) : (x.startPack l c).head.params = x.head.params := by
  unfold HeadCtx.startPack; (repeat' split) <;> simp
@[simp] theorem HeadCtx.startPack_head_coeffs (l : Library) (c : Option Nat) : (x.startPack l c).head.coeffs = x.head.coeffs := by
  unfold HeadCtx.startPack; (repeat' split) <;> simp
@[simp] theorem HeadCtx.startPack_head_held (l : Library) (c : Option Nat) : (x.startPack l c).head.held = x.head.held := by
  unfold HeadCtx.startPack; (repeat' split) <;> simp

@[simp] theorem HeadCtx.choose_now (l : Library) (r : PackRef) (c : Nat) : (x.choose l r c).now = x.now := by
  unfold HeadCtx.choose; (repeat' split) <;> simp
@[simp] theorem HeadCtx.choose_id (l : Library) (r : PackRef) (c : Nat) : (x.choose l r c).id = x.id := by
  unfold HeadCtx.choose; (repeat' split) <;> simp
@[simp] theorem HeadCtx.choose_closedLevel (l : Library) (r : PackRef) (c : Nat) : (x.choose l r c).closedLevel = x.closedLevel := by
  unfold HeadCtx.choose; (repeat' split) <;> simp
@[simp] theorem HeadCtx.choose_openLevel (l : Library) (r : PackRef) (c : Nat) : (x.choose l r c).openLevel = x.openLevel := by
  unfold HeadCtx.choose; (repeat' split) <;> simp
@[simp] theorem HeadCtx.choose_head_params (l : Library) (r : PackRef) (c : Nat) : (x.choose l r c).head.params = x.head.params := by
  unfold HeadCtx.choose; (repeat' split) <;> simp
@[simp] theorem HeadCtx.choose_head_coeffs (l : Library) (r : PackRef) (c : Nat) : (x.choose l r c).head.coeffs = x.head.coeffs := by
  unfold HeadCtx.choose; (repeat' split) <;> simp
@[simp] theorem HeadCtx.choose_head_held (l : Library) (r : PackRef) (c : Nat) : (x.choose l r c).head.held = x.head.held := by
  unfold HeadCtx.choose; (repeat' split) <;> simp

@[simp] theorem HeadCtx.select_now (l : Library) (r : PackRef) (p : Pack) : (x.select l r p).now = x.now := by
  unfold HeadCtx.select; (repeat' split) <;> simp
@[simp] theorem HeadCtx.select_id (l : Library) (r : PackRef) (p : Pack) : (x.select l r p).id = x.id := by
  unfold HeadCtx.select; (repeat' split) <;> simp
@[simp] theorem HeadCtx.select_closedLevel (l : Library) (r : PackRef) (p : Pack) : (x.select l r p).closedLevel = x.closedLevel := by
  unfold HeadCtx.select; (repeat' split) <;> simp
@[simp] theorem HeadCtx.select_openLevel (l : Library) (r : PackRef) (p : Pack) : (x.select l r p).openLevel = x.openLevel := by
  unfold HeadCtx.select; (repeat' split) <;> simp
@[simp] theorem HeadCtx.select_head_params (l : Library) (r : PackRef) (p : Pack) : (x.select l r p).head.params = x.head.params := by
  unfold HeadCtx.select; (repeat' split) <;> simp
@[simp] theorem HeadCtx.select_head_coeffs (l : Library) (r : PackRef) (p : Pack) : (x.select l r p).head.coeffs = x.head.coeffs := by
  unfold HeadCtx.select; (repeat' split) <;> simp
@[simp] theorem HeadCtx.select_head_held (l : Library) (r : PackRef) (p : Pack) : (x.select l r p).head.held = x.head.held := by
  unfold HeadCtx.select; (repeat' split) <;> simp

@[simp] theorem HeadCtx.closedEdge_now : (x.closedEdge).now = x.now := by
  unfold HeadCtx.closedEdge; (repeat' split) <;> simp
@[simp] theorem HeadCtx.closedEdge_id : (x.closedEdge).id = x.id := by
  unfold HeadCtx.closedEdge; (repeat' split) <;> simp
@[simp] theorem HeadCtx.closedEdge_closedLevel : (x.closedEdge).closedLevel = x.closedLevel := by
  unfold HeadCtx.closedEdge; (repeat' split) <;> simp
@[simp] theorem HeadCtx.closedEdge_openLevel : (x.closedEdge).openLevel = x.openLevel := by
  unfold HeadCtx.closedEdge; (repeat' split) <;> simp
@[simp] theorem HeadCtx.closedEdge_head_params : (x.closedEdge).head.params = x.head.params := by
  unfold HeadCtx.closedEdge; (repeat' split) <;> simp
@[simp] theorem HeadCtx.closedEdge_head_coeffs : (x.closedEdge).head.coeffs = x.head.coeffs := by
  unfold HeadCtx.closedEdge; (repeat' split) <;> simp
@[simp] theorem HeadCtx.closedEdge_head_held : (x.closedEdge).head.held = x.head.held := by
  unfold HeadCtx.closedEdge; (repeat' split) <;> simp

@[simp] theorem HeadCtx.openEdge_now : (x.openEdge).now = x.now := by
  unfold HeadCtx.openEdge; (repeat' split) <;> simp
@[simp] theorem HeadCtx.openEdge_id : (x.openEdge).id = x.id := by
  unfold HeadCtx.openEdge; (repeat' split) <;> simp
@[simp] theorem HeadCtx.openEdge_closedLevel : (x.openEdge).closedLevel = x.closedLevel := by
  unfold HeadCtx.openEdge; (repeat' split) <;> simp
@[simp] theorem HeadCtx.openEdge_openLevel : (x.openEdge).openLevel = x.openLevel := by
  unfold HeadCtx.openEdge; (repeat' split) <;> simp
@[simp] theorem HeadCtx.openEdge_head_params : (x.openEdge).head.params = x.head.params := by
  unfold HeadCtx.openEdge; (repeat' split) <;> simp
@[simp] theorem HeadCtx.openEdge_head_coeffs : (x.openEdge).head.coeffs = x.head.coeffs := by
  unfold HeadCtx.openEdge; (repeat' split) <;> simp
@[simp] theorem HeadCtx.openEdge_head_held : (x.openEdge).head.held = x.head.held := by
  unfold HeadCtx.openEdge; (repeat' split) <;> simp

@[simp] theorem HeadCtx.indexStart_now : (x.indexStart).now = x.now := by
  simp only [HeadCtx.indexStart]; (repeat' split) <;> simp
@[simp] theorem HeadCtx.indexStart_id : (x.indexStart).id = x.id := by
  simp only [HeadCtx.indexStart]; (repeat' split) <;> simp
@[simp] theorem HeadCtx.indexStart_closedLevel : (x.indexStart).closedLevel = x.closedLevel := by
  simp only [HeadCtx.indexStart]; (repeat' split) <;> simp
@[simp] theorem HeadCtx.indexStart_openLevel : (x.indexStart).openLevel = x.openLevel := by
  simp only [HeadCtx.indexStart]; (repeat' split) <;> simp
@[simp] theorem HeadCtx.indexStart_head_params : (x.indexStart).head.params = x.head.params := by
  simp only [HeadCtx.indexStart]; (repeat' split) <;> simp
@[simp] theorem HeadCtx.indexStart_head_coeffs : (x.indexStart).head.coeffs = x.head.coeffs := by
  simp only [HeadCtx.indexStart]; (repeat' split) <;> simp
@[simp] theorem HeadCtx.indexStart_head_held : (x.indexStart).head.held = x.head.held := by
  simp only [HeadCtx.indexStart]; (repeat' split) <;> simp

@[simp] theorem HeadCtx.trackStop_now : (x.trackStop).now = x.now := by
  unfold HeadCtx.trackStop; (repeat' split) <;> simp
@[simp] theorem HeadCtx.trackStop_id : (x.trackStop).id = x.id := by
  unfold HeadCtx.trackStop; (repeat' split) <;> simp
@[simp] theorem HeadCtx.trackStop_closedLevel : (x.trackStop).closedLevel = x.closedLevel := by
  unfold HeadCtx.trackStop; (repeat' split) <;> simp
@[simp] theorem HeadCtx.trackStop_openLevel : (x.trackStop).openLevel = x.openLevel := by
  unfold HeadCtx.trackStop; (repeat' split) <;> simp
@[simp] theorem HeadCtx.trackStop_head_params : (x.trackStop).head.params = x.head.params := by
  unfold HeadCtx.trackStop; (repeat' split) <;> simp
@[simp] theorem HeadCtx.trackStop_head_coeffs : (x.trackStop).head.coeffs = x.head.coeffs := by
  unfold HeadCtx.trackStop; (repeat' split) <;> simp
@[simp] theorem HeadCtx.trackStop_head_held : (x.trackStop).head.held = x.head.held := by
  unfold HeadCtx.trackStop; (repeat' split) <;> simp

@[simp] theorem HeadCtx.online_now : (x.online).now = x.now := by
  simp only [HeadCtx.online]; (repeat' split) <;> simp
@[simp] theorem HeadCtx.online_id : (x.online).id = x.id := by
  simp only [HeadCtx.online]; (repeat' split) <;> simp
@[simp] theorem HeadCtx.online_closedLevel : (x.online).closedLevel = x.closedLevel := by
  simp only [HeadCtx.online]; (repeat' split) <;> simp
@[simp] theorem HeadCtx.online_openLevel : (x.online).openLevel = x.openLevel := by
  simp only [HeadCtx.online]; (repeat' split) <;> simp
@[simp] theorem HeadCtx.online_head_params : (x.online).head.params = x.head.params := by
  simp only [HeadCtx.online]; (repeat' split) <;> simp
@[simp] theorem HeadCtx.online_head_coeffs : (x.online).head.coeffs = x.head.coeffs := by
  simp only [HeadCtx.online]; (repeat' split) <;> simp
@[simp] theorem HeadCtx.online_head_held : (x.online).head.held = x.head.held := by
  simp only [HeadCtx.online]; (repeat' split) <;> simp

@[simp] theorem HeadCtx.offline_now : (x.offline).now = x.now := by
  simp only [HeadCtx.offline]; (repeat' split) <;> simp
@[simp] theorem HeadCtx.offline_id : (x.offline).id = x.id := by
  simp only [HeadCtx.offline]; (repeat' split) <;> simp
@[simp] theorem HeadCtx.offline_closedLevel : (x.offline).closedLevel = x.closedLevel := by
  simp only [HeadCtx.offline]; (repeat' split) <;> simp
@[simp] theorem HeadCtx.offline_openLevel : (x.offline).openLevel = x.openLevel := by
  simp only [HeadCtx.offline]; (repeat' split) <;> simp
@[simp] theorem HeadCtx.offline_head_params : (x.offline).head.params = x.head.params := by
  simp only [HeadCtx.offline]; (repeat' split) <;> simp
@[simp] theorem HeadCtx.offline_head_coeffs : (x.offline).head.coeffs = x.head.coeffs := by
  simp only [HeadCtx.offline]; (repeat' split) <;> simp
@[simp] theorem HeadCtx.offline_head_held : (x.offline).head.held = x.head.held := by
  simp only [HeadCtx.offline]; (repeat' split) <;> simp

@[simp] theorem HeadCtx.clear_now : (x.clear).now = x.now := by
  simp only [HeadCtx.clear]; (repeat' split) <;> simp
@[simp] theorem HeadCtx.clear_id : (x.clear).id = x.id := by
  simp only [HeadCtx.clear]; (repeat' split) <;> simp
@[simp] theorem HeadCtx.clear_closedLevel : (x.clear).closedLevel = x.closedLevel := by
  simp only [HeadCtx.clear]; (repeat' split) <;> simp
@[simp] theorem HeadCtx.clear_openLevel : (x.clear).openLevel = x.openLevel := by
  simp only [HeadCtx.clear]; (repeat' split) <;> simp
@[simp] theorem HeadCtx.clear_head_params : (x.clear).head.params = x.head.params := by
  simp only [HeadCtx.clear]; (repeat' split) <;> simp
@[simp] theorem HeadCtx.clear_head_coeffs : (x.clear).head.coeffs = x.head.coeffs := by
  simp only [HeadCtx.clear]; (repeat' split) <;> simp
@[simp] theorem HeadCtx.clear_head_held : (x.clear).head.held = x.head.held := by
  simp only [HeadCtx.clear]; (repeat' split) <;> simp

@[simp] theorem HeadCtx.releaseSafe_now : (x.releaseSafe).now = x.now := by
  unfold HeadCtx.releaseSafe; (repeat' split) <;> simp
@[simp] theorem HeadCtx.releaseSafe_id : (x.releaseSafe).id = x.id := by
  unfold HeadCtx.releaseSafe; (repeat' split) <;> simp
@[simp] theorem HeadCtx.releaseSafe_closedLevel : (x.releaseSafe).closedLevel = x.closedLevel := by
  unfold HeadCtx.releaseSafe; (repeat' split) <;> simp
@[simp] theorem HeadCtx.releaseSafe_openLevel : (x.releaseSafe).openLevel = x.openLevel := by
  unfold HeadCtx.releaseSafe; (repeat' split) <;> simp
@[simp] theorem HeadCtx.releaseSafe_head_params : (x.releaseSafe).head.params = x.head.params := by
  unfold HeadCtx.releaseSafe; (repeat' split) <;> simp
@[simp] theorem HeadCtx.releaseSafe_head_coeffs : (x.releaseSafe).head.coeffs = x.head.coeffs := by
  unfold HeadCtx.releaseSafe; (repeat' split) <;> simp
@[simp] theorem HeadCtx.releaseSafe_head_held : (x.releaseSafe).head.held = x.head.held := by
  unfold HeadCtx.releaseSafe; (repeat' split) <;> simp

@[simp] theorem HeadCtx.releaseExpiry_now : (x.releaseExpiry).now = x.now := by
  simp [HeadCtx.releaseExpiry]
@[simp] theorem HeadCtx.releaseExpiry_id : (x.releaseExpiry).id = x.id := by
  simp [HeadCtx.releaseExpiry]
@[simp] theorem HeadCtx.releaseExpiry_closedLevel : (x.releaseExpiry).closedLevel = x.closedLevel := by
  simp [HeadCtx.releaseExpiry]
@[simp] theorem HeadCtx.releaseExpiry_openLevel : (x.releaseExpiry).openLevel = x.openLevel := by
  simp [HeadCtx.releaseExpiry]
@[simp] theorem HeadCtx.releaseExpiry_head_params : (x.releaseExpiry).head.params = x.head.params := by
  simp [HeadCtx.releaseExpiry]
@[simp] theorem HeadCtx.releaseExpiry_head_coeffs : (x.releaseExpiry).head.coeffs = x.head.coeffs := by
  simp [HeadCtx.releaseExpiry]
@[simp] theorem HeadCtx.releaseExpiry_head_held : (x.releaseExpiry).head.held = x.head.held := by
  simp [HeadCtx.releaseExpiry]

@[simp] theorem HeadCtx.openLate_now : (x.openLate).now = x.now := by
  simp [HeadCtx.openLate]
@[simp] theorem HeadCtx.openLate_id : (x.openLate).id = x.id := by
  simp [HeadCtx.openLate]
@[simp] theorem HeadCtx.openLate_closedLevel : (x.openLate).closedLevel = x.closedLevel := by
  simp [HeadCtx.openLate]
@[simp] theorem HeadCtx.openLate_openLevel : (x.openLate).openLevel = x.openLevel := by
  simp [HeadCtx.openLate]
@[simp] theorem HeadCtx.openLate_head_params : (x.openLate).head.params = x.head.params := by
  simp [HeadCtx.openLate]
@[simp] theorem HeadCtx.openLate_head_coeffs : (x.openLate).head.coeffs = x.head.coeffs := by
  simp [HeadCtx.openLate]
@[simp] theorem HeadCtx.openLate_head_held : (x.openLate).head.held = x.head.held := by
  simp [HeadCtx.openLate]

@[simp] theorem HeadCtx.segmentExpiry_now : (x.segmentExpiry).now = x.now := by
  unfold HeadCtx.segmentExpiry; (repeat' split) <;> simp
@[simp] theorem HeadCtx.segmentExpiry_id : (x.segmentExpiry).id = x.id := by
  unfold HeadCtx.segmentExpiry; (repeat' split) <;> simp
@[simp] theorem HeadCtx.segmentExpiry_closedLevel : (x.segmentExpiry).closedLevel = x.closedLevel := by
  unfold HeadCtx.segmentExpiry; (repeat' split) <;> simp
@[simp] theorem HeadCtx.segmentExpiry_openLevel : (x.segmentExpiry).openLevel = x.openLevel := by
  unfold HeadCtx.segmentExpiry; (repeat' split) <;> simp
@[simp] theorem HeadCtx.segmentExpiry_head_params : (x.segmentExpiry).head.params = x.head.params := by
  unfold HeadCtx.segmentExpiry; (repeat' split) <;> simp
@[simp] theorem HeadCtx.segmentExpiry_head_coeffs : (x.segmentExpiry).head.coeffs = x.head.coeffs := by
  unfold HeadCtx.segmentExpiry; (repeat' split) <;> simp
@[simp] theorem HeadCtx.segmentExpiry_head_held : (x.segmentExpiry).head.held = x.head.held := by
  unfold HeadCtx.segmentExpiry; (repeat' split) <;> simp

@[simp] theorem HeadCtx.rampStep_now (p : Ramp) : (x.rampStep p).now = x.now := by
  simp [HeadCtx.rampStep]
@[simp] theorem HeadCtx.rampStep_id (p : Ramp) : (x.rampStep p).id = x.id := by
  simp [HeadCtx.rampStep]
@[simp] theorem HeadCtx.rampStep_closedLevel (p : Ramp) : (x.rampStep p).closedLevel = x.closedLevel := by
  simp [HeadCtx.rampStep]
@[simp] theorem HeadCtx.rampStep_openLevel (p : Ramp) : (x.rampStep p).openLevel = x.openLevel := by
  simp [HeadCtx.rampStep]
@[simp] theorem HeadCtx.rampStep_head_params (p : Ramp) : (x.rampStep p).head.params = x.head.params := by
  simp [HeadCtx.rampStep]
@[simp] theorem HeadCtx.rampStep_head_coeffs (p : Ramp) : (x.rampStep p).head.coeffs = x.head.coeffs := by
  simp [HeadCtx.rampStep]
@[simp] theorem HeadCtx.rampStep_head_held (p : Ramp) : (x.rampStep p).head.held = x.head.held := by
  simp [HeadCtx.rampStep]

@[simp] theorem HeadCtx.settleCond_now (c : Cond) (o : Option Bool) : (HeadCtx.settleCond c o x).now = x.now := by
  unfold HeadCtx.settleCond; (repeat' split) <;> simp
@[simp] theorem HeadCtx.settleCond_id (c : Cond) (o : Option Bool) : (HeadCtx.settleCond c o x).id = x.id := by
  unfold HeadCtx.settleCond; (repeat' split) <;> simp
@[simp] theorem HeadCtx.settleCond_closedLevel (c : Cond) (o : Option Bool) : (HeadCtx.settleCond c o x).closedLevel = x.closedLevel := by
  unfold HeadCtx.settleCond; (repeat' split) <;> simp
@[simp] theorem HeadCtx.settleCond_openLevel (c : Cond) (o : Option Bool) : (HeadCtx.settleCond c o x).openLevel = x.openLevel := by
  unfold HeadCtx.settleCond; (repeat' split) <;> simp
@[simp] theorem HeadCtx.settleCond_head_params (c : Cond) (o : Option Bool) : (HeadCtx.settleCond c o x).head.params = x.head.params := by
  unfold HeadCtx.settleCond; (repeat' split) <;> simp
@[simp] theorem HeadCtx.settleCond_head_coeffs (c : Cond) (o : Option Bool) : (HeadCtx.settleCond c o x).head.coeffs = x.head.coeffs := by
  unfold HeadCtx.settleCond; (repeat' split) <;> simp
@[simp] theorem HeadCtx.settleCond_head_held (c : Cond) (o : Option Bool) : (HeadCtx.settleCond c o x).head.held = x.head.held := by
  unfold HeadCtx.settleCond; (repeat' split) <;> simp

@[simp] theorem HeadCtx.moveLow_now (k : SampleClass) : (x.moveLow k).now = x.now := by
  unfold HeadCtx.moveLow; (repeat' split) <;> simp
@[simp] theorem HeadCtx.moveLow_id (k : SampleClass) : (x.moveLow k).id = x.id := by
  unfold HeadCtx.moveLow; (repeat' split) <;> simp
@[simp] theorem HeadCtx.moveLow_closedLevel (k : SampleClass) : (x.moveLow k).closedLevel = x.closedLevel := by
  unfold HeadCtx.moveLow; (repeat' split) <;> simp
@[simp] theorem HeadCtx.moveLow_openLevel (k : SampleClass) : (x.moveLow k).openLevel = x.openLevel := by
  unfold HeadCtx.moveLow; (repeat' split) <;> simp
@[simp] theorem HeadCtx.moveLow_head_params (k : SampleClass) : (x.moveLow k).head.params = x.head.params := by
  unfold HeadCtx.moveLow; (repeat' split) <;> simp
@[simp] theorem HeadCtx.moveLow_head_coeffs (k : SampleClass) : (x.moveLow k).head.coeffs = x.head.coeffs := by
  unfold HeadCtx.moveLow; (repeat' split) <;> simp
@[simp] theorem HeadCtx.moveLow_head_held (k : SampleClass) : (x.moveLow k).head.held = x.head.held := by
  unfold HeadCtx.moveLow; (repeat' split) <;> simp

@[simp] theorem HeadCtx.moveHigh_now (k : SampleClass) : (x.moveHigh k).now = x.now := by
  unfold HeadCtx.moveHigh; (repeat' split) <;> simp
@[simp] theorem HeadCtx.moveHigh_id (k : SampleClass) : (x.moveHigh k).id = x.id := by
  unfold HeadCtx.moveHigh; (repeat' split) <;> simp
@[simp] theorem HeadCtx.moveHigh_closedLevel (k : SampleClass) : (x.moveHigh k).closedLevel = x.closedLevel := by
  unfold HeadCtx.moveHigh; (repeat' split) <;> simp
@[simp] theorem HeadCtx.moveHigh_openLevel (k : SampleClass) : (x.moveHigh k).openLevel = x.openLevel := by
  unfold HeadCtx.moveHigh; (repeat' split) <;> simp
@[simp] theorem HeadCtx.moveHigh_head_params (k : SampleClass) : (x.moveHigh k).head.params = x.head.params := by
  unfold HeadCtx.moveHigh; (repeat' split) <;> simp
@[simp] theorem HeadCtx.moveHigh_head_coeffs (k : SampleClass) : (x.moveHigh k).head.coeffs = x.head.coeffs := by
  unfold HeadCtx.moveHigh; (repeat' split) <;> simp
@[simp] theorem HeadCtx.moveHigh_head_held (k : SampleClass) : (x.moveHigh k).head.held = x.head.held := by
  unfold HeadCtx.moveHigh; (repeat' split) <;> simp

@[simp] theorem HeadCtx.moveSensor_now (k : SampleClass) : (x.moveSensor k).now = x.now := by
  unfold HeadCtx.moveSensor; (repeat' split) <;> simp
@[simp] theorem HeadCtx.moveSensor_id (k : SampleClass) : (x.moveSensor k).id = x.id := by
  unfold HeadCtx.moveSensor; (repeat' split) <;> simp
@[simp] theorem HeadCtx.moveSensor_closedLevel (k : SampleClass) : (x.moveSensor k).closedLevel = x.closedLevel := by
  unfold HeadCtx.moveSensor; (repeat' split) <;> simp
@[simp] theorem HeadCtx.moveSensor_openLevel (k : SampleClass) : (x.moveSensor k).openLevel = x.openLevel := by
  unfold HeadCtx.moveSensor; (repeat' split) <;> simp
@[simp] theorem HeadCtx.moveSensor_head_params (k : SampleClass) : (x.moveSensor k).head.params = x.head.params := by
  unfold HeadCtx.moveSensor; (repeat' split) <;> simp
@[simp] theorem HeadCtx.moveSensor_head_coeffs (k : SampleClass) : (x.moveSensor k).head.coeffs = x.head.coeffs := by
  unfold HeadCtx.moveSensor; (repeat' split) <;> simp
@[simp] theorem HeadCtx.moveSensor_head_held (k : SampleClass) : (x.moveSensor k).head.held = x.head.held := by
  unfold HeadCtx.moveSensor; (repeat' split) <;> simp

@[simp] theorem HeadCtx.movePlatenCond_now : (x.movePlatenCond).now = x.now := by
  simp only [HeadCtx.movePlatenCond]; (repeat' split) <;> simp
@[simp] theorem HeadCtx.movePlatenCond_id : (x.movePlatenCond).id = x.id := by
  simp only [HeadCtx.movePlatenCond]; (repeat' split) <;> simp
@[simp] theorem HeadCtx.movePlatenCond_closedLevel : (x.movePlatenCond).closedLevel = x.closedLevel := by
  simp only [HeadCtx.movePlatenCond]; (repeat' split) <;> simp
@[simp] theorem HeadCtx.movePlatenCond_openLevel : (x.movePlatenCond).openLevel = x.openLevel := by
  simp only [HeadCtx.movePlatenCond]; (repeat' split) <;> simp
@[simp] theorem HeadCtx.movePlatenCond_head_params : (x.movePlatenCond).head.params = x.head.params := by
  simp only [HeadCtx.movePlatenCond]; (repeat' split) <;> simp
@[simp] theorem HeadCtx.movePlatenCond_head_coeffs : (x.movePlatenCond).head.coeffs = x.head.coeffs := by
  simp only [HeadCtx.movePlatenCond]; (repeat' split) <;> simp
@[simp] theorem HeadCtx.movePlatenCond_head_held : (x.movePlatenCond).head.held = x.head.held := by
  simp only [HeadCtx.movePlatenCond]; (repeat' split) <;> simp

@[simp] theorem HeadCtx.countSample_now (k : SampleClass) : (x.countSample k).now = x.now := by
  simp only [HeadCtx.countSample]; (repeat' split) <;> simp
@[simp] theorem HeadCtx.countSample_id (k : SampleClass) : (x.countSample k).id = x.id := by
  simp only [HeadCtx.countSample]; (repeat' split) <;> simp
@[simp] theorem HeadCtx.countSample_closedLevel (k : SampleClass) : (x.countSample k).closedLevel = x.closedLevel := by
  simp only [HeadCtx.countSample]; (repeat' split) <;> simp
@[simp] theorem HeadCtx.countSample_openLevel (k : SampleClass) : (x.countSample k).openLevel = x.openLevel := by
  simp only [HeadCtx.countSample]; (repeat' split) <;> simp
@[simp] theorem HeadCtx.countSample_head_params (k : SampleClass) : (x.countSample k).head.params = x.head.params := by
  simp only [HeadCtx.countSample]; (repeat' split) <;> simp
@[simp] theorem HeadCtx.countSample_head_coeffs (k : SampleClass) : (x.countSample k).head.coeffs = x.head.coeffs := by
  simp only [HeadCtx.countSample]; (repeat' split) <;> simp
@[simp] theorem HeadCtx.countSample_head_held (k : SampleClass) : (x.countSample k).head.held = x.head.held := by
  simp only [HeadCtx.countSample]; (repeat' split) <;> simp

@[simp] theorem HeadCtx.markLowSeen_now : (x.markLowSeen).now = x.now := by
  simp only [HeadCtx.markLowSeen]; (repeat' split) <;> simp
@[simp] theorem HeadCtx.markLowSeen_id : (x.markLowSeen).id = x.id := by
  simp only [HeadCtx.markLowSeen]; (repeat' split) <;> simp
@[simp] theorem HeadCtx.markLowSeen_closedLevel : (x.markLowSeen).closedLevel = x.closedLevel := by
  simp only [HeadCtx.markLowSeen]; (repeat' split) <;> simp
@[simp] theorem HeadCtx.markLowSeen_openLevel : (x.markLowSeen).openLevel = x.openLevel := by
  simp only [HeadCtx.markLowSeen]; (repeat' split) <;> simp
@[simp] theorem HeadCtx.markLowSeen_head_params : (x.markLowSeen).head.params = x.head.params := by
  simp only [HeadCtx.markLowSeen]; (repeat' split) <;> simp
@[simp] theorem HeadCtx.markLowSeen_head_coeffs : (x.markLowSeen).head.coeffs = x.head.coeffs := by
  simp only [HeadCtx.markLowSeen]; (repeat' split) <;> simp
@[simp] theorem HeadCtx.markLowSeen_head_held : (x.markLowSeen).head.held = x.head.held := by
  simp only [HeadCtx.markLowSeen]; (repeat' split) <;> simp

@[simp] theorem HeadCtx.moveReady_now (m : Option Nat) : (x.moveReady m).now = x.now := by
  simp only [HeadCtx.moveReady]; (repeat' split) <;> simp
@[simp] theorem HeadCtx.moveReady_id (m : Option Nat) : (x.moveReady m).id = x.id := by
  simp only [HeadCtx.moveReady]; (repeat' split) <;> simp
@[simp] theorem HeadCtx.moveReady_closedLevel (m : Option Nat) : (x.moveReady m).closedLevel = x.closedLevel := by
  simp only [HeadCtx.moveReady]; (repeat' split) <;> simp
@[simp] theorem HeadCtx.moveReady_openLevel (m : Option Nat) : (x.moveReady m).openLevel = x.openLevel := by
  simp only [HeadCtx.moveReady]; (repeat' split) <;> simp
@[simp] theorem HeadCtx.moveReady_head_params (m : Option Nat) : (x.moveReady m).head.params = x.head.params := by
  simp only [HeadCtx.moveReady]; (repeat' split) <;> simp
@[simp] theorem HeadCtx.moveReady_head_coeffs (m : Option Nat) : (x.moveReady m).head.coeffs = x.head.coeffs := by
  simp only [HeadCtx.moveReady]; (repeat' split) <;> simp
@[simp] theorem HeadCtx.moveReady_head_held (m : Option Nat) : (x.moveReady m).head.held = x.head.held := by
  simp only [HeadCtx.moveReady]; (repeat' split) <;> simp

@[simp] theorem HeadCtx.takeDeclared_now (b : Head) : (x.takeDeclared b).now = x.now := by
  simp only [HeadCtx.takeDeclared]; (repeat' split) <;> simp
@[simp] theorem HeadCtx.takeDeclared_id (b : Head) : (x.takeDeclared b).id = x.id := by
  simp only [HeadCtx.takeDeclared]; (repeat' split) <;> simp
@[simp] theorem HeadCtx.takeDeclared_closedLevel (b : Head) : (x.takeDeclared b).closedLevel = x.closedLevel := by
  simp only [HeadCtx.takeDeclared]; (repeat' split) <;> simp
@[simp] theorem HeadCtx.takeDeclared_openLevel (b : Head) : (x.takeDeclared b).openLevel = x.openLevel := by
  simp only [HeadCtx.takeDeclared]; (repeat' split) <;> simp
@[simp] theorem HeadCtx.takeDeclared_head_params (b : Head) : (x.takeDeclared b).head.params = x.head.params := by
  simp only [HeadCtx.takeDeclared]; (repeat' split) <;> simp
@[simp] theorem HeadCtx.takeDeclared_head_coeffs (b : Head) : (x.takeDeclared b).head.coeffs = x.head.coeffs := by
  simp only [HeadCtx.takeDeclared]; (repeat' split) <;> simp
@[simp] theorem HeadCtx.takeDeclared_head_held (b : Head) : (x.takeDeclared b).head.held = x.head.held := by
  simp only [HeadCtx.takeDeclared]; (repeat' split) <;> simp

@[simp] theorem HeadCtx.sample_now (p : Option Nat) : (x.sample p).now = x.now := by
  simp [HeadCtx.sample]
@[simp] theorem HeadCtx.sample_id (p : Option Nat) : (x.sample p).id = x.id := by
  simp [HeadCtx.sample]
@[simp] theorem HeadCtx.sample_closedLevel (p : Option Nat) : (x.sample p).closedLevel = x.closedLevel := by
  simp [HeadCtx.sample]
@[simp] theorem HeadCtx.sample_openLevel (p : Option Nat) : (x.sample p).openLevel = x.openLevel := by
  simp [HeadCtx.sample]
@[simp] theorem HeadCtx.sample_head_params (p : Option Nat) : (x.sample p).head.params = x.head.params := by
  simp [HeadCtx.sample]
@[simp] theorem HeadCtx.sample_head_coeffs (p : Option Nat) : (x.sample p).head.coeffs = x.head.coeffs := by
  simp [HeadCtx.sample]
@[simp] theorem HeadCtx.sample_head_held (p : Option Nat) : (x.sample p).head.held = x.head.held := by
  simp [HeadCtx.sample]

@[simp] theorem HeadCtx.zeroCounters_now : (x.zeroCounters).now = x.now := by
  simp only [HeadCtx.zeroCounters]; (repeat' split) <;> simp
@[simp] theorem HeadCtx.zeroCounters_id : (x.zeroCounters).id = x.id := by
  simp only [HeadCtx.zeroCounters]; (repeat' split) <;> simp
@[simp] theorem HeadCtx.zeroCounters_closedLevel : (x.zeroCounters).closedLevel = x.closedLevel := by
  simp only [HeadCtx.zeroCounters]; (repeat' split) <;> simp
@[simp] theorem HeadCtx.zeroCounters_openLevel : (x.zeroCounters).openLevel = x.openLevel := by
  simp only [HeadCtx.zeroCounters]; (repeat' split) <;> simp
@[simp] theorem HeadCtx.zeroCounters_head_params : (x.zeroCounters).head.params = x.head.params := by
  simp only [HeadCtx.zeroCounters]; (repeat' split) <;> simp
@[simp] theorem HeadCtx.zeroCounters_head_coeffs : (x.zeroCounters).head.coeffs = x.head.coeffs := by
  simp only [HeadCtx.zeroCounters]; (repeat' split) <;> simp
@[simp] theorem HeadCtx.zeroCounters_head_held : (x.zeroCounters).head.held = x.head.held := by
  simp only [HeadCtx.zeroCounters]; (repeat' split) <;> simp

end CtxOps

end Sys2Proof.Machine
end

