-- ==== Sys2Proof/Laws/Cycle.lean ====
section
/-! SUPPORT. The operations of a cycle, each once with everything it does: the end of a cycle, the release phase, segments and
setpoints. -/

namespace Sys2Proof.Machine

/-- The write of an end reaches only the pack that the head refers to (R82). -/
theorem HeadCtx.writeEnd_out (x : HeadCtx) (reason) (p) (h : ∀ e ∈ x.out, e.within p) (hp : x.head.packRef = p) :
    ∀ e ∈ (x.writeEnd reason).out, e.within p := by
  unfold HeadCtx.writeEnd
  split
  · rename_i ref _ href
    intro e he
    simp only [HeadCtx.emit, List.mem_append, List.mem_singleton] at he
    rcases he with he | rfl
    · exact h e he
    · simp [HeadEffect.within, ← hp, href]
  · exact h

@[simp] theorem HeadCtx.writeEnd_head (x : HeadCtx) (reason) : (x.writeEnd reason).head = x.head := by
  unfold HeadCtx.writeEnd; split <;> rfl
@[simp] theorem HeadCtx.writeEnd_status (x : HeadCtx) (reason) : (x.writeEnd reason).status = x.status := by
  unfold HeadCtx.writeEnd; split <;> rfl

/-- The head after steps 1 to 4 of an abnormal end (R83). -/
theorem HeadCtx.finish_head (x : HeadCtx) (reason primary) : (x.finish reason primary).head =
    { x.head.dropCycle with counters := { x.head.counters with failed := min 65535 (x.head.counters.failed + 1) } } := by
  unfold HeadCtx.finish; cases primary <;> simp [HeadCtx.mapHead, HeadCtx.post, Head.dropCycle]
/-- The status after an abnormal end (R83). -/
theorem HeadCtx.finish_status (x : HeadCtx) (reason primary) : (x.finish reason primary).status =
    if primary then x.status.post (.primary (x.endRecord reason)) else x.status := by
  unfold HeadCtx.finish; cases primary <;> simp [HeadCtx.mapHead, HeadCtx.post]
/-- What an abnormal end writes outside the head (R82). -/
theorem HeadCtx.finish_out (x : HeadCtx) (reason primary) : (x.finish reason primary).out = (x.writeEnd reason).out := by
  unfold HeadCtx.finish; cases primary <;> simp [HeadCtx.mapHead, HeadCtx.post]

/-- A confirmation writes nothing outside the head (R85). -/
theorem HeadCtx.confirm_out (x : HeadCtx) (r : Release) : (x.confirm r).out = x.out := by
  unfold HeadCtx.confirm; rcases r with ⟨d, _ | _ | _, _ | _⟩ <;> rfl

/-- The status after a confirmation (R85). -/
theorem HeadCtx.confirm_status (x : HeadCtx) (r : Release) : (x.confirm r).status =
   if r.secondaryOwed then x.status.post .secondary else x.status := by
  unfold HeadCtx.confirm; rcases r with ⟨d, _ | _ | _, _ | _⟩ <;> rfl

/-- The head after a confirmation (R85). -/
theorem HeadCtx.confirm_head (x : HeadCtx) (r : Release) : (x.confirm r).head =
   let y : Head := { x.head with platen := .opened, release := none, packRef := none }
   match r.dest with | .ready => y.enterReady x.now | .heating => y.enterHeating x.now | .safe => y := by
  unfold HeadCtx.confirm; rcases r with ⟨d, _ | _ | _, _ | _⟩ <;> rfl

/-- A release phase writes nothing outside the head (R84). -/
theorem HeadCtx.beginRelease_out (x : HeadCtx) (d o) : (x.beginRelease d o).out = x.out := by
  unfold HeadCtx.beginRelease; dsimp only; split
  · rw [HeadCtx.confirm_out]; rfl
  · rfl

/-- What an abnormal end writes outside the head (R82). -/
theorem HeadCtx.abnormal_out (x : HeadCtx) (reason d o) : (x.abnormal reason d o).out = (x.writeEnd reason).out := by
  unfold HeadCtx.abnormal; dsimp only; split
  · exact x.finish_out reason o
  · rw [HeadCtx.beginRelease_out, HeadCtx.finish_out]

/-- A release phase that is not confirmed in the act of its beginning (R84). -/
theorem HeadCtx.beginRelease_waits (x : HeadCtx) (d o) (h : x.head.params.loopMode = .dry ∨ x.openLevel = false ∨ x.closedLevel = true) :
   x.beginRelease d o = x.mapHead fun h =>
    Head.virtualOpen x.now (Head.restFor x.now d
        { h with closeOut := false, auxOut := false, platen := h.platen.retract, release := some ⟨x.now + x.head.params.openLimit, d, o⟩ }) := by
  unfold HeadCtx.beginRelease
  dsimp only
  rw [if_neg]
  rcases h with h | h | h <;> simp [Head.isDry, h]
@[simp] theorem HeadCtx.beginRelease_status_waits (x : HeadCtx) (d o) (h : x.head.params.loopMode = .dry ∨ x.openLevel = false ∨ x.closedLevel = true) :
   (x.beginRelease d o).status = x.status := by rw [x.beginRelease_waits d o h]; rfl

/-- The virtual-edge timer is all that a virtual OPEN moves (R165). -/
theorem Head.virtualOpen_eq (x : Head) (now) : x.virtualOpen now = { x with virtual := x.virtualAtOpening now } := by
  rcases hv : x.virtual with _ | ⟨_ | _, d⟩ <;> by_cases hd : x.params.loopMode = .dry <;>
    simp [Head.virtualOpen, Head.virtualAtOpening, Head.isDry, Config.virtualTime, hd, hv] <;> rw [← hv]

/-- The timer at an OPEN depends on the loop mode and the timer alone (R165). -/
theorem Head.virtualAtOpening_congr {x y : Head} (hp : x.params = y.params) (hv : x.virtual = y.virtual) (now) :
    x.virtualAtOpening now = y.virtualAtOpening now := by
  simp only [Head.virtualAtOpening, hp, hv]

/-- SAFE has both setpoints at 0 (R96). -/
theorem Head.rest_restsIn (x : Head) (now) : (x.rest now .safe 0).restsIn .safe := by
  simp [Head.rest, Head.restsIn]

/-- The station result of an end, spelled out (R82). -/
theorem HeadCtx.endResult_eq (x : HeadCtx) (reason : EndReason) : x.endResult reason = x.head.endedResult x.id reason := by
  unfold HeadCtx.endResult Head.endedResult
  rcases x.head.run? with _ | r
  · rfl
  · by_cases h : ∃ g ∈ r.segments, g.dose = true
    · have : r.hasDose = true := by simpa [Run.hasDose, List.any_eq_true] using h
      simp only [Option.bind_some, Option.any_some, this, h, if_true]; rfl
    · have : r.hasDose = false := by simpa [Run.hasDose] using h
      simp only [Option.bind_some, Option.any_some, this, h, if_false]; rfl

theorem EndReason.rejects_eq (reason : EndReason) (st : Station) : reason.rejects st = reason.rejectMask st := by
  cases reason <;> cases st <;> decide

/-- The reject reasons of an end, spelled out (R82). -/
theorem HeadCtx.endRejects_eq (x : HeadCtx) (reason : EndReason) (st : Station) :
    x.endRejects reason st = x.head.endedMask reason st := by
  unfold HeadCtx.endRejects Head.endedMask
  have h1 : RejectReason.lowTemp.set = 0x2000 := by decide
  have h2 : RejectReason.dryRun.set = 0x20000 := by decide
  rw [EndReason.rejects_eq, h1, h2]
  rcases x.head.run? with _ | r
  · simp
  · by_cases hd : x.head.params.loopMode = .dry <;> simp [Head.isDry, hd, BitVec.or_assoc]

/-- The record of an end, spelled out (R150). -/
theorem HeadCtx.endRecord_eq (x : HeadCtx) (reason : EndReason) : x.endRecord reason = x.head.endedRecord x.id reason := by
  unfold HeadCtx.endRecord Head.endedRecord
  rw [HeadCtx.endResult_eq]
  rcases x.head.cycle with _ | ⟨_ | _, r⟩ <;> rcases x.head.packRef with _ | p <;> rfl

/-- What an abnormal end does at the head itself (R83, R84). -/
theorem HeadCtx.abnormal_headEnded {s t : State} {h : Fin 16} {reason : EndReason} {dest : ReleaseDest} {primary : Bool}
    (hh : t.head h = ((s.ctx h).abnormal reason dest primary).head)
    (hs : t.status h = ((s.ctx h).abnormal reason dest primary).status) : s.headEnded h reason dest primary t := by
  have hfin := (s.ctx h).finish_head reason primary
  have hst := (s.ctx h).finish_status reason primary
  have hcx : (s.ctx h).head = s.head h := rfl
  have hid : (s.ctx h).id = h := rfl
  have hcs : (s.ctx h).status = s.status h := rfl
  have hnow : (s.ctx h).now = s.now := rfl
  have waits : s.releaseWaits h ↔ ((s.ctx h).head.params.loopMode = .dry ∨ (s.ctx h).openLevel = false ∨
    (s.ctx h).closedLevel = true) := Iff.rfl
  unfold State.headEnded
  rw [hh, hs, ← hcx, ← hcs]
  generalize s.ctx h = c at *
  have hcp : (c.finish reason primary).head.platen = c.head.platen := by rw [hfin]; rfl
  have post : primary = true → (if primary then c.status.post (.primary (c.endRecord reason)) else c.status) =
      c.status.post (.primary (c.head.endedRecord h reason)) := fun hp => by
    rw [if_pos hp, c.endRecord_eq, hid]
  by_cases hpl : c.head.platen = .opened
  · have e : c.abnormal reason dest primary =
        (c.finish reason primary).mapHead fun h => Head.enterDest c.now dest { h with packRef := none } := by
      simp only [HeadCtx.abnormal, hcp, hpl, if_true]
    simp only [e, HeadCtx.mapHead, hfin, hst]
    refine ⟨?_, ?_, ?_, ?_, ?_, ?_, ?_, fun n => absurd hpl n, fun n => absurd hpl n, fun hp _ => post hp,
      fun _ n => absurd hpl n⟩
    all_goals
      cases dest <;>
        simp [Head.enterDest, Head.enterReady, Head.enterHeating, Head.rest, Head.cycleGone, Head.dropCycle, hpl,
          Head.restsIn, Head.timesChange, hnow]
  · have e : c.abnormal reason dest primary = (c.finish reason primary).beginRelease dest primary := by
      simp only [HeadCtx.abnormal, hcp, hpl, if_false]
    have f1 : (c.finish reason primary).now = c.now := by simp
    have f2 : (c.finish reason primary).openLevel = c.openLevel := by simp
    have f3 : (c.finish reason primary).closedLevel = c.closedLevel := by simp
    rw [e]
    by_cases hw : s.releaseWaits h
    · rw [HeadCtx.beginRelease_waits _ _ _ (by rw [hfin, f2, f3]; exact waits.1 hw)]
      simp only [HeadCtx.mapHead, hfin, hst, f1, Head.virtualOpen_eq]
      refine ⟨?_, ?_, ?_, ?_, ?_, ?_, fun n => absurd n hpl, fun _ _ => ?_, fun _ n => absurd hw n, fun hp _ => post hp,
        fun _ _ n => absurd hw n⟩
      all_goals
        cases dest <;>
          simp [Head.restFor, Head.rest, Head.cycleGone, Head.restsIn, Head.dropCycle, Head.timesChange,
            Head.virtualAtOpening, ← hnow] <;>
          exact ⟨rfl, rfl⟩
    · have hw' : ¬ (c.head.params.loopMode = .dry ∨ c.openLevel = false ∨ c.closedLevel = true) := fun a => hw (waits.2 a)
      simp only [not_or] at hw'
      have hd : (c.finish reason primary).head.isDry = false := by rw [hfin]; simp [Head.isDry, Head.dropCycle, hw'.1]
      unfold HeadCtx.beginRelease
      dsimp only
      rw [if_pos (by rw [hd, f2, f3]; simp [hw'.2.1, hw'.2.2])]
      simp only [HeadCtx.confirm_head, HeadCtx.confirm_status, HeadCtx.mapHead, hfin, f1]
      refine ⟨?_, ?_, ?_, ?_, ?_, ?_, fun n => absurd n hpl, fun _ a => absurd a hw, fun _ _ => ?_,
        fun _ a => (a.elim hpl hw).elim, fun hp _ _ => ?_⟩
      all_goals try
        (cases dest <;>
          simp [Head.virtualOpen, Head.isDry, hw'.1, Head.restFor, Head.rest, Head.cycleGone, Head.dropCycle,
            Head.enterReady, Head.enterHeating, Head.restsIn, Head.timesChange, hnow] <;> done)
      rw [if_pos hp, hst, post hp]

/-- The last DOSE segment has DOSE, and none after it has (R127). -/
theorem lastDoseFrom_some {n k : Nat} {l : List Segment} (h : lastDoseFrom n l = some k) :
    n ≤ k ∧ (∃ g, l[k - n]? = some g ∧ g.dose = true) ∧ ∀ g ∈ l.drop (k - n + 1), g.dose = false := by
  induction l generalizing n with
  | nil => cases h
  | cons g rest ih =>
    simp only [lastDoseFrom] at h
    rcases e : lastDoseFrom (n + 1) rest with _ | k'
    · rw [e] at h
      by_cases hd : g.dose = true
      · simp [hd] at h
        subst h
        refine ⟨le_refl _, ⟨g, by simp, hd⟩, ?_⟩
        intro g' hg'
        simp at hg'
        -- no dose in rest
        by_contra hc
        have : ∀ (l : List Segment) m, lastDoseFrom m l = none → ∀ g ∈ l, g.dose = false := by
          intro l
          induction l with
          | nil => intro m _ g hg; cases hg
          | cons a b ihb =>
            intro m hm g hg
            simp only [lastDoseFrom] at hm
            rcases eb : lastDoseFrom (m+1) b with _ | q
            · rw [eb] at hm
              rcases List.mem_cons.1 hg with rfl | hg
              · by_contra hx; simp [hx] at hm
              · exact ihb _ eb g hg
            · rw [eb] at hm; simp at hm
        exact hc (this rest _ e g' hg')
      · simp [hd] at h
    · rw [e] at h
      simp at h
      subst h
      obtain ⟨a, ⟨g', b, c⟩, d⟩ := ih e
      refine ⟨by omega, ⟨g', ?_, c⟩, ?_⟩
      · have : k' - n = (k' - (n+1)) + 1 := by omega
        rw [this]; simpa using b
      · intro g2 hg2
        apply d
        have : k' - n + 1 = (k' - (n+1) + 1) + 1 := by omega
        rw [this] at hg2; simpa using hg2

/-- A plain segment is not the last DOSE segment. -/
theorem Head.plainSegment.not_lastDose {x : Head} {kind r g} (h : x.plainSegment kind r g) : lastDoseFrom 0 r.segments ≠ some r.current := by
  intro e
  obtain ⟨_, ⟨g', h1, h2⟩, h3⟩ := lastDoseFrom_some e
  simp at h1 h3
  obtain ⟨_, _, hg, _, hd⟩ := h
  rw [hg] at h1; cases h1
  obtain ⟨g2, m, d⟩ := hd h2
  rw [h3 g2 m] at d; cases d

/-- What follows the end of a plain segment (R80). -/
theorem HeadCtx.advance_eq {x : HeadCtx} {kind r g} (h : x.head.plainSegment kind r g) :
   x.advance = (x.mapHead fun h => { h with ramp := none, auxOut := false }).runFrom r.span (r.current + 1) := by
  have hr := h.2.1
  unfold HeadCtx.advance
  rw [hr]
  simp only [HeadCtx.endSegment, if_neg (h.not_lastDose)]

/-- A segment that takes time is begun and the act ends (R76). -/
theorem HeadCtx.runFrom_begin {x : HeadCtx} {r : Run} {n k g} (hr : x.head.run? = some r) (hg : r.segments[n]? = some g) (hi : g.instant = false) :
   x.runFrom (k+1) n = x.beginSegment n g := by
  rw [HeadCtx.runFrom, hr]; simp only [hg, hi]; rfl

/-- Past the last segment the cycle completes (R80). -/
theorem HeadCtx.runFrom_complete {x : HeadCtx} {r : Run} {n k} (hr : x.head.run? = some r) (hg : r.segments[n]? = none) :
   x.runFrom (k+1) n = x.complete := by
  rw [HeadCtx.runFrom, hr]; simp only [hg]

@[simp] theorem HeadCtx.beginSegment_out (x : HeadCtx) (n g) : (x.beginSegment n g).out = x.out := by
  unfold HeadCtx.beginSegment; dsimp only; split <;> rfl
@[simp] theorem HeadCtx.beginSegment_status (x : HeadCtx) (n g) : (x.beginSegment n g).status = if g.notify then x.status.post (.intermediate n) else x.status := by
  unfold HeadCtx.beginSegment; dsimp only; split <;> rfl

/-- A cycle record rewritten. -/
theorem Head.updateRun_run? (x : Head) (f) : (x.updateRun f).run? = x.run?.map f := by
  simp only [Head.run?, Head.updateRun]; rcases x.cycle with _ | ⟨o, _ | r⟩ <;> rfl

/-- What every setpoint operation keeps: all of a head but its setpoints, codes, ramp and the two clamp flags of its cycle. -/
structure SetpointStep (x y : Head) : Prop where
  state : y.state = x.state
  platen : y.platen = x.platen
  params : y.params = x.params
  close : y.closeOut = x.closeOut
  aux : y.auxOut = x.auxOut
  pref : y.packRef = x.packRef
  timer : y.startTimer = x.startTimer
  release : y.release = x.release
  counters : y.counters = x.counters
  origin : y.cycle.map Cycle.origin = x.cycle.map Cycle.origin
  run : ∀ r, x.run? = some r → ∃ a b, y.run? = some { r with ceilingClamped := a, outputClamped := b }

theorem SetpointStep.refl (x : Head) : SetpointStep x x := ⟨rfl,rfl,rfl,rfl,rfl,rfl,rfl,rfl,rfl,rfl,fun r h => ⟨_,_,h⟩⟩
theorem SetpointStep.trans {x y z : Head} (a : SetpointStep x y) (b : SetpointStep y z) : SetpointStep x z := by
  refine ⟨b.1.trans a.1, b.2.trans a.2, b.3.trans a.3, b.4.trans a.4, b.5.trans a.5, b.6.trans a.6, b.7.trans a.7, b.8.trans a.8, b.9.trans a.9, b.10.trans a.10, ?_⟩
  intro r h
  obtain ⟨_, _, h1⟩ := a.11 r h
  obtain ⟨_, _, h2⟩ := b.11 _ h1
  exact ⟨_, _, h2⟩

theorem SetpointStep.noteClamp (x : Head) (c) : SetpointStep x (x.noteClamp c) := by
  unfold Head.noteClamp; split
  · refine ⟨rfl,rfl,rfl,rfl,rfl,rfl,rfl,rfl,rfl,?_,?_⟩
    · simp only [Head.updateRun]; rcases x.cycle with _ | _ <;> rfl
    · intro r h; rw [Head.updateRun_run?, h]; exact ⟨_, _, rfl⟩
  · exact SetpointStep.refl x
theorem SetpointStep.noteCeiling (x : Head) (c) : SetpointStep x (x.noteCeiling c) := by
  unfold Head.noteCeiling; split
  · refine ⟨rfl,rfl,rfl,rfl,rfl,rfl,rfl,rfl,rfl,?_,?_⟩
    · simp only [Head.updateRun]; rcases x.cycle with _ | _ <;> rfl
    · intro r h; rw [Head.updateRun_run?, h]; exact ⟨_, _, rfl⟩
  · exact SetpointStep.refl x
theorem SetpointStep.setTemp (x : Head) (n v) : SetpointStep x (x.setTemp n v) := by
  unfold Head.setTemp; split
  · exact SetpointStep.refl x
  · refine SetpointStep.trans (y := { x with tempSet := v, tempChanged := some n, heaterCode := (x.present .heater v).1 }) ⟨rfl,rfl,rfl,rfl,rfl,rfl,rfl,rfl,rfl,rfl,fun r h => ⟨_,_,h⟩⟩ (SetpointStep.noteClamp _ _)
theorem SetpointStep.setPres (x : Head) (v) : SetpointStep x (x.setPres v) := by
  unfold Head.setPres; split
  · exact SetpointStep.refl x
  · refine SetpointStep.trans (y := { x with presSet := v, pressureCode := (x.present .pressure v).1 }) ⟨rfl,rfl,rfl,rfl,rfl,rfl,rfl,rfl,rfl,rfl,fun r h => ⟨_,_,h⟩⟩ (SetpointStep.noteClamp _ _)
theorem SetpointStep.stepTemp (x : Head) (n v) : SetpointStep x (x.stepTemp n v) := by
  unfold Head.stepTemp; split
  · exact SetpointStep.refl x
  · exact SetpointStep.trans (SetpointStep.noteCeiling _ _) (SetpointStep.setTemp _ _ _)
theorem SetpointStep.stepPres (x : Head) (v) : SetpointStep x (x.stepPres v) := by
  unfold Head.stepPres; split
  · exact SetpointStep.refl x
  · exact SetpointStep.setPres _ _
theorem SetpointStep.rampEnd (x : Head) (n p) : SetpointStep x (x.rampEnd n p) := by
  unfold Head.rampEnd
  rcases p with ⟨a, b, c, _ | ⟨t1, t2⟩, _ | ⟨p1, p2⟩⟩ <;> dsimp only
  · exact SetpointStep.refl x
  · exact SetpointStep.setPres _ _
  · exact SetpointStep.setTemp _ _ _
  · exact (SetpointStep.setTemp _ _ _).trans (SetpointStep.setPres _ _)
theorem SetpointStep.startRamp (x : Head) (n g) : SetpointStep x (x.startRamp n g) := by
  rcases g with ⟨k, _ | t, pr, d, b1, b2, b3, b4⟩ <;> unfold Head.startRamp <;> dsimp only <;> split
  · exact SetpointStep.rampEnd _ _ _
  · split
    · exact ⟨rfl,rfl,rfl,rfl,rfl,rfl,rfl,rfl,rfl,rfl,fun r h => ⟨_,_,h⟩⟩
    · exact SetpointStep.refl x
  · exact (SetpointStep.noteCeiling x t).trans (SetpointStep.rampEnd _ _ _)
  · refine (SetpointStep.noteCeiling x t).trans ?_
    split
    · exact ⟨rfl,rfl,rfl,rfl,rfl,rfl,rfl,rfl,rfl,rfl,fun r h => ⟨_,_,h⟩⟩
    · exact SetpointStep.refl _
theorem SetpointStep.applyTargets (x : Head) (n g) : SetpointStep x (x.applyTargets n g) := by
  unfold Head.applyTargets
  split
  · exact (SetpointStep.stepTemp _ _ _).trans (SetpointStep.stepPres _ _)
  · exact (SetpointStep.stepTemp _ _ _).trans (SetpointStep.stepPres _ _)
  · exact (SetpointStep.setPres _ _).trans (SetpointStep.stepTemp _ _ _)
  · exact SetpointStep.startRamp _ _ _

theorem Head.setTemp_tempSet (x : Head) (n v) : (x.setTemp n v).tempSet = v := by
  unfold Head.setTemp; split
  · rename_i h; exact h.symm
  · unfold Head.noteClamp; split <;> rfl
theorem Head.setTemp_presSet (x : Head) (n v) : (x.setTemp n v).presSet = x.presSet := by
  unfold Head.setTemp; split
  · rfl
  · unfold Head.noteClamp; split <;> rfl
theorem Head.setPres_presSet (x : Head) (v) : (x.setPres v).presSet = v := by
  unfold Head.setPres; split
  · rename_i h; exact h.symm
  · unfold Head.noteClamp; split <;> rfl
theorem Head.setPres_tempSet (x : Head) (v) : (x.setPres v).tempSet = x.tempSet := by
  unfold Head.setPres; split
  · rfl
  · unfold Head.noteClamp; split <;> rfl
theorem Head.stepTemp_tempSet (x : Head) (n v) : (x.stepTemp n (some v)).tempSet = min v x.params.ceiling := by
  simp [Head.stepTemp, Head.setTemp_tempSet, Head.ceiled]
theorem Head.noteCeiling_presSet (x : Head) (v) : (x.noteCeiling v).presSet = x.presSet := by
  unfold Head.noteCeiling; split <;> rfl
theorem Head.stepTemp_presSet (x : Head) (n v) : (x.stepTemp n v).presSet = x.presSet := by
  unfold Head.stepTemp; split
  · rfl
  · rw [Head.setTemp_presSet, Head.noteCeiling_presSet]
theorem Head.stepPres_tempSet (x : Head) (v) : (x.stepPres v).tempSet = x.tempSet := by
  unfold Head.stepPres; split
  · rfl
  · rw [Head.setPres_tempSet]

/-! ### Setpoint operations of a RUNNING head, as record equations (R97 to R103) -/

/-- A cycle record with its two clamp flags joined by marks (R98, R103). -/
def flagCycle (ceiling output : Bool) (o : Option Cycle) : Option Cycle :=
  o.map fun c =>
    { c with
      run := c.run.map fun r =>
        { r with ceilingClamped := r.ceilingClamped || ceiling, outputClamped := r.outputClamped || output } }

@[simp] theorem flagCycle_false (o : Option Cycle) : flagCycle false false o = o := by
  simp only [flagCycle, Bool.or_false]
  rcases o with _ | ⟨o, _ | r⟩ <;> rfl

/-- Marks joined in turn are joined at once. -/
@[simp] theorem flagCycle_flagCycle (a b c d : Bool) (o : Option Cycle) :
    flagCycle c d (flagCycle a b o) = flagCycle (a || c) (b || d) o := by
  simp only [flagCycle]
  rcases o with _ | ⟨o, _ | r⟩ <;> simp [Bool.or_assoc]

theorem flagCycle_run? (a b : Bool) (o : Option Cycle) :
    (flagCycle a b o).bind Cycle.run = (o.bind Cycle.run).map fun r =>
      { r with ceilingClamped := r.ceilingClamped || a, outputClamped := r.outputClamped || b } := by
  rcases o with _ | ⟨o, _ | r⟩ <;> rfl

@[simp] theorem flagCycle_origin (a b : Bool) (o : Option Cycle) :
    (flagCycle a b o).map Cycle.origin = o.map Cycle.origin := by
  rcases o with _ | ⟨o, _ | r⟩ <;> rfl

/-- The cycle record of `Head.cycleClamped`, as marks. -/
theorem Head.cycleClamped_eq (x : Head) (v w : Nat) :
    x.cycleClamped v w =
      flagCycle false (x.limitActs .heater x.tempSet v || x.limitActs .pressure x.presSet w) x.cycle := by
  simp only [Head.cycleClamped, flagCycle, Bool.or_false, Bool.or_assoc]

theorem Head.noteCeiling_eq (x : Head) (v : Nat) :
    x.noteCeiling v = { x with cycle := flagCycle (decide (x.params.ceiling < v)) false x.cycle } := by
  unfold Head.noteCeiling
  by_cases h : x.params.ceiling < v
  · simp [h, Head.updateRun, flagCycle]
  · simp [h]

theorem Head.noteClamp_eq (x : Head) (b : Bool) : x.noteClamp b = { x with cycle := flagCycle false b x.cycle } := by
  cases b
  · simp [Head.noteClamp]
  · simp [Head.noteClamp, Head.updateRun, flagCycle]

@[simp] theorem Head.limitActs_self (o : Output) (v : Nat) (x : Head) : x.limitActs o v v = false := by
  simp [Head.limitActs]

theorem Head.present_limit {x : Head} (hs : x.state = .running) (o : Output) {old v : Nat} (hv : v ≠ old) :
    (x.present o v).2 = x.limitActs o old v := by
  have e : x.portsOff = (x.params.loopMode == .dry) := by simp [Head.portsOff, hs]
  unfold Head.present Head.limitActs
  rw [e]
  by_cases hd : x.params.loopMode = .dry <;> simp [hd, hv]

@[simp] theorem Head.codeAt_self (o : Output) (v code : Nat) (x : Head) : x.codeAt o v v code = code := by
  simp [Head.codeAt]

/-- The code that a setpoint of a running cycle leaves at its port (R105, R106). -/
theorem Head.present_code {x : Head} (hs : x.state = .running) (o : Output) (old v code : Nat) :
    (if v = old then code else (x.present o v).1) = x.codeAt o old v code := by
  have e : x.portsOff = (x.params.loopMode == .dry) := by simp [Head.portsOff, hs]
  unfold Head.codeAt Head.present
  rw [e]
  by_cases hd : x.params.loopMode = .dry <;> simp [hd]

/-- The temperature setpoint moved in a running cycle (R101, R103, R105). -/
theorem Head.setTemp_eq {x : Head} (hs : x.state = .running) (now v : Nat) :
    x.setTemp now v =
      { x with
        tempSet := v
        tempChanged := if v = x.tempSet then x.tempChanged else some now
        heaterCode := x.codeAt .heater x.tempSet v x.heaterCode
        cycle := flagCycle false (x.limitActs .heater x.tempSet v) x.cycle } := by
  rw [← Head.present_code hs]
  unfold Head.setTemp
  by_cases h : v = x.tempSet
  · subst h; simp
  · rw [if_neg h, Head.noteClamp_eq, Head.present_limit hs .heater h]
    simp only [h, if_false]

/-- The pressure setpoint moved in a running cycle (R103, R105). -/
theorem Head.setPres_eq {x : Head} (hs : x.state = .running) (v : Nat) :
    x.setPres v =
      { x with
        presSet := v
        pressureCode := x.codeAt .pressure x.presSet v x.pressureCode
        cycle := flagCycle false (x.limitActs .pressure x.presSet v) x.cycle } := by
  rw [← Head.present_code hs]
  unfold Head.setPres
  by_cases h : v = x.presSet
  · subst h; simp
  · rw [if_neg h, Head.noteClamp_eq, Head.present_limit hs .pressure h]
    simp only [h, if_false]

/-- A head that has stepped to two setpoints in a running cycle, both outputs with their codes (R97). -/
def Head.steppedTo (now temperature pressure : Nat) (ceiling : Bool) (x : Head) : Head :=
  { x with
    tempSet := temperature
    presSet := pressure
    tempChanged := if temperature = x.tempSet then x.tempChanged else some now
    heaterCode := x.codeAt .heater x.tempSet temperature x.heaterCode
    pressureCode := x.codeAt .pressure x.presSet pressure x.pressureCode
    cycle := flagCycle ceiling
      (x.limitActs .heater x.tempSet temperature || x.limitActs .pressure x.presSet pressure) x.cycle }

/-- The targets of a CLOSE or a HOLD (R97, R98). -/
theorem Head.step_eq {x : Head} (hs : x.state = .running) (now : Nat) (t p : Option Nat) :
    (x.stepTemp now t).stepPres p =
      x.steppedTo now ((t.map fun v => min v x.params.ceiling).getD x.tempSet) (p.getD x.presSet)
        (t.any fun v => decide (x.params.ceiling < v)) := by
  rcases t with _ | t <;> rcases p with _ | p <;> simp only [Head.stepTemp, Head.stepPres, Head.noteCeiling_eq]
  · simp [Head.steppedTo]
  · rw [Head.setPres_eq hs]; simp [Head.steppedTo]
  · rw [Head.setTemp_eq]
    · simp [Head.steppedTo, Head.ceiled, Head.limitActs, Head.codeAt]; exact ⟨rfl, rfl⟩
    · exact hs
  · rw [Head.setTemp_eq, Head.setPres_eq]
    · simp [Head.steppedTo, Head.ceiled, Head.limitActs, Head.codeAt]; exact ⟨rfl, rfl⟩
    · exact hs
    · exact hs

/-- The targets of an OPEN (R97, R98). -/
theorem Head.openTargets_eq {x : Head} (hs : x.state = .running) (now : Nat) (t : Option Nat) :
    (x.setPres 0).stepTemp now t =
      x.steppedTo now ((t.map fun v => min v x.params.ceiling).getD x.tempSet) 0
        (t.any fun v => decide (x.params.ceiling < v)) := by
  rcases t with _ | t <;> simp only [Head.stepTemp, Head.noteCeiling_eq, Head.setPres_eq hs]
  · simp [Head.steppedTo]
  · rw [Head.setTemp_eq]
    · simp [Head.steppedTo, Head.ceiled, Head.limitActs, Head.codeAt, Bool.or_comm]; exact ⟨rfl, rfl⟩
    · exact hs

/-- Both outputs of a ramp moved (R99, R100). -/
theorem Head.twoMoves_eq {x : Head} (hs : x.state = .running) (now v w : Nat) :
    (x.setTemp now v).setPres w = x.steppedTo now v w false := by
  rw [Head.setTemp_eq hs, Head.setPres_eq]
  · simp [Head.steppedTo, Head.limitActs, Head.codeAt]
  · exact hs

/-- A ramp that takes time begun: the ramp record of the outputs with a target (R98, R99). -/
theorem Head.startRamp_eq (x : Head) (now : Nat) (g : Segment) (hd : g.duration ≠ 0) :
    x.startRamp now g =
      { x with
        cycle := flagCycle (g.temperature.any fun v => decide (x.params.ceiling < v)) false x.cycle
        ramp :=
          if g.temperature.isSome || g.pressure.isSome then
            some ⟨now, g.duration, 10, g.temperature.map fun v => (x.tempSet, min v x.params.ceiling),
              g.pressure.map fun v => (x.presSet, v)⟩
          else x.ramp } := by
  rcases g with ⟨k, _ | t, _ | p, d, b1, b2, b3, b4⟩ <;> simp only [Head.startRamp, if_neg hd, Head.noteCeiling_eq] <;>
    simp [Config.rampPeriod, Head.ceiled]

/-- What the kind of a segment does to platen, close output and virtual-edge timer (R72, R77, R79, R165). -/
theorem Head.movePlaten_eq (x : Head) (now : Nat) (g : Segment) :
    x.movePlaten now g =
      { x with
        virtual := match g.kind with
          | .close => if x.params.loopMode = .dry then some (.closed, now + 100) else x.virtual
          | .openUp => x.virtualAtOpening now
          | .hold => x.virtual
          | .ramp => x.virtual
        platen := match g.kind with
          | .close => .closing | .openUp => x.platen.retract | .hold => x.platen | .ramp => x.platen
        closeOut := match g.kind with
          | .close => x.drives | .openUp => false | .hold => x.closeOut | .ramp => x.closeOut } := by
  unfold Head.movePlaten
  cases g.kind <;> dsimp only
  · unfold Head.virtualClose Head.isDry
    by_cases hd : x.params.loopMode = .dry <;> simp [hd, Config.virtualTime]
  · rw [Head.virtualOpen_eq]; rfl

/-- A segment begun: the head's own record (R76). -/
theorem HeadCtx.beginSegment_head (x : HeadCtx) (n : Nat) (g : Segment) :
    (x.beginSegment n g).head =
      let h1 := x.head.updateRun fun r => { r with current := n, segStart := x.now, segDue := x.now + g.duration }
      let h2 := (h1.applyTargets x.now g).movePlaten x.now g
      { h2 with auxOut := if g.aux && h2.drives && !g.instant then true else h2.auxOut } := by
  unfold HeadCtx.beginSegment
  dsimp only
  have aux : ∀ y : Head, (if g.aux && y.drives && !g.instant then { y with auxOut := true } else y) =
      { y with auxOut := if g.aux && y.drives && !g.instant then true else y.auxOut } := by
    intro y
    cases g.aux && y.drives && !g.instant <;> rfl
  split <;> simp only [HeadCtx.mapHead, HeadCtx.post, aux]

/-- What the targets of a segment make of a RUNNING head (R97 to R100). -/
theorem Head.applyTargets_eq {x : Head} (hs : x.state = .running) (now : Nat) (g : Segment) :
    x.applyTargets now g =
      let t := (g.temperature.map fun v => min v x.params.ceiling).getD x.tempSet
      let above := g.temperature.any fun v => decide (x.params.ceiling < v)
      match g.kind with
      | .close => x.steppedTo now t (g.pressure.getD x.presSet) above
      | .hold => x.steppedTo now t (g.pressure.getD x.presSet) above
      | .openUp => x.steppedTo now t 0 above
      | .ramp =>
        if g.duration = 0 then x.steppedTo now t (g.pressure.getD x.presSet) above
        else
          { x with
            cycle := flagCycle above false x.cycle
            ramp :=
              if g.temperature.isSome || g.pressure.isSome then
                some ⟨now, g.duration, 10, g.temperature.map fun v => (x.tempSet, min v x.params.ceiling),
                  g.pressure.map fun v => (x.presSet, v)⟩
              else x.ramp } := by
  unfold Head.applyTargets
  rcases hk : g.kind <;> dsimp only
  · exact Head.step_eq hs now _ _
  · exact Head.step_eq hs now _ _
  · by_cases hd : g.duration = 0
    · rw [if_pos hd, ← Head.step_eq hs]
      unfold Head.startRamp
      rcases g with ⟨k, _ | t, _ | p, d, b1, b2, b3, b4⟩ <;> dsimp only at hd ⊢ <;> subst hd <;> rfl
    · rw [if_neg hd]; exact Head.startRamp_eq x now g hd
  · exact Head.openTargets_eq hs now _

theorem Segment.atOnce_iff (g : Segment) : g.atOnce ↔ g.instant = true := by
  simp [Segment.atOnce, Segment.instant]

/-- A segment begun runs, and all else stands (R76). -/
theorem HeadCtx.beginSegment_runs (x : HeadCtx) (r : Run) (n : Nat) (g : Segment) (hs : x.head.state = .running)
    (hr : x.head.run? = some r) : (x.beginSegment n g).head.runsSegment x.now n g x.head := by
  obtain ⟨y, hy⟩ : ∃ y, y = (x.beginSegment n g).head := ⟨_, rfl⟩
  rw [← hy]
  rw [HeadCtx.beginSegment_head] at hy
  generalize x.now = now at *
  generalize x.head = h at *
  rcases h with ⟨q, st, pl, cy, pref, stt, rel, ts, ps, hc, pc, rm, tc, co, clo, aux, vr, mo, cn, he⟩
  dsimp only at hs hy
  subst hs
  rcases cy with _ | ⟨o, _ | r0⟩
  · cases hr
  · cases hr
  obtain rfl : r0 = r := Option.some.inj hr
  rw [Head.applyTargets_eq (by rfl) now, Head.movePlaten_eq] at hy
  rcases g with ⟨k, t, p, d, b1, b2, b3, b4⟩
  by_cases hd : d = 0 <;> cases k <;> subst hy <;> unfold Head.runsSegment Segment.atOnce <;>
    simp [Head.updateRun, Head.steppedTo, flagCycle, Head.run?, Head.drives, Head.timesChange, Head.virtualAtOpening,
      Head.limitActs, Head.codeAt, Segment.instant, Bool.or_assoc, hd] <;>
    and_intros <;>
    first
    | rfl
    | (cases b2 <;> simp; done)
    | (cases q.loopMode <;> rfl)
    | (rcases t with _ | t <;> rcases p with _ | p <;> simp; done)

end Sys2Proof.Machine
end

