-- ==== Sys2Proof/Laws/Segments.lean ====
section
/-! SUPPORT. A cycle that goes on at a segment: the end of a segment, the completion, and the segments of duration 0 that pass in one
act, each as the statements say them. -/

namespace Sys2Proof.Machine

/-! ### The end of a segment (R80, R127) -/

/-- The dose judged as the rule says it (R127). -/
theorem Run.evaluate_eq (r : Run) :
    (r.reseals → ∃ p g, r.evaluate = .reseal p ∧ r.resealsAt p g) ∧ (¬r.reseals → r.evaluate = .verdict r.judged) := by
  have point : ∀ (l : List Segment) (k : Nat),
      ((∀ g ∈ l, g.resealPoint = false) → resealPointFrom k l = none) ∧
      ((∃ g ∈ l, g.resealPoint = true) → ∃ p g, resealPointFrom k l = some (k + p) ∧ l[p]? = some g ∧
        g.resealPoint = true ∧ ∀ q < p, ∀ g', l[q]? = some g' → g'.resealPoint = false) := by
    intro l
    induction l with
    | nil => exact fun k => ⟨fun _ => rfl, fun ⟨_, m, _⟩ => by cases m⟩
    | cons a l ih =>
      intro k
      obtain ⟨i1, i2⟩ := ih (k + 1)
      refine ⟨fun h => ?_, fun ⟨g, m, hg⟩ => ?_⟩
      · rw [resealPointFrom, if_neg (by rw [h a (by simp)]; decide)]
        exact i1 fun g m => h g (by simp [m])
      · by_cases ha : a.resealPoint = true
        · exact ⟨0, a, by rw [resealPointFrom, if_pos ha]; rfl, rfl, ha, fun q hq => absurd hq (by omega)⟩
        · obtain ⟨p, g', e1, e2, e3, e4⟩ := i2 ⟨g, (List.mem_cons.1 m).resolve_left (fun e => ha (e ▸ hg)), hg⟩
          refine ⟨p + 1, g', by rw [resealPointFrom, if_neg ha, e1]; congr 1; omega, by simpa using e2, e3, fun q hq g'' e => ?_⟩
          rcases q with _ | q
          · cases e; simpa using ha
          · exact e4 q (by omega) g'' (by simpa using e)
  unfold Run.evaluate Run.reseals Run.judged Run.reportedDose
  rcases hw : r.window with _ | ⟨lo, hi⟩
  · simp
  · dsimp only
    by_cases hl : min 65535 (r.dose / 10000) < lo
    · simp only [if_pos hl, true_and]
      by_cases hp : ∃ g ∈ r.segments, g.resealPoint = true
      · obtain ⟨p, g, e1, e2, e3, e4⟩ := (point r.segments 0).2 hp
        rw [e1, Nat.zero_add]
        dsimp only
        refine ⟨fun h => ⟨p, g, by rw [if_pos (by simp [h.1, h.2.1])], e2, e3, e4⟩, fun h => ?_⟩
        rw [if_neg]
        intro hc
        simp only [Bool.and_eq_true, Bool.not_eq_true'] at hc
        exact h ⟨hc.1, hc.2, hp⟩
      · rw [(point r.segments 0).1 fun g m => by
          by_contra hc; exact hp ⟨g, m, by simpa using hc⟩]
        exact ⟨fun h => absurd h.2.2 hp, fun _ => rfl⟩
    · simp only [if_neg hl]
      by_cases hh : hi < min 65535 (r.dose / 10000) <;> simp [hh]

/-- The number that marks the last DOSE segment (R80). -/
theorem lastDoseFrom_iff (l : List Segment) (n k : Nat) :
    lastDoseFrom n l = some k ↔
      n ≤ k ∧ (∃ g, l[k - n]? = some g ∧ g.dose = true) ∧ ∀ g ∈ l.drop (k - n + 1), g.dose = false := by
  refine ⟨lastDoseFrom_some, ?_⟩
  rintro ⟨h1, ⟨g, h2, h3⟩, h4⟩
  have none_of : ∀ (l : List Segment) (m : Nat), (∀ g ∈ l, g.dose = false) → lastDoseFrom m l = none := by
    intro l
    induction l with
    | nil => exact fun _ _ => rfl
    | cons a l ih =>
      intro m h
      rw [lastDoseFrom, ih (m + 1) fun g hg => h g (by simp [hg]), h a (by simp)]; rfl
  induction l generalizing n with
  | nil => simp at h2
  | cons a l ih =>
    rw [lastDoseFrom]
    by_cases e : k = n
    · subst e
      simp only [Nat.sub_self, List.getElem?_cons_zero, Option.some.injEq] at h2
      subst h2
      simp only [Nat.sub_self, Nat.zero_add, List.drop_succ_cons, List.drop_zero] at h4
      rw [none_of l _ h4, h3]; rfl
    · have e2 : k - n = (k - (n + 1)) + 1 := by omega
      rw [e2] at h2 h4
      rw [ih (n + 1) (by omega) (by simpa using h4) (by simpa using h2)]; rfl

theorem Run.endsDose_iff (r : Run) : r.endsDose ↔ lastDoseFrom 0 r.segments = some r.current := by
  rw [lastDoseFrom_iff]; simp [Run.endsDose]

/-- The end of the current segment (R80). -/
theorem HeadCtx.endSegment_ends {x : HeadCtx} {r : Run} (hr : x.head.run? = some r) :
    Head.endsSegment (x.endSegment r).1 (x.endSegment r).2.head x.head ∧
    (x.endSegment r).2 = { x with head := (x.endSegment r).2.head } := by
  have he := r.evaluate_eq
  have hd := r.endsDose_iff
  unfold HeadCtx.endSegment
  by_cases h : lastDoseFrom 0 r.segments = some r.current
  · simp only [if_pos h]
    by_cases hs : r.reseals
    · obtain ⟨p, g, e1, e2⟩ := he.1 hs
      simp only [e1]
      exact ⟨⟨r, hr, fun n => absurd (hd.2 h) n, fun _ _ => ⟨⟨g, e2⟩, rfl⟩, fun _ n => absurd hs n⟩, rfl⟩
    · simp only [he.2 hs]
      exact ⟨⟨r, hr, fun n => absurd (hd.2 h) n, fun _ n => absurd n hs, fun _ _ => ⟨rfl, rfl⟩⟩, rfl⟩
  · simp only [if_neg h]
    exact ⟨⟨r, hr, fun _ => ⟨rfl, rfl⟩, fun a => absurd (hd.1 a) h, fun a => absurd (hd.1 a) h⟩, rfl⟩

/-! ### The completion (R81, R82) -/

theorem Run.completion_eq (r : Run) : r.completion = r.endReason := by
  unfold Run.completion Run.endReason
  rcases r.verdict with _ | _ | _ | _ <;> rfl

/-- What an end writes outside its head (R82). -/
def Head.endEffects (h : Fin 16) (reason : EndReason) (x : Head) : List HeadEffect :=
  match x.cycle, x.packRef with
  | some ⟨.pack, _⟩, some ref => [.result ref (x.endedResult h reason) (x.endedMask reason ref.station)]
  | _, _ => []

theorem HeadCtx.writeEnd_eq (x : HeadCtx) (reason : EndReason) :
    (x.writeEnd reason).out = x.out ++ x.head.endEffects x.id reason := by
  unfold HeadCtx.writeEnd Head.endEffects
  rcases hc : x.head.cycle with _ | ⟨_ | _, run⟩ <;> rcases hp : x.head.packRef with _ | ref <;>
    simp [HeadCtx.emit, HeadCtx.endResult_eq, HeadCtx.endRejects_eq]

theorem Head.endEffects_pack {h : Fin 16} {reason : EndReason} {x : Head} {ref : PackRef}
    (hc : x.cycle.map Cycle.origin = some .pack) (hp : x.packRef = some ref) :
    x.endEffects h reason = [.result ref (x.endedResult h reason) (x.endedMask reason ref.station)] := by
  unfold Head.endEffects
  rcases hx : x.cycle with _ | ⟨_ | _, run⟩
  · rw [hx] at hc; cases hc
  · simp only [hp]
  · rw [hx] at hc; cases hc

theorem Pack.ended_eq (st : Station) (r : StationResult) (mask : BitVec 32) (p : Pack) :
    (p.putResult st r).addReasons mask = p.ended st r mask := by
  cases st <;> by_cases h : p.format = 0 <;> simp [Pack.addReasons, Pack.putResult, Pack.ended, h]

/-- A completion: the head, its status and what it writes (R81, R82, R171). -/
theorem HeadCtx.complete_completes {x : HeadCtx} {r : Run} (hr : x.head.run? = some r) :
    x.complete.head.completes x.now x.head ∧
    x.complete.status =
      (if x.head.cycle.map Cycle.origin = some .once then x.status.post (.primary (x.head.endedRecord x.id r.endReason))
        else x.status) ∧
    x.complete.out = x.out ++ x.head.endEffects x.id r.endReason := by
  have hre : (x.head.run?.map Run.completion).getD .complete = r.endReason := by
    rw [hr, Option.map_some, Option.getD_some, Run.completion_eq]
  have hw := x.writeEnd_eq r.endReason
  unfold HeadCtx.complete
  simp only [hre]
  by_cases ho : x.head.cycle.map Cycle.origin = some .once
  · simp only [if_pos ho, HeadCtx.mapHead, HeadCtx.post, HeadCtx.writeEnd_head, HeadCtx.writeEnd_status, HeadCtx.endRecord_eq]
    refine ⟨?_, trivial, hw⟩
    simp [Head.completes, Head.enterReady, Head.rest, Head.dropCycle, Head.cycleGone, Head.restsIn, Head.timesChange]
    rfl
  · simp only [if_neg ho, HeadCtx.mapHead, HeadCtx.writeEnd_head, HeadCtx.writeEnd_status]
    refine ⟨?_, trivial, hw⟩
    simp [Head.completes, Head.enterReady, Head.rest, Head.dropCycle, Head.cycleGone, Head.restsIn, Head.timesChange]
    rfl

/-! ### The cycle goes on (R76, R80) -/

/-- What a segment begun and a segment ended leave of a started cycle. -/
theorem Head.runsSegment.keeps {now n : Nat} {g : Segment} {y x : Head} (h : y.runsSegment now n g x) :
    y.state = x.state ∧ y.packRef = x.packRef ∧ y.params = x.params ∧
    y.cycle.map Cycle.origin = x.cycle.map Cycle.origin ∧
    ∀ r, x.run? = some r → ∃ a b, y.run? = some { r with
      current := n, segStart := now, segDue := now + g.duration, ceilingClamped := a, outputClamped := b } := by
  obtain ⟨⟨r, hr, hc⟩, -, -, -, -, -, -, -, -, -, -, -, e⟩ := h
  refine ⟨by rw [← e], by rw [← e], by rw [← e], ?_, fun r' h' => ?_⟩
  · rw [hc]; rcases x.cycle with _ | _ <;> rfl
  · obtain rfl : r = r' := Option.some.inj (hr.symm.trans h')
    simp only [Head.run?] at hr ⊢
    rw [hc]
    rcases hx : x.cycle with _ | c
    · rw [hx] at hr; cases hr
    · exact ⟨_, _, rfl⟩

theorem Head.endsSegment.keeps {m : Nat} {y x : Head} (h : y.endsSegment m x) :
    y.state = x.state ∧ y.packRef = x.packRef ∧ y.params = x.params ∧
    y.cycle.map Cycle.origin = x.cycle.map Cycle.origin ∧
    ∀ r, x.run? = some r → ∃ r', y.run? = some r' ∧ r'.segments = r.segments ∧
      ((m = r.current + 1 ∧ r'.resealUsed = r.resealUsed) ∨
        (m < r.segments.length ∧ r.resealUsed = false ∧ r'.resealUsed = true)) := by
  obtain ⟨r, hr, h1, h2, h3⟩ := h
  have upd : ∀ f : Run → Run, (x.segmentEnded.updateRun f).run? = some (f r) ∧
      (x.segmentEnded.updateRun f).cycle.map Cycle.origin = x.cycle.map Cycle.origin := by
    intro f
    simp only [Head.run?, Head.updateRun, Head.segmentEnded] at hr ⊢
    rcases hx : x.cycle with _ | ⟨o, _ | r0⟩ <;> rw [hx] at hr
    · cases hr
    · cases hr
    · obtain rfl : r0 = r := Option.some.inj hr
      exact ⟨rfl, rfl⟩
  have one : ∀ r', x.run? = some r' → r' = r := fun r' h' => Option.some.inj (h'.symm.trans hr)
  by_cases hd : r.endsDose
  · by_cases hs : r.reseals
    · obtain ⟨⟨g, hg⟩, e⟩ := h2 hd hs
      rw [e]
      refine ⟨rfl, rfl, rfl, (upd _).2, fun r' h' => ⟨_, (upd _).1, ?_, .inr ⟨?_, ?_, rfl⟩⟩⟩
      · rw [one r' h']
      · rw [one r' h']; exact (List.getElem?_eq_some_iff.1 hg.1).1
      · rw [one r' h']; exact hs.2.2.1
    · obtain ⟨em, e⟩ := h3 hd hs
      rw [e, em]
      exact ⟨rfl, rfl, rfl, (upd _).2, fun r' h' => ⟨_, (upd _).1, by rw [one r' h'], .inl (by rw [one r' h']; exact ⟨rfl, rfl⟩)⟩⟩
  · obtain ⟨em, e⟩ := h1 hd
    rw [e, em]
    exact ⟨rfl, rfl, rfl, rfl, fun r' h' => ⟨r', h', rfl, .inl (by rw [one r' h']; exact ⟨rfl, rfl⟩)⟩⟩

/-- The segments that may still begin in one act: to the end of the profile, and once more through it while a reseal may come. -/
def Run.left (n : Nat) (r : Run) : Nat :=
  (r.segments.length - n) + (if r.resealUsed then 0 else r.segments.length) + 1

/-- The cycle goes on as the rules say, while the bound on segments begun in one act holds out; it does from every start. -/
theorem HeadCtx.runFrom_continues (k : Nat) : ∀ (n : Nat) (x : HeadCtx) (r : Run), x.head.state = .running →
    x.head.run? = some r → r.left n ≤ k →
    ∃ ended, Head.continues x.now x.id n x.head x.status (x.runFrom k n).head (x.runFrom k n).status ended ∧
      (x.runFrom k n).out = x.out ++ (match ended with
        | none => []
        | some (reason, w) => w.endEffects x.id reason) := by
  induction k with
  | zero => intro n x r _ _ h; exact absurd h (by simp [Run.left])
  | succ k ih =>
    intro n x r hs hr hk
    rw [HeadCtx.runFrom]
    simp only [hr]
    rcases hg : r.segments[n]? with _ | g
    · obtain ⟨c1, c2, c3⟩ := HeadCtx.complete_completes hr
      dsimp only
      refine ⟨some (r.endReason, x.head), ⟨n, x.head, x.status, r, .stands hr (by simp [hg]), hr, by simp [hg], fun _ => ?_⟩, c3⟩
      exact ⟨c1, rfl, c2⟩
    · have hb := x.beginSegment_runs r n g hs hr
      have bo := x.beginSegment_out n g
      have bs := x.beginSegment_status n g
      have bn : (x.beginSegment n g).now = x.now := by unfold HeadCtx.beginSegment; dsimp only; split <;> rfl
      have bi : (x.beginSegment n g).id = x.id := by unfold HeadCtx.beginSegment; dsimp only; split <;> rfl
      obtain ⟨k1, k2, k3, k4, k5⟩ := hb.keeps
      obtain ⟨a, b, hr'⟩ := k5 r hr
      dsimp only
      generalize x.beginSegment n g = y at *
      by_cases hi : g.instant = true
      · simp only [hi, if_true, hr']
        obtain ⟨e1, e2⟩ := HeadCtx.endSegment_ends hr'
        obtain ⟨q1, q2, q3, q4, q5⟩ := e1.keeps
        obtain ⟨r2, hr2, s1, s2⟩ := q5 _ hr'
        generalize hz : y.endSegment _ = z at *
        have zn : z.2.now = x.now := by rw [e2]; exact bn
        have zi : z.2.id = x.id := by rw [e2]; exact bi
        have zs : z.2.status = y.status := by rw [e2]
        have zo : z.2.out = x.out := by rw [e2]; exact bo
        have hlt : n < r.segments.length := (List.getElem?_eq_some_iff.1 hg).1
        obtain ⟨ended, ⟨m, w, u', rw', p1, p2, p3, p4⟩, o⟩ := ih z.1 z.2 r2 (q1.trans (k1.trans hs)) hr2 (by
          unfold Run.left at hk ⊢
          rw [s1]
          dsimp only at s2 ⊢
          rcases s2 with ⟨t1, t2⟩ | ⟨t1, t2, t3⟩
          · rw [t1, t2]; omega
          · rw [t2] at hk; rw [t3]
            simp only [if_true, Bool.false_eq_true, if_false] at hk ⊢
            omega)
        rw [zn, zs, bs] at p1
        rw [zn] at p3 p4
        rw [zi] at p4
        refine ⟨ended, ⟨m, w, u', rw', .pass hr hg (g.atOnce_iff.2 hi) hb e1 p1, p2, p3, p4⟩, ?_⟩
        rw [o, zo, zi]
      · simp only [hi]
        have ha : ¬g.atOnce := fun h => hi (g.atOnce_iff.1 h)
        refine ⟨none, ⟨n, x.head, x.status, r, .stands hr fun g' h' => ?_, hr, fun g' h' => ?_, fun h => ?_⟩, ?_⟩
        · rw [hg] at h'; cases h'; exact ha
        · rw [hg] at h'; cases h'; exact ⟨hb, bs, rfl⟩
        · rw [hg] at h; cases h
        · simpa using bo

theorem Run.left_le_span (n : Nat) (r : Run) : r.left n ≤ r.span := by
  unfold Run.left Run.span; split <;> omega

/-- The current segment's end and what follows (R80). -/
theorem HeadCtx.advance_continues {x : HeadCtx} {r : Run} (hs : x.head.state = .running) (hr : x.head.run? = some r) :
    ∃ m y ended, Head.endsSegment m y x.head ∧
      Head.continues x.now x.id m y x.status x.advance.head x.advance.status ended ∧
      x.advance.out = x.out ++ (match ended with
        | none => []
        | some (reason, w) => w.endEffects x.id reason) := by
  obtain ⟨e1, e2⟩ := HeadCtx.endSegment_ends hr
  obtain ⟨q1, -, -, -, q5⟩ := e1.keeps
  obtain ⟨r2, hr2, s1, -⟩ := q5 _ hr
  have ha : x.advance = (x.endSegment r).2.runFrom r.span (x.endSegment r).1 := by unfold HeadCtx.advance; simp only [hr]
  rw [ha]
  have hsp : r.span = r2.span := by unfold Run.span; rw [s1]
  generalize x.endSegment r = z at *
  obtain ⟨ended, c, o⟩ := HeadCtx.runFrom_continues r.span z.1 z.2 r2 (q1.trans hs) hr2 (by rw [hsp]; exact r2.left_le_span _)
  have zn : z.2.now = x.now := by rw [e2]
  have zi : z.2.id = x.id := by rw [e2]
  have zs : z.2.status = x.status := by rw [e2]
  have zo : z.2.out = x.out := by rw [e2]
  rw [zn, zi, zs] at c
  rw [zo, zi] at o
  exact ⟨_, _, ended, e1, c, o⟩

/-- A cycle launched goes on at segment 0 (R75). -/
theorem HeadCtx.launch_continues (x : HeadCtx) (o : Origin) (r : Run) :
    let z := x.launch o r
    ∃ ended, Head.continues x.now x.id 0 (x.head.started o x.head.packRef r) x.status z.head z.status ended ∧
      z.out = x.out ++ (match ended with
        | none => []
        | some (reason, w) => w.endEffects x.id reason) :=
  HeadCtx.runFrom_continues r.span 0
    (x.mapHead fun h => { h with
      state := .running, cycle := some ⟨o, some r⟩, startTimer := none
      counters := { h.counters with started := (h.counters.started + 1) % 4294967296 } }) r rfl rfl (r.left_le_span 0)

theorem Head.passes.keeps {now n m : Nat} {x y : Head} {u v : HeadStatus} (h : Head.passes now n x u m y v) :
    y.packRef = x.packRef ∧ y.cycle.map Cycle.origin = x.cycle.map Cycle.origin ∧ y.state = x.state := by
  induction h with
  | stands => exact ⟨rfl, rfl, rfl⟩
  | pass _ _ _ hb he _ ih =>
    exact ⟨ih.1.trans (he.keeps.2.1.trans hb.keeps.2.1), ih.2.1.trans (he.keeps.2.2.2.1.trans hb.keeps.2.2.2.1),
      ih.2.2.trans (he.keeps.1.trans hb.keeps.1)⟩

/-- The head whose cycle completes refers to the pack it has worked on. -/
theorem Head.continues.keeps {now n : Nat} {h : Fin 16} {x y w : Head} {u v : HeadStatus} {reason : EndReason}
    (c : Head.continues now h n x u y v (some (reason, w))) :
    w.cycle.map Cycle.origin = x.cycle.map Cycle.origin ∧ w.packRef = x.packRef := by
  obtain ⟨m, w', u', r, p1, p2, p3, p4⟩ := c
  rcases hg : r.segments[m]? with _ | g
  · obtain ⟨-, e, -⟩ := p4 hg
    cases e
    exact ⟨p1.keeps.2.1, p1.keeps.1⟩
  · cases (p3 g hg).2.2

/-- A cycle that goes on leaves its head in RUNNING or READY. -/
theorem Head.continues.state {now n : Nat} {h : Fin 16} {x y : Head} {u v : HeadStatus} {ended : Option (EndReason × Head)}
    (c : Head.continues now h n x u y v ended) (hs : x.state = .running) : y.state = .running ∨ y.state = .ready := by
  obtain ⟨m, w', u', r, p1, p2, p3, p4⟩ := c
  rcases hg : r.segments[m]? with _ | g
  · exact .inr ((p4 hg).1.2.1.1.trans (by simp))
  · exact .inl ((p3 g hg).1.keeps.1.trans (p1.keeps.2.2.trans hs))

/-! ### The cycle goes on in the device (R76, R80 to R82) -/

variable {s t : State}

theorem Track.updatePack_absent {t : Track} {ref : PackRef} (h : t.packOf ref = none) (f : Pack → Pack) :
    t.updatePack ref.serial ref.lane f = t := by
  have hf : t.find ref.serial = none := by simpa [Track.packOf] using h
  have gone : ∀ (l : List (Option Nest)) (k : Nat), findNestFrom ref.serial k l = none → ∀ g : Nest → Nest,
      l.map (Option.map fun n => if n.serial = ref.serial then g n else n) = l := by
    intro l
    induction l with
    | nil => exact fun _ _ _ => rfl
    | cons o l ih =>
      intro k hk g
      rcases o with _ | n
      · rw [List.map_cons, ih (k + 1) hk]; rfl
      · rw [findNestFrom] at hk
        by_cases e : n.serial = ref.serial
        · rw [if_pos e] at hk; cases hk
        · rw [if_neg e] at hk
          rw [List.map_cons, ih (k + 1) hk]; simp [e]
  simp only [Track.updatePack, Track.updateNest]
  rw [gone t.slots 0 hf]

/-- What an end writes reaches the pack alone (R15, R82). -/
theorem State.applyEnd (h : Fin 16) (reason : EndReason) (x : Head) (u : State) :
    applyEffects (x.endEffects h reason) u = u.setTrack (applyEffects (x.endEffects h reason) u).track ∧
    (u.track = s.track → t.track = (applyEffects (x.endEffects h reason) u).track → s.endWritten h reason x t) := by
  by_cases hc : x.cycle.map Cycle.origin = some .pack ∧ x.packRef ≠ none
  · obtain ⟨hc, hp⟩ := hc
    obtain ⟨ref, hp⟩ := Option.ne_none_iff_exists'.1 hp
    rw [Head.endEffects_pack hc hp]
    refine ⟨rfl, fun hu ht => ⟨fun a => ?_, fun ref' e n => ?_, fun ref' p _ e hpk => ?_⟩⟩
    · rcases a with a | a
      · exact absurd hc a
      · rw [hp] at a; cases a
    · obtain rfl : ref = ref' := Option.some.inj (hp.symm.trans e)
      rw [ht]
      simp only [applyEffects, HeadEffect.apply, State.setTrack_track, hu]
      exact Track.updatePack_absent n _
    · obtain rfl : ref = ref' := Option.some.inj (hp.symm.trans e)
      rw [ht]
      simp only [applyEffects, HeadEffect.apply, State.setTrack_track, hu]
      rw [Track.packOf_updatePack_self, hpk, Option.map_some, Pack.ended_eq]
  · have e : x.endEffects h reason = [] := by
      unfold Head.endEffects
      split
      · rename_i run ref h1 h2
        exact absurd ⟨by rw [h1]; rfl, by rw [h2]; simp⟩ hc
      · rfl
    rw [e]
    refine ⟨rfl, fun hu ht => ?_⟩
    have ht : t.track = s.track := ht.trans hu
    exact ⟨fun _ => ht, fun _ _ _ => ht, fun ref p a b _ => absurd ⟨a, by rw [b]; simp⟩ hc⟩

theorem Head.endEffects_within (h : Fin 16) (reason : EndReason) (x : Head) :
    ∀ e ∈ x.endEffects h reason, e.within x.packRef := by
  intro e he
  unfold Head.endEffects at he
  split at he
  · rename_i run ref h1 h2
    simp only [List.mem_singleton] at he
    subst he
    exact h2
  · cases he

/-- The end of a cycle posts no cause. -/
theorem Head.endEffects_causes (h : Fin 16) (reason : EndReason) (x : Head) : effectsCauses (x.endEffects h reason) = 0 := by
  unfold Head.endEffects
  split <;> rfl

/-- An act of a head that lets its cycle go on (R80). -/
theorem State.actHead_goesOn {h : Fin 16} {n : Nat} {x : Head} {f : HeadCtx → HeadCtx} (hx : x.state = .running)
    (hsafe : (s.head h).state ≠ .safe) (hp : ∀ ref, x.packRef = some ref → (s.head h).packRef = some ref)
    (hc : ∃ ended, Head.continues s.now h n x (s.status h) (f (s.ctx h)).head (f (s.ctx h)).status ended ∧
      (f (s.ctx h)).out = match ended with
        | none => []
        | some (reason, w) => w.endEffects h reason) : s.goesOn h n x (s.actHead h f) := by
  obtain ⟨ended, c, o⟩ := hc
  have calm := s.actHead_calm h f (by
    rcases c.state hx with e | e <;> rw [e] <;> simp [hsafe])
  rcases ended with _ | ⟨reason, w⟩
  · have q : s.actHead h f = s.withHead h (f (s.ctx h)).head (f (s.ctx h)).status := by rw [calm, o]; rfl
    refine ⟨s.actHead_onlyHead h f (by rw [o]; intro e m; cases m) (by rw [o]; rfl), ?_, ?_, none, by simpa using c, fun _ => ?_,
      fun _ _ e => by cases e⟩ <;> rw [q] <;> rfl
  · obtain ⟨a1, a2⟩ := State.applyEnd (s := s) (t := s.actHead h f) h reason w
      (s.withHead h (f (s.ctx h)).head (f (s.ctx h)).status)
    dsimp only at o
    rw [o] at calm
    refine ⟨s.actHead_onlyHead h f (by
      rw [o]; intro e m
      have := Head.endEffects_within h reason w e m
      rw [c.keeps.2] at this
      rcases hr : x.packRef with _ | ref
      · rw [hr] at this
        rcases e with _ | _ | _
        · cases this
        · obtain ⟨_, h', _⟩ := this; cases h'
        · exact this
      · rw [hp ref hr, ← hr]; exact this) (by rw [o]; exact Head.endEffects_causes h reason w), ?_, ?_, some (reason, w), by simpa using c, fun e => (by cases e), fun _ _ e => ?_⟩
    · rw [calm, a1]; rfl
    · rw [calm, a1]; rfl
    · cases e
      exact a2 rfl (by rw [calm])

/-- The end of the current segment of a running head, as one act (R80). -/
theorem State.actHead_advances {h : Fin 16} {x : Head} {r : Run} {f : HeadCtx → HeadCtx} (hx : x.state = .running)
    (hr : x.run? = some r) (hsafe : (s.head h).state ≠ .safe) (hp : x.packRef = (s.head h).packRef)
    (hf : f (s.ctx h) = HeadCtx.advance { s.ctx h with head := x }) :
    ∃ m y, Head.endsSegment m y x ∧ s.goesOn h m y (s.actHead h f) := by
  obtain ⟨m, y, ended, e, c, o⟩ := HeadCtx.advance_continues (x := { s.ctx h with head := x }) hx hr
  obtain ⟨q1, q2, -⟩ := e.keeps
  refine ⟨m, y, e, State.actHead_goesOn (q1.trans hx) hsafe (fun ref hh => by rw [← hh, q2, hp]) ⟨ended, ?_, ?_⟩⟩
  · rw [hf]; exact c
  · rw [hf, o]; rfl

/-- A cycle of a head ended abnormally, as one act (R82 to R84). -/
theorem State.actHead_ends (h : Fin 16) {reason : EndReason} (hr : reason ≠ .openLate) (dest : ReleaseDest) (primary : Bool) :
    s.endedAbnormally h reason dest primary (s.actHead h (HeadCtx.abnormal reason dest primary)) := by
  have o : (HeadCtx.abnormal reason dest primary (s.ctx h)).out = (s.head h).endEffects h reason := by
    rw [HeadCtx.abnormal_out, HeadCtx.writeEnd_eq]; rfl
  refine ⟨?_,
    HeadCtx.abnormal_headEnded (by simp) (by simp), ?_⟩
  · rw [if_neg hr]
    exact s.actHead_onlyHead h _ (by rw [o]; exact Head.endEffects_within h reason _)
      (by rw [o]; exact Head.endEffects_causes h reason _)
  exact (State.applyEnd h reason (s.head h) (s.withHead h (HeadCtx.abnormal reason dest primary (s.ctx h)).head
    (HeadCtx.abnormal reason dest primary (s.ctx h)).status)).2 rfl (by rw [State.actHead_track, o])

end Sys2Proof.Machine
end

