-- ==== Sys2Proof/Laws/Shift.lean ====
section
/-! SUPPORT. The heads acting in turn, and the discharge of nests, each once with everything it does. -/

namespace Sys2Proof.Machine

variable {s : State}

/-! ### The heads in turn -/

/-- What a head sees of the device is its own records, its lines and the clock. -/
theorem State.ctx_eq {t : State} {h : Fin 16} (hn : t.now = s.now) (hl : t.lines = s.lines) (hh : t.head h = s.head h)
    (hs : t.status h = s.status h) : t.ctx h = s.ctx h := by
  simp only [State.ctx, hn, hl, hh, hs]

/-- What every head's act keeps, the acts of the heads in turn keep. -/
theorem State.actHeads_induction {p : State → Prop} {f : Fin 16 → HeadCtx → HeadCtx} (hs : List (Fin 16)) (h0 : p s)
    (step : ∀ u h, h ∈ hs → p u → p (u.actHead h (f h))) : p (s.actHeads f hs) := by
  induction hs generalizing s with
  | nil => exact h0
  | cons h rest ih =>
    exact ih (step s h (by simp) h0) fun u h' m => step u h' (by simp [m])

/-- The acts of the heads in turn leave all but the heads, the track, the causes and the track status. -/
theorem State.actHeads_rest (f : Fin 16 → HeadCtx → HeadCtx) (hs : List (Fin 16)) :
    let t := s.actHeads f hs
    t.now = s.now ∧ t.link = s.link ∧ t.library = s.library ∧ t.gate = s.gate ∧ t.store = s.store ∧ t.lines = s.lines ∧
      t.draws = s.draws ∧ t.pending = s.pending :=
  State.actHeads_induction (p := fun t => t.now = s.now ∧ t.link = s.link ∧ t.library = s.library ∧ t.gate = s.gate ∧
      t.store = s.store ∧ t.lines = s.lines ∧ t.draws = s.draws ∧ t.pending = s.pending) hs
    ⟨rfl, rfl, rfl, rfl, rfl, rfl, rfl, rfl⟩ fun u h _ hu => by simpa using hu

/-- A head that does not act stands as it did. -/
theorem State.actHeads_of_notMem (f : Fin 16 → HeadCtx → HeadCtx) {hs : List (Fin 16)} {h : Fin 16} (hm : h ∉ hs) :
    (s.actHeads f hs).head h = s.head h ∧ (s.actHeads f hs).status h = s.status h :=
  State.actHeads_induction (p := fun t => t.head h = s.head h ∧ t.status h = s.status h) hs ⟨rfl, rfl⟩ fun u h' m hu => by
    have ne : h ≠ h' := fun e => hm (e ▸ m)
    rw [(u.actHead_of_ne (f h') ne).1, (u.actHead_of_ne (f h') ne).2]; exact hu

/-- A head that acts once acts on what it was before the others. -/
theorem State.actHeads_of_mem (f : Fin 16 → HeadCtx → HeadCtx) {hs : List (Fin 16)} (nd : hs.Nodup) {h : Fin 16}
    (hm : h ∈ hs) : (s.actHeads f hs).head h = (f h (s.ctx h)).head ∧ (s.actHeads f hs).status h = (f h (s.ctx h)).status := by
  induction hs generalizing s with
  | nil => cases hm
  | cons h' rest ih =>
    obtain ⟨h1, h2⟩ := List.nodup_cons.1 nd
    change ((s.actHead h' (f h')).actHeads f rest).head h = _ ∧ ((s.actHead h' (f h')).actHeads f rest).status h = _
    by_cases e : h = h'
    · subst e
      rw [(State.actHeads_of_notMem f h1).1, (State.actHeads_of_notMem f h1).2]
      simp
    · have m : h ∈ rest := by simpa [e] using hm
      rw [(ih h2 m).1, (ih h2 m).2]
      have ec : (s.actHead h' (f h')).ctx h = s.ctx h :=
        State.ctx_eq (by simp) (by simp) (s.actHead_of_ne _ e).1 (s.actHead_of_ne _ e).2
      rw [ec]; exact ⟨rfl, rfl⟩

theorem allHeads_nodup : allHeads.Nodup := by decide

/-- All the heads in turn: each acts on what it was. -/
theorem State.actHeads_all (f : Fin 16 → HeadCtx → HeadCtx) (h : Fin 16) :
    (s.actHeads f allHeads).head h = (f h (s.ctx h)).head ∧ (s.actHeads f allHeads).status h = (f h (s.ctx h)).status :=
  State.actHeads_of_mem f allHeads_nodup (mem_allHeads h)

/-! ### Discharge (R12, R41, R43) -/

/-- A report that finds room joins the tail and carries the lost-report count (R43). -/
theorem Track.report_room {t : Track} (n : Nest) (h : t.outcomes.length < 16) :
    t.report n =
      { t with outcomes := t.outcomes ++ [{ n with reportsLost := if t.lost = 0 then none else some t.lost }], lost := 0 } :=
  if_pos h

/-- A report that finds the queue full is lost and counted (R43). -/
theorem Track.report_full {t : Track} (n : Nest) (h : 16 ≤ t.outcomes.length) :
    t.report n = { t with lost := min 255 (t.lost + 1) } :=
  if_neg (Nat.not_lt.2 h)

theorem Track.report_length (t : Track) (n : Nest) :
    (t.report n).outcomes.length = if t.outcomes.length < 16 then t.outcomes.length + 1 else t.outcomes.length := by
  by_cases h : t.outcomes.length < 16
  · rw [Track.report_room n h, if_pos h]; simp
  · rw [Track.report_full n (by omega), if_neg h]

/-- A report touches the outcome queue and the lost-report count alone. -/
theorem Track.report_kept (t : Track) (n : Nest) : { t.report n with outcomes := t.outcomes, lost := t.lost } = t := by
  simp only [Track.report]; split <;> rfl

/-- A nest discharged (R12, R19, R41, R43): its report, and OUTCOME_BACKLOG at the report that brings the count to twelve. -/
theorem State.discharge_eq (n : Nest) :
    s.discharge n = (s.setTrack (s.track.report n)).changeCauses
      (if s.track.outcomes.length = 11 then s.causes ||| 0x80 else s.causes) := by
  have quiet : ∀ u : State, u.changeCauses u.causes = u := fun u => by
    simp only [State.changeCauses, State.holdAsserted, State.setCauseSet_causes, if_pos]; rfl
  have e : (s.track.outcomes.length < 16 ∧ (s.track.report n).outcomes.length = 12) ↔ s.track.outcomes.length = 11 := by
    rw [Track.report_length]; split <;> omega
  simp only [State.discharge, State.setTrack_track, Config.outcomeRoom, Config.backlogMark, e]
  split
  · rfl
  · exact (quiet (s.setTrack (s.track.report n))).symm

/-- Nests discharged in order, with nothing sent meanwhile. -/
theorem dischargeAll_eq (l : List Nest) (s : State) :
    { (dischargeAll l s).track with outcomes := s.track.outcomes, lost := s.track.lost } = s.track ∧
    s.discharged l (dischargeAll l s) ∧
    s.trackStatus.gains (dischargeAll l s).trackStatus ∧
    (dischargeAll l s).trackStatus.changed &&& 0xEF = s.trackStatus.changed &&& 0xEF ∧
    { dischargeAll l s with track := s.track, causes := s.causes, trackStatus := s.trackStatus } = s := by
  have main : ∀ (l : List Nest) (s : State),
    { (dischargeAll l s).track with outcomes := s.track.outcomes, lost := s.track.lost } = s.track ∧
    ((dischargeAll l s).track.outcomes = s.track.outcomes ++
      (match l.take (16 - s.track.outcomes.length) with
       | [] => []
       | n :: rest =>
         { n with reportsLost := if s.track.lost = 0 then none else some s.track.lost } ::
           rest.map fun n => { n with reportsLost := none }) ∧
     (dischargeAll l s).track.lost =
      (if l = [] then s.track.lost
       else if l.length ≤ 16 - s.track.outcomes.length then 0
       else min 255 ((if 16 - s.track.outcomes.length = 0 then s.track.lost else 0) +
         (l.length - (16 - s.track.outcomes.length)))) ∧
     (dischargeAll l s).causes =
       if s.track.outcomes.length < 12 ∧ 12 ≤ s.track.outcomes.length + l.length then s.causes ||| 0x80 else s.causes) ∧
    s.trackStatus.gains (dischargeAll l s).trackStatus ∧
    (dischargeAll l s).trackStatus.changed &&& 0xEF = s.trackStatus.changed &&& 0xEF ∧
    { dischargeAll l s with track := s.track, causes := s.causes, trackStatus := s.trackStatus } = s := by
    intro l
    induction l with
    | nil =>
      intro s
      refine ⟨rfl, ⟨by simp [dischargeAll], rfl, ?_⟩, TrackStatus.gains_refl _, rfl, rfl⟩
      rw [if_neg (by simp)]; rfl
    | cons n l ih =>
      intro s
      obtain ⟨a1, ⟨a2, a3, a4⟩, a5, a6, a7⟩ := ih (s.discharge n)
      have tr : (s.discharge n).track = s.track.report n := by rw [s.discharge_eq]; simp
      have cs : (s.discharge n).causes = if s.track.outcomes.length = 11 then s.causes ||| 0x80 else s.causes := by
        rw [s.discharge_eq, State.changeCauses_causes]
      have st := State.changeCauses_status (s := s.setTrack (s.track.report n))
        (if s.track.outcomes.length = 11 then s.causes ||| 0x80 else s.causes)
      rw [← s.discharge_eq] at st
      rw [tr] at a1 a2 a3 a4
      rw [cs] at a4
      have kept := s.track.report_kept n
      simp only [dischargeAll]
      refine ⟨?_, ⟨?_, ?_, ?_⟩, TrackStatus.gains_trans st.1 a5, a6.trans st.2, ?_⟩
      · conv_rhs => rw [← kept, ← a1]
      · rw [a2]
        by_cases h : s.track.outcomes.length < 16
        · have e : 16 - s.track.outcomes.length = (16 - (s.track.outcomes.length + 1)) + 1 := by omega
          rw [Track.report_room n h, e]
          simp only [List.length_append, List.length_cons, List.length_nil, Nat.zero_add, List.take_succ_cons,
            List.append_assoc, List.singleton_append]
          congr 2
          rcases l.take (16 - (s.track.outcomes.length + 1)) with _ | ⟨m, r⟩ <;> simp
        · have e : 16 - s.track.outcomes.length = 0 := by omega
          rw [Track.report_full n (by omega), e]; simp
      · rw [a3, Track.report_length]
        by_cases h : s.track.outcomes.length < 16
        · rw [Track.report_room n h, if_pos h]
          rcases l with _ | ⟨m, l⟩
          · simp; omega
          · simp only [reduceCtorEq, if_false, List.length_cons]
            split <;> split <;> (try split) <;> (try split) <;> omega
        · rw [Track.report_full n (by omega), if_neg h]
          rcases l with _ | ⟨m, l⟩
          · simp; split <;> (try split) <;> omega
          · simp only [reduceCtorEq, if_false, List.length_cons]
            split <;> split <;> (try split) <;> (try split) <;> omega
      · rw [a4, Track.report_length, List.length_cons]
        by_cases h : s.track.outcomes.length = 11
        · rw [h, if_neg (by simp), if_pos rfl, if_pos (by omega)]
        · rw [if_neg h]
          have : ((if s.track.outcomes.length < 16 then s.track.outcomes.length + 1 else s.track.outcomes.length) < 12 ∧
            12 ≤ (if s.track.outcomes.length < 16 then s.track.outcomes.length + 1 else s.track.outcomes.length) +
              l.length) ↔
            (s.track.outcomes.length < 12 ∧ 12 ≤ s.track.outcomes.length + (l.length + 1)) := by split <;> omega
          simp only [this]
      · have e : { s.discharge n with track := s.track, causes := s.causes, trackStatus := s.trackStatus } = s := by
          rw [s.discharge_eq]; apply State.ext <;> simp
        conv_rhs => rw [← e, ← a7]
  obtain ⟨b1, ⟨b2, b3, b4⟩, b5, b6, b7⟩ := main l s
  refine ⟨b1, ⟨b2, b3, ?_⟩, b5, b6, b7⟩
  rw [b4]; split <;> simp
end Sys2Proof.Machine
end

