-- ==== Sys2Proof/Laws/Arrivals.lean ====
section
/-! SUPPORT. The entry, the movement, the selection of a head and the arrivals of a shift, each once with everything it
does, and from them the whole shift (`State.shift_spec`). -/

namespace Sys2Proof.Machine

variable {s : State}

/-! ### Entry and movement (R10, R11, R32) -/

theorem TrackStatus.post_enable (u : TrackStatus) (e : TrackEvent) : (u.post e).enable = u.enable := rfl

/-- What a change of causes does to the changed set (R21). -/
theorem State.changeCauses_changed (x : Byte) :
    (s.changeCauses x).trackStatus.changed =
      s.trackStatus.changed ||| if (x = 0 ↔ s.causes = 0) then 0 else 0x10 := by
  rw [State.changeCauses_trackStatus]; split
  · simp
  · rfl

/-- The track after an entry: the nest at position 0, the next serial number, and one manifest fewer (R11). -/
theorem State.entry_track :
    s.entry.track =
      { s.track with
        slots := s.track.slots.set 0 (some (Nest.entering s.track.serial s.track.indexCount s.track.manifests.isEmpty
          (s.track.manifests.head?.getD (Lanes.fill 0))))
        serial := nextSerial s.track.serial
        manifests := s.track.manifests.tail } := by
  unfold State.entry
  rcases e : s.track.manifests with _ | ⟨m, rest⟩
  · dsimp only
    have : { s.track with manifests := [] } = s.track := by rw [← e]
    split <;> simp [Track.enter, e] 
  · simp only [State.crossManifest]; split <;> rfl

/-- The causes and the track status after an entry (R30, R32). -/
theorem State.entry_causes :
    s.entry.causes =
      if s.track.manifests = [] ∧ s.track.config.manifestRequired = true then s.causes ||| 0x20 else s.causes := by
  unfold State.entry
  rcases e : s.track.manifests with _ | ⟨m, rest⟩
  · dsimp only
    by_cases h : s.track.config.manifestRequired = true
    · simp only [h, if_true, State.postCause, State.changeCauses_causes]; rfl
    · simp [h]
  · simp only [State.crossManifest]; split <;> simp

theorem State.entry_status :
    s.trackStatus.gains s.entry.trackStatus ∧
    s.entry.trackStatus.changed =
      s.trackStatus.changed ||| (if s.track.manifests = [] then 0x02 else 0) |||
        (if s.causes = 0 ∧ s.entry.causes ≠ 0 then 0x10 else 0) |||
        (if s.entry.track.manifestLow = s.track.manifestLow then 0 else 0x20) := by
  have ec := s.entry_causes
  have et := s.entry_track
  have el : s.entry.track.manifestLow = { s.track with manifests := s.track.manifests.tail }.manifestLow := by rw [et]; rfl
  rw [el, ec]
  unfold State.entry
  rcases e : s.track.manifests with _ | ⟨m, rest⟩
  · have same : { s.track with manifests := [] } = s.track := by rw [← e]
    simp only [List.tail_nil, same, if_true]
    by_cases h : s.track.config.manifestRequired = true
    · simp only [h, if_true, State.postCause]
      refine ⟨TrackStatus.gains_trans (s.trackStatus.post_gains .noManifest) (State.changeCauses_status _).1, ?_⟩
      rw [State.changeCauses_changed]
      have : BitSet.add ((s.setTrack (s.track.enter (Nest.entering s.track.serial s.track.indexCount true (Lanes.fill 0)))).postTrack .noManifest).causes Cause.manifestEmpty.bit = s.causes ||| 0x20 := rfl
      rw [this]
      have nz : s.causes ||| 0x20 ≠ 0 := by
        intro h0
        have := congrArg (fun x : Byte => x.getLsbD 5) h0
        simp at this
      have e1 : ((s.setTrack (s.track.enter (Nest.entering s.track.serial s.track.indexCount true (Lanes.fill 0)))).postTrack .noManifest).causes = s.causes := rfl
      rw [e1]
      have e2 : ((s.setTrack (s.track.enter (Nest.entering s.track.serial s.track.indexCount true (Lanes.fill 0)))).postTrack .noManifest).trackStatus.changed = s.trackStatus.changed ||| 0x02 := rfl
      rw [e2]
      by_cases h0 : s.causes = 0 <;> simp [h0, nz]
    · simp only [h, if_false]
      refine ⟨s.trackStatus.post_gains .noManifest, ?_⟩
      have e2 : ((s.setTrack (s.track.enter (Nest.entering s.track.serial s.track.indexCount true (Lanes.fill 0)))).postTrack .noManifest).trackStatus.changed = s.trackStatus.changed ||| 0x02 := rfl
      simp only [Bool.false_eq_true, if_false]
      by_cases h0 : s.causes = 0 <;> simp [h0] <;> rfl
  · simp only [State.crossManifest]
    have e3 : { s.track.enter (Nest.entering s.track.serial s.track.indexCount false m) with manifests := rest }.manifestLow = { s.track with manifests := rest }.manifestLow := rfl
    simp only [e3, List.tail_cons]
    by_cases h : { s.track with manifests := rest }.manifestLow = s.track.manifestLow
    · simp only [h, if_true]
      refine ⟨TrackStatus.gains_refl _, ?_⟩
      by_cases h0 : s.causes = 0 <;> simp [h0] 
    · simp only [h, if_false]
      refine ⟨s.trackStatus.post_gains .manifestLow, ?_⟩
      by_cases h0 : s.causes = 0 <;> simp [h0] <;> rfl

/-- The nests after the movement and the entry (R10, R11). -/
theorem Track.nestAt_moved (t : Track) (h : 1 ≤ t.config.length) (n : Nest) (p : Nat) :
    ({ t.move with slots := t.move.slots.set 0 (some n) } : Track).nestAt p =
      match p with
      | 0 => some n
      | q + 1 => if q + 1 < t.config.length then t.nestAt q else none := by
  obtain ⟨k, hk⟩ : ∃ k, t.config.length = k + 1 := ⟨t.config.length - 1, by omega⟩
  simp only [Track.nestAt, Track.move, hk, List.take_succ_cons, List.set_cons_zero]
  rcases p with _ | q
  · rfl
  · simp only [List.getElem?_cons_succ, List.getElem?_take]
    by_cases hq : q < k
    · simp [hq]
    · simp [hq]

/-- Nests in distinct positions carry distinct serial numbers after the movement and the entry (R1, R11). -/
theorem Track.afterMove_inj {t : Track} (h : t.config.length ≤ 24) (hn : t.numbered) {p q : Nat} {n m : Nest}
    (a : t.afterMove p = some n) (b : t.afterMove q = some m) (e : n.serial = m.serial) : p = q := by
  obtain ⟨h1, h2, h3⟩ := hn
  unfold Track.afterMove at a b
  rcases p with _ | p <;> rcases q with _ | q
  · rfl
  · simp only at a b
    split at b
    · cases a
      have := h3 _ _ b
      simp only [Track.entrant] at e
      omega
    · cases b
  · simp only at a b
    split at a
    · cases b
      have := h3 _ _ a
      simp only [Track.entrant] at e
      omega
    · cases a
  · simp only at a b
    split at a <;> split at b
    · have x := h3 _ _ a
      have y := h3 _ _ b
      omega
    all_goals first | cases a | cases b

/-! ### Packs written by heads (R15) -/

theorem Lanes.ext_get {α : Type} {x y : Lanes α} (h : ∀ i, x.get i = y.get i) : x = y := by
  cases x; cases y
  have := h 0; have := h 1; have := h 2; have := h 3; have := h 4; have := h 5; have := h 6; have := h 7
  simp_all [Lanes.get]

/-- The packs of a nest rewritten lane by lane. -/
def Nest.mapPacks (w : Fin 8 → Pack → Pack) (n : Nest) : Nest :=
  { n with packs := n.packs.mapIdx w }

@[simp] theorem Nest.mapPacks_serial (w : Fin 8 → Pack → Pack) (n : Nest) : (n.mapPacks w).serial = n.serial := rfl

@[simp] theorem Nest.mapPacks_get (w : Fin 8 → Pack → Pack) (n : Nest) (i : Fin 8) :
    (n.mapPacks w).packs.get i = w i (n.packs.get i) := by simp [Nest.mapPacks]

/-- One pack rewritten is all of them rewritten, the others to themselves. -/
theorem Nest.updatePack_eq (lane : Fin 8) (f : Pack → Pack) (n : Nest) :
    n.updatePack lane f = n.mapPacks fun l p => if l = lane then f p else p := by
  have : n.packs.modify lane f = n.packs.mapIdx fun l p => if l = lane then f p else p :=
    Lanes.ext_get fun i => by
      rw [Lanes.get_modify, Lanes.get_mapIdx]; split
      · rename_i e; rw [e]
      · rfl
  simp only [Nest.updatePack, Nest.mapPacks, this]

theorem Nest.mapPacks_mapPacks (v w : Fin 8 → Pack → Pack) (n : Nest) :
    (n.mapPacks v).mapPacks w = n.mapPacks fun l p => w l (v l p) := by
  have : (n.packs.mapIdx v).mapIdx w = n.packs.mapIdx fun l p => w l (v l p) := Lanes.ext_get fun i => by simp
  simp only [Nest.mapPacks, this]

/-- Two writes to one serial number are one. -/
theorem Track.updateNest_updateNest (t : Track) (k : Nat) {f : Nest → Nest} (g : Nest → Nest)
    (hf : ∀ n, (f n).serial = n.serial) :
    (t.updateNest k f).updateNest k g = t.updateNest k fun n => g (f n) := by
  simp only [Track.updateNest, List.map_map]
  congr 2
  funext o
  rcases o with _ | n
  · rfl
  · by_cases h : n.serial = k
    · simp [h, hf]
    · simp [h]

theorem Track.updateNest_id (t : Track) (k : Nat) : t.updateNest k (fun n => n) = t := by
  have : (Option.map fun n : Nest => if n.serial = k then n else n) = id := by
    funext o; rcases o with _ | n <;> simp
  simp only [Track.updateNest, this, List.map_id]

/-- The effects that are writes to the pack a reference names, and nothing else. -/
def HeadEffect.writes (ref : PackRef) : HeadEffect → Prop
  | .result r _ _ => r = ref
  | .reasons serial lane _ => serial = ref.serial ∧ lane = ref.lane
  | .cause _ => False

/-- What an effect does to the pack it writes. -/
def HeadEffect.onPack (e : HeadEffect) (p : Pack) : Pack :=
  match e with
  | .result r y x => (p.putResult r.station y).addReasons x
  | .reasons _ _ x => p.addReasons x
  | .cause _ => p

/-- What effects in order do to the pack they write. -/
def effectsOn (l : List HeadEffect) (p : Pack) : Pack :=
  l.foldl (fun p e => e.onPack p) p

/-- An effect moves neither the format code nor the verdict of a pack. -/
theorem effectsOn_kept (l : List HeadEffect) (p : Pack) :
    (effectsOn l p).format = p.format ∧ (effectsOn l p).verdict = p.verdict := by
  unfold effectsOn
  induction l generalizing p with
  | nil => exact ⟨rfl, rfl⟩
  | cons e l ih =>
    have : (e.onPack p).format = p.format ∧ (e.onPack p).verdict = p.verdict := by
      cases e with
      | result r y x =>
        simp only [HeadEffect.onPack, Pack.addReasons, Pack.putResult]
        cases r.station <;> by_cases h : p.format = 0 <;> simp [h]
      | reasons a b x => simp only [HeadEffect.onPack, Pack.addReasons]; split <;> simp
      | cause c => exact ⟨rfl, rfl⟩
    rw [List.foldl_cons]
    exact ⟨(ih _).1.trans this.1, (ih _).2.trans this.2⟩

/-- Effects that write one pack are one write. -/
theorem applyEffects_writes {ref : PackRef} (l : List HeadEffect) (h : ∀ e ∈ l, e.writes ref) (s : State) :
    applyEffects l s = s.setTrack (s.track.updatePack ref.serial ref.lane (effectsOn l)) := by
  induction l generalizing s with
  | nil =>
    have e : Nest.updatePack ref.lane (effectsOn []) = fun n => n := by
      funext n
      rw [Nest.updatePack_eq]
      have : n.packs.mapIdx (fun l p => if l = ref.lane then effectsOn [] p else p) = n.packs :=
        Lanes.ext_get fun i => by simp [effectsOn]
      simp only [Nest.mapPacks, this]
    rw [Track.updatePack, e, Track.updateNest_id]; rfl
  | cons e l ih =>
    have he : e.apply s = s.setTrack (s.track.updatePack ref.serial ref.lane e.onPack) := by
      have := h e (by simp)
      cases e with
      | result r x y => cases (this : r = ref); rfl
      | reasons serial lane x => obtain ⟨rfl, rfl⟩ := this; rfl
      | cause c => exact this.elim
    rw [applyEffects, ih (fun e m => h e (by simp [m])), he]
    simp only [State.setTrack]
    congr 1
    rw [Track.updatePack, Track.updatePack, Track.updateNest_updateNest _ _ _ (Nest.updatePack_serial _ _)]
    congr 1
    funext n
    simp only [Nest.updatePack_eq, Nest.mapPacks_mapPacks]
    congr 1
    funext l' p
    by_cases hl : l' = ref.lane <;> simp [hl, effectsOn]

/-- An act whose effects write one pack, by a head that neither enters nor leaves SAFE. -/
theorem State.actHead_writes {ref : PackRef} {h : Fin 16} {f : HeadCtx → HeadCtx}
    (ho : ∀ e ∈ (f (s.ctx h)).out, e.writes ref) (hs : (f (s.ctx h)).head.state = .safe ↔ (s.head h).state = .safe) :
    s.actHead h f = (s.withHead h (f (s.ctx h)).head (f (s.ctx h)).status).setTrack
      (s.track.updatePack ref.serial ref.lane (effectsOn (f (s.ctx h)).out)) := by
  rw [s.actHead_calm h f hs, applyEffects_writes _ ho, State.withHead_track]

/-- Heads that act in turn, each on a pack of its own lane of one nest, and neither enter nor leave SAFE: the packs of those
lanes are written by those heads, and but for heads and packs all stands as it did. -/
theorem State.actHeads_writes (f : Fin 16 → HeadCtx → HeadCtx) (lane : Fin 16 → Fin 8) (st : Station) (serial : Nat)
    (hs : List (Fin 16)) (nd : hs.Nodup)
    (ho : ∀ h ∈ hs, ∀ e ∈ (f h (s.ctx h)).out, e.writes ⟨serial, lane h, st⟩)
    (hsafe : ∀ h ∈ hs, (f h (s.ctx h)).head.state = .safe ↔ (s.head h).state = .safe) :
    ∃ w : Fin 8 → Pack → Pack,
      (s.actHeads f hs).track = s.track.updateNest serial (Nest.mapPacks w) ∧
      (s.actHeads f hs).causes = s.causes ∧ (s.actHeads f hs).trackStatus = s.trackStatus ∧
      (∀ l p, (w l p).format = p.format ∧ (w l p).verdict = p.verdict) ∧
      ((∀ a ∈ hs, ∀ b ∈ hs, lane a = lane b → a = b) → ∀ h ∈ hs, w (lane h) = effectsOn (f h (s.ctx h)).out) ∧
      ∀ l, (∀ h ∈ hs, lane h ≠ l) → w l = id := by
  induction hs generalizing s with
  | nil =>
    refine ⟨fun _ p => p, ?_, rfl, rfl, fun _ _ => ⟨rfl, rfl⟩, fun _ _ m => (by cases m), fun _ _ => rfl⟩
    have : (Nest.mapPacks fun _ p => p) = fun n => n := by
      funext n
      have : n.packs.mapIdx (fun _ p => p) = n.packs := Lanes.ext_get fun i => by simp
      simp only [Nest.mapPacks, this]
    rw [this, Track.updateNest_id]; rfl
  | cons h rest ih =>
    obtain ⟨d1, d2⟩ := List.nodup_cons.1 nd
    have act := State.actHead_writes (ho h (by simp)) (hsafe h (by simp))
    have ne : ∀ h' ∈ rest, h' ≠ h := fun h' m e => d1 (e ▸ m)
    have ec : ∀ h' ∈ rest, (s.actHead h (f h)).ctx h' = s.ctx h' := fun h' m =>
      State.ctx_eq (by simp) (by simp) (s.actHead_of_ne _ (ne h' m)).1 (s.actHead_of_ne _ (ne h' m)).2
    obtain ⟨w, e1, e2, e3, ek, e4, e5⟩ := ih (s := s.actHead h (f h)) d2
      (fun h' m => by rw [ec h' m]; exact ho h' (by simp [m]))
      (fun h' m => by rw [ec h' m, (s.actHead_of_ne _ (ne h' m)).1]; exact hsafe h' (by simp [m]))
    refine ⟨fun l p => w l (if l = lane h then effectsOn (f h (s.ctx h)).out p else p), ?_, ?_, ?_, ?_, ?_, ?_⟩
    · rw [State.actHeads, e1, act]
      rw [State.setTrack_track, Track.updatePack, Track.updateNest_updateNest _ _ _ (Nest.updatePack_serial _ _)]
      congr 1
      funext n
      rw [Nest.updatePack_eq, Nest.mapPacks_mapPacks]
    · rw [State.actHeads, e2, act]; rfl
    · rw [State.actHeads, e3, act]; rfl
    · intro l p
      refine ⟨(ek l _).1.trans ?_, (ek l _).2.trans ?_⟩ <;> split
      exacts [(effectsOn_kept _ p).1, rfl, (effectsOn_kept _ p).2, rfl]
    · intro inj h' m
      have free : w (lane h) = id := e5 _ fun h' m e => ne h' m (inj h' (by simp [m]) h (by simp) e)
      rcases List.mem_cons.1 m with rfl | m
      · funext p; simp [free]
      · have nl : lane h' ≠ lane h := fun e => ne h' m (inj h' (by simp [m]) h (by simp) e)
        funext p
        simp only [nl, if_false]
        rw [e4 (fun a ma b mb => inj a (by simp [ma]) b (by simp [mb])) h' m, ec h' m]
    · intro l hl
      have nl : l ≠ lane h := fun e => hl h (by simp) e.symm
      funext p
      simp only [nl, if_false]
      rw [e5 l fun h' m => hl h' (by simp [m])]
/-! ### The selection of a head (R73 to R75) -/

/-- A head at work on one pack: it refers to that pack, has written no other, and is not in SAFE. -/
def HeadCtx.worksOn (ref : PackRef) (q : HeadParams) (x : HeadCtx) : Prop :=
  x.head.packRef = some ref ∧ (∀ e ∈ x.out, e.writes ref) ∧ x.head.state ≠ .safe ∧ x.head.params = q

theorem HeadCtx.writeEnd_writes {x : HeadCtx} {ref : PackRef} {q : HeadParams} (reason : EndReason) (h : x.worksOn ref q) :
    ∀ e ∈ (x.writeEnd reason).out, e.writes ref := by
  unfold HeadCtx.writeEnd
  split
  · rename_i r _ hr
    intro e he
    simp only [HeadCtx.emit, List.mem_append, List.mem_singleton] at he
    rcases he with he | rfl
    · exact h.2.1 e he
    · rw [h.1] at hr; cases hr; rfl
  · exact h.2.1

theorem HeadCtx.complete_writes {x : HeadCtx} {ref : PackRef} {q : HeadParams} (h : x.worksOn ref q) :
    (∀ e ∈ x.complete.out, e.writes ref) ∧ x.complete.head.state ≠ .safe ∧ x.complete.head.params = q := by
  refine ⟨?_, ?_, ?_⟩
  · have : x.complete.out = (x.writeEnd ((x.head.run?.map Run.completion).getD .complete)).out := by
      unfold HeadCtx.complete; dsimp only; split <;> rfl
    rw [this]; exact HeadCtx.writeEnd_writes _ h
  · have : x.complete.head.state = .ready := by
      unfold HeadCtx.complete; dsimp only; split <;> rfl
    rw [this]; decide
  · have : x.complete.head.params = x.head.params := by
      unfold HeadCtx.complete; dsimp only; split <;> simp [HeadCtx.mapHead, HeadCtx.post, Head.enterReady, Head.rest,
          Head.dropCycle]
    rw [this]; exact h.2.2.2

/-- A segment begun, whatever its duration, moves neither the reference nor the state. -/
theorem HeadCtx.beginSegment_worksOn {x : HeadCtx} {ref : PackRef} {q : HeadParams} (n : Nat) (g : Segment)
    (h : x.worksOn ref q) :
    (x.beginSegment n g).worksOn ref q := by
  have sim := SetpointStep.applyTargets (x.head.updateRun fun r => { r with current := n, segStart := x.now, segDue := x.now + g.duration }) x.now g
  have hv := Head.movePlaten_eq ((x.head.updateRun fun r => { r with current := n, segStart := x.now, segDue := x.now + g.duration }).applyTargets x.now g) x.now g
  have hd : (x.beginSegment n g).head.packRef = x.head.packRef ∧ (x.beginSegment n g).head.state = x.head.state ∧
      (x.beginSegment n g).head.params = x.head.params := by
    unfold HeadCtx.beginSegment
    dsimp only
    split <;> (simp only [HeadCtx.mapHead, HeadCtx.post]; split <;> rw [hv] <;> exact ⟨sim.pref, sim.state, sim.params⟩)
  exact ⟨hd.1.trans h.1, by rw [HeadCtx.beginSegment_out]; exact h.2.1, by rw [hd.2.1]; exact h.2.2.1,
      by rw [hd.2.2]; exact h.2.2.2⟩

theorem HeadCtx.endSegment_worksOn {x : HeadCtx} {ref : PackRef} {q : HeadParams} (r : Run) (h : x.worksOn ref q) :
    (x.endSegment r).2.worksOn ref q := by
  unfold HeadCtx.endSegment
  dsimp only
  split
  · split <;> exact h
  · exact h

theorem HeadCtx.runFrom_writes {ref : PackRef} {q : HeadParams} (k : Nat) : ∀ (n : Nat) (x : HeadCtx), x.worksOn ref q →
    (∀ e ∈ (x.runFrom k n).out, e.writes ref) ∧ (x.runFrom k n).head.state ≠ .safe ∧ (x.runFrom k n).head.params = q := by
  induction k with
  | zero => exact fun _ _ h => h.2
  | succ k ih =>
    intro n x h
    rw [HeadCtx.runFrom]
    split
    · exact h.2
    · split
      · exact HeadCtx.complete_writes h
      · have hb := HeadCtx.beginSegment_worksOn n ‹_› h
        dsimp only
        split
        · split
          · exact hb.2
          · exact ih _ _ (HeadCtx.endSegment_worksOn _ hb)
        · exact hb.2

theorem HeadCtx.startPack_writes {x : HeadCtx} {ref : PackRef} {q : HeadParams} (lib : Library) (code : Option Nat)
    (h : x.worksOn ref q) :
    (∀ e ∈ (x.startPack lib code).out, e.writes ref) ∧ (x.startPack lib code).head.state ≠ .safe ∧
      (x.startPack lib code).head.params = q := by
  have drop : (∀ e ∈ x.dropPending.out, e.writes ref) ∧ x.dropPending.head.state ≠ .safe ∧
      x.dropPending.head.params = q := ⟨h.2.1, by change HeadState.ready ≠ .safe; decide, h.2.2.2⟩
  unfold HeadCtx.startPack
  split
  · split
    · exact drop
    · split
      · exact drop
      · exact HeadCtx.runFrom_writes _ _ _ ⟨h.1, h.2.1, by change HeadState.running ≠ .safe; decide, h.2.2.2⟩
  · exact drop

/-- What a head writes at its selection is the pack it selects from; it neither enters nor leaves SAFE (R73). -/
theorem HeadCtx.select_writes {x : HeadCtx} (ho : x.out = []) (lib : Library) (ref : PackRef) (p : Pack) :
    (∀ e ∈ (x.select lib ref p).out, e.writes ref) ∧
    ((x.select lib ref p).head.state = .safe ↔ x.head.state = .safe) ∧ (x.select lib ref p).head.params = x.head.params := by
  have still : (∀ e ∈ x.out, e.writes ref) ∧ (x.head.state = .safe ↔ x.head.state = .safe) ∧ x.head.params =
      x.head.params := by
    simp [ho]
  unfold HeadCtx.select
  split
  · exact still
  · split
    · exact still
    · split
      · exact still
      · split
        · refine ⟨?_, Iff.rfl, rfl⟩
          simp [HeadCtx.emit, ho, HeadEffect.writes]
        · split
          · refine ⟨?_, Iff.rfl, rfl⟩
            simp [HeadCtx.emit, ho, HeadEffect.writes]
          · rename_i hn
            simp only [not_or, not_not] at hn
            have start : ∀ code, (∀ e ∈ ((x.mapHead fun h => { h with cycle := some ⟨.pack, none⟩, packRef := some ref }).startPack lib code).out, e.writes ref) ∧
              (((x.mapHead fun h => { h with cycle := some ⟨.pack, none⟩, packRef := some ref }).startPack lib code).head.state = .safe ↔ x.head.state = .safe) ∧
              ((x.mapHead fun h => { h with cycle := some ⟨.pack, none⟩, packRef := some ref }).startPack lib code).head.params = x.head.params := by
              intro code
              obtain ⟨a, b, c⟩ := HeadCtx.startPack_writes (x := x.mapHead fun h => { h with cycle := some ⟨.pack, none⟩, packRef := some ref }) (ref := ref) (q := x.head.params) lib code
                ⟨rfl, by simp [HeadCtx.mapHead, ho], by change x.head.state ≠ .safe; rw [hn.1]; decide, rfl⟩
              exact ⟨a, by simp [b, hn.1], c⟩
            have wait : ∀ t : Option Nat,
              (∀ e ∈ ((x.mapHead fun h => { h with cycle := some ⟨.pack, none⟩, packRef := some ref }).mapHead fun h => { h with state := .pending, startTimer := t }).out, e.writes ref) ∧
              (((x.mapHead fun h => { h with cycle := some ⟨.pack, none⟩, packRef := some ref }).mapHead fun h => { h with state := .pending, startTimer := t }).head.state = .safe ↔ x.head.state = .safe) ∧
              ((x.mapHead fun h => { h with cycle := some ⟨.pack, none⟩, packRef := some ref }).mapHead fun h => { h with state := .pending, startTimer := t }).head.params = x.head.params := by
              intro t; refine ⟨by simp [HeadCtx.mapHead, ho], ?_, rfl⟩
              change HeadState.pending = .safe ↔ _
              rw [hn.1]; decide
            unfold HeadCtx.choose
            dsimp only
            split
            · exact start _
            · split
              · exact start _
              · exact wait _
            · exact wait _

theorem HeadCtx.select_selects {t : State} {h : Fin 16} {ref : PackRef} {p p' : Pack}
    (hh : t.head h = ((s.ctx h).select s.library ref p).head)
    (hs : t.status h = ((s.ctx h).select s.library ref p).status)
    (hp : p' = effectsOn ((s.ctx h).select s.library ref p).out p) : s.selects h ref p p' t := by
  unfold State.selects
  have hcx : (s.ctx h).head = s.head h := rfl
  have hcs : (s.ctx h).status = s.status h := rfl
  have hnow : (s.ctx h).now = s.now := rfl
  have hid : (s.ctx h).id = h := rfl
  have hout : (s.ctx h).out = [] := rfl
  rw [hh, hs, hp, ← hcx, ← hcs, ← hnow]
  generalize s.ctx h = c at *
  clear hh hs hp hcx hcs hnow
  constructor
  · intro due
    have : c.select s.library ref p = c := by
      unfold HeadCtx.select
      by_cases h0 : p.format = 0
      · rw [if_pos h0]
      · rw [if_neg h0]
        rw [Library.cycleDue, if_neg h0] at due
        rcases hf : s.library.format p.format with _ | f
        · rfl
        · rw [hf] at due
          dsimp only
          have : (f.forStation ref.station).isNone = true := by
            unfold Format.forStation; rw [Option.isNone_iff_eq_none]; exact due
          simp only [this, if_true]
    rw [this, hout]; exact ⟨⟨rfl, rfl⟩, rfl⟩
  · intro f id d hf due
    have h0 : p.format ≠ 0 := by
      intro h0; rw [Library.cycleDue, if_pos h0] at due; cases due
    have hst : f.forStation ref.station = some (id, d) := by
      rw [Library.cycleDue, if_neg h0, hf] at due; exact due
    have hn : (f.forStation ref.station).isNone = false := by rw [hst]; rfl
    refine ⟨?_, ?_, ?_⟩
    · intro hsk
      have : c.select s.library ref p = c.emit (.result ref (skippedResult c.id) 0) := by
        unfold HeadCtx.select
        rw [if_neg h0, hf]
        have : (p.reasons != 0) = true := by simpa using hsk.2
        simp only [hn, hsk.1, this, Bool.and_self, if_true]; rfl
      rw [this]
      refine ⟨⟨rfl, rfl⟩, ?_⟩
      simp only [HeadCtx.emit, hout, List.nil_append, effectsOn, List.foldl_cons, List.foldl_nil, HeadEffect.onPack,
        Pack.addReasons]
      cases ref.station <;> simp [Pack.putResult, skippedResult, hid]
    · intro hsk ht
      have hsk' : (f.skipRejected && p.reasons != 0) = false := by
        cases h1 : f.skipRejected <;> simp_all
      have ht' : c.head.state ≠ .ready ∨ c.head.params.loopMode = .monitor := by
        by_cases h1 : c.head.state = .ready
        · right; by_contra h2; exact ht ⟨h1, h2⟩
        · exact .inl h1
      have : c.select s.library ref p = c.emit (.reasons ref.serial ref.lane RejectReason.noHead.set) := by
        unfold HeadCtx.select
        rw [if_neg h0, hf]
        simp only [hn, hsk', ht', if_true]; rfl
      rw [this]
      refine ⟨⟨rfl, rfl⟩, ?_⟩
      simp only [HeadCtx.emit, hout, List.nil_append, effectsOn, List.foldl_cons, List.foldl_nil, HeadEffect.onPack,
        Pack.addReasons, if_neg h0]
      rfl
    · intro hsk ht
      have hsk' : (f.skipRejected && p.reasons != 0) = false := by
        cases h1 : f.skipRejected <;> simp_all
      have ht' : ¬(c.head.state ≠ .ready ∨ c.head.params.loopMode = .monitor) := by
        rintro (h1 | h1)
        · exact h1 ht.1
        · exact ht.2 h1
      have : c.select s.library ref p = c.choose s.library ref p.format := by
        unfold HeadCtx.select
        rw [if_neg h0, hf]
        simp only [hn, hsk', ht', if_false]; rfl
      rw [this]
      obtain ⟨w, hw⟩ : ∃ w : HeadCtx, w =
          c.mapHead fun h => { h with cycle := some ⟨.pack, none⟩, packRef := some ref } := ⟨_, rfl⟩
      have wref : w.head.packRef = some ref := by rw [hw]; rfl
      have start : c.choose s.library ref p.format = w.startPack s.library (some p.format) →
        (∀ gs, s.library.profile id = some gs →
          ∃ ended, Head.continues c.now h 0 (c.head.startsPack ref f id d gs) c.status
              (c.choose s.library ref p.format).head (c.choose s.library ref p.format).status ended ∧
            effectsOn (c.choose s.library ref p.format).out p = match ended with
              | none => p
              | some (reason, w) => p.ended ref.station (w.endedResult h reason) (w.endedMask reason ref.station)) ∧
        (s.library.profile id = none → effectsOn (c.choose s.library ref p.format).out p = p ∧
          (c.choose s.library ref p.format).head.dropsCycle c.head ∧ (c.choose s.library ref p.format).status =
              c.status) := by
        intro e
        rw [e]
        refine ⟨fun gs h1 => ?_, fun h1 => ?_⟩
        · have : w.startPack s.library (some p.format) =
             w.launch .pack (.fresh id gs d.base d.cap (some (d.windowMin, d.windowMax)) f.resealAllowed) := by
            unfold HeadCtx.startPack; rw [wref, Option.bind_some, hf]; dsimp only; rw [hst]; dsimp only; rw [h1]
          rw [this]
          obtain ⟨ended, a, b⟩ := HeadCtx.launch_continues w .pack
            (.fresh id gs d.base d.cap (some (d.windowMin, d.windowMax)) f.resealAllowed)
          rw [hw] at a b
          rw [show (c.mapHead fun h => { h with cycle := some ⟨.pack, none⟩, packRef := some ref }).id = h from hid] at a
          refine ⟨ended, ?_, ?_⟩
          · rw [hw]; exact a
          · rw [hw, b, show (c.mapHead fun h => { h with cycle := some ⟨.pack, none⟩, packRef := some ref }).out = [] from hout]
            rcases ended with _ | ⟨reason, z⟩
            · rfl
            · have keep := Head.continues.keeps a
              dsimp only
              rw [List.nil_append, Head.endEffects_pack (ref := ref) keep.1 keep.2, show
                (c.mapHead fun h => { h with cycle := some ⟨.pack, none⟩, packRef := some ref }).id = h from hid]
              exact Pack.ended_eq _ _ _ _
        · have : w.startPack s.library (some p.format) = w.dropPending := by
            unfold HeadCtx.startPack; rw [wref, Option.bind_some, hf]; dsimp only; rw [hst]; dsimp only; rw [h1]
          rw [this]
          refine ⟨?_, ⟨rfl, ⟨rfl, rfl, rfl, rfl, rfl⟩, rfl, ?_⟩, ?_⟩
          · rw [hw]; simp [HeadCtx.dropPending, HeadCtx.mapHead, hout, effectsOn]
          · rw [hw]; rfl
          · rw [hw]; rfl
      have wait : ∀ timer, c.choose s.library ref p.format =
          (w.mapHead fun h => { h with state := .pending, startTimer := timer }) →
          effectsOn (c.choose s.library ref p.format).out p = p ∧ (c.choose s.library ref p.format).status = c.status ∧
          (c.choose s.library ref p.format).head =
          { c.head with state := .pending, cycle := some ⟨.pack, none⟩, packRef := some ref, startTimer := timer } := by
        intro timer e
        rw [e, hw]
        refine ⟨by simp [HeadCtx.mapHead, hout, effectsOn], rfl, rfl⟩
      refine ⟨fun hsrc => wait _ ?_, fun hsrc hd => wait _ ?_, fun hsrc => start ?_⟩
      · unfold HeadCtx.choose; rw [hsrc, ← hw]
      · unfold HeadCtx.choose; rw [hsrc, ← hw]; simp [hd]
      · unfold HeadCtx.choose
        rcases hsrc with hsrc | ⟨hsrc, hd⟩
        · rw [hsrc, ← hw]
        · rw [hsrc, ← hw]; simp [hd]

/-! ### The arrival at a station (R13, R66) -/

theorem Head.boundLane_eq (x : Head) (st : Station) (lane : Fin 8) :
    x.boundLane st = some lane ↔ x.params.binding = some (st, lane) := by
  unfold Head.boundLane
  rcases x.params.binding with _ | ⟨st', l⟩
  · simp
  · by_cases h : st' = st
    · subst h; simp
    · simp [h]

theorem State.laneBound_eq (st : Station) (lane : Fin 8) :
    s.laneBound st lane = true ↔ ∃ h, (s.head h).params.binding = some (st, lane) := by
  simp only [State.laneBound, Bank.any_toList, beq_iff_eq, State.head, Head.boundLane_eq]

/-- The arrival of a nest at a station: the bound heads and the packs of their lanes, NO_HEAD in the lanes without a head, and
nothing else. -/
theorem State.stationArrival_eq (st : Station) (n : Nest) :
    let t := s.stationArrival st n
    ∃ w : Fin 8 → Pack → Pack,
      t.track = s.track.updateNest n.serial (Nest.mapPacks w) ∧ t.causes = s.causes ∧ t.trackStatus = s.trackStatus ∧
      (∀ lane p, (w lane p).format = p.format ∧ (w lane p).verdict = p.verdict) ∧
      (t.now = s.now ∧ t.link = s.link ∧ t.library = s.library ∧ t.gate = s.gate ∧ t.store = s.store ∧ t.lines = s.lines ∧
        t.draws = s.draws ∧ t.pending = s.pending) ∧
      (∀ h lane, (s.head h).params.binding = some (st, lane) →
        let c := (s.ctx h).select s.library ⟨n.serial, lane, st⟩ (n.packs.get lane)
        t.head h = c.head ∧ t.status h = c.status ∧ (s.bindingsDistinct → w lane = effectsOn c.out)) ∧
      (∀ h, (∀ lane, (s.head h).params.binding ≠ some (st, lane)) → t.head h = s.head h ∧ t.status h = s.status h) ∧
      (∀ lane, (∀ h, (s.head h).params.binding ≠ some (st, lane)) →
        w lane = fun p => if s.library.dueAt st p then p.addReasons RejectReason.noHead.set else p) ∧
      ∀ h, (t.head h).params = (s.head h).params := by
  intro t
  obtain ⟨f, hf⟩ : ∃ f : Fin 16 → HeadCtx → HeadCtx, f = fun _ x => match x.head.boundLane st with
    | some lane => x.select s.library ⟨n.serial, lane, st⟩ (n.packs.get lane)
    | none => x := ⟨_, rfl⟩
  obtain ⟨hs, hhs⟩ : ∃ hs, hs = allHeads.filter fun h => ((s.head h).boundLane st).isSome := ⟨_, rfl⟩
  have ht : t = (s.actHeads f hs).noHeads st n := by rw [hf, hhs]; rfl
  have mem : ∀ h, h ∈ hs ↔ ∃ lane, (s.head h).params.binding = some (st, lane) := by
    intro h
    rw [hhs, List.mem_filter, and_iff_right (mem_allHeads h), Option.isSome_iff_exists]
    simp only [Head.boundLane_eq]
  obtain ⟨lane, hlane⟩ : ∃ lane : Fin 16 → Fin 8, lane = fun h => ((s.head h).boundLane st).getD 0 := ⟨_, rfl⟩
  have lane_of : ∀ h l, (s.head h).params.binding = some (st, l) → lane h = l := by
    intro h l e; rw [hlane]; dsimp only; rw [(Head.boundLane_eq _ _ _).2 e]; rfl
  have fsel : ∀ h l, (s.head h).params.binding = some (st, l) →
      f h (s.ctx h) = (s.ctx h).select s.library ⟨n.serial, l, st⟩ (n.packs.get l) := by
    intro h l e; rw [hf]; dsimp only
    have : (s.ctx h).head.boundLane st = some l := (Head.boundLane_eq _ _ _).2 e
    rw [this]
  have sel := fun h l => HeadCtx.select_writes (x := s.ctx h) rfl s.library ⟨n.serial, l, st⟩ (n.packs.get l)
  obtain ⟨w, e1, e2, e3, ek, e4, e5⟩ := State.actHeads_writes (s := s) f lane st n.serial hs
    (by rw [hhs]; exact allHeads_nodup.filter _)
    (by intro h m; obtain ⟨l, e⟩ := (mem h).1 m; rw [fsel h l e, lane_of h l e]; exact (sel h l).1)
    (by intro h m; obtain ⟨l, e⟩ := (mem h).1 m; rw [fsel h l e]; exact (sel h l).2.1)
  have inj : s.bindingsDistinct → ∀ a ∈ hs, ∀ b ∈ hs, lane a = lane b → a = b := by
    intro bd a ma b mb e
    obtain ⟨la, ha⟩ := (mem a).1 ma
    obtain ⟨lb, hb⟩ := (mem b).1 mb
    rw [lane_of a la ha, lane_of b lb hb] at e
    exact bd a b (by rw [ha]; rfl) (by rw [ha, hb, e])
  have rest := State.actHeads_rest (s := s) f hs
  have nd : hs.Nodup := by rw [hhs]; exact allHeads_nodup.filter _
  have heads : ∀ h l, (s.head h).params.binding = some (st, l) →
      (s.actHeads f hs).head h = ((s.ctx h).select s.library ⟨n.serial, l, st⟩ (n.packs.get l)).head ∧
      (s.actHeads f hs).status h = ((s.ctx h).select s.library ⟨n.serial, l, st⟩ (n.packs.get l)).status := by
    intro h l e
    rw [← fsel h l e]
    exact State.actHeads_of_mem f nd ((mem h).2 ⟨l, e⟩)
  have others : ∀ h, (∀ l, (s.head h).params.binding ≠ some (st, l)) →
      (s.actHeads f hs).head h = s.head h ∧ (s.actHeads f hs).status h = s.status h := by
    intro h e
    exact State.actHeads_of_notMem f fun m => by obtain ⟨l, el⟩ := (mem h).1 m; exact e l el
  have params : ∀ h, ((s.actHeads f hs).head h).params = (s.head h).params := by
    intro h
    by_cases e : ∃ l, (s.head h).params.binding = some (st, l)
    · obtain ⟨l, e⟩ := e
      rw [(heads h l e).1]; exact (sel h l).2.2
    · rw [(others h fun l el => e ⟨l, el⟩).1]
  have bound : ∀ l, (s.actHeads f hs).laneBound st l = true ↔ ∃ h, (s.head h).params.binding = some (st, l) := by
    intro l; rw [State.laneBound_eq]; simp only [params]
  rw [ht]
  generalize s.actHeads f hs = u at *
  refine ⟨fun l p => if s.library.dueAt st (w l p) && !u.laneBound st l then (w l p).addReasons RejectReason.noHead.set else w l p,
    ?_, e2, e3, ?_, rest, ?_, others, ?_, params⟩
  · simp only [State.noHeads, State.setTrack_track, e1, rest.2.2.1]
    rw [Track.updateNest_updateNest _ _ _ (Nest.mapPacks_serial _)]
    congr 1
  · intro l p
    dsimp only
    split
    · have : ∀ q : Pack, (q.addReasons RejectReason.noHead.set).format = q.format ∧
          (q.addReasons RejectReason.noHead.set).verdict = q.verdict := by
        intro q; simp only [Pack.addReasons]; split <;> simp
      exact ⟨(this _).1.trans (ek l p).1, (this _).2.trans (ek l p).2⟩
    · exact ek l p
  · intro h l e
    refine ⟨(heads h l e).1, (heads h l e).2, fun bd => ?_⟩
    have hb : u.laneBound st l = true := (bound l).2 ⟨h, e⟩
    funext p
    simp only [hb, Bool.not_true, Bool.and_false, Bool.false_eq_true, if_false]
    rw [← fsel h l e, ← e4 (inj bd) h ((mem h).2 ⟨l, e⟩), lane_of h l e]
  · intro l e
    have hb : u.laneBound st l = false := by
      rcases hb : u.laneBound st l with _ | _
      · rfl
      · obtain ⟨h, eh⟩ := (bound l).1 hb; exact absurd eh (e h)
    have hw : w l = id := e5 l fun h m el => by
      obtain ⟨l', e'⟩ := (mem h).1 m
      rw [lane_of h l' e'] at el; exact e h (el ▸ e')
    funext p
    simp only [hb, Bool.not_false, Bool.and_true, hw, id]

/-! ### The arrivals of a shift (R13, R137) -/

/-- No two nests of a track carry one serial number. -/
def Track.distinct (t : Track) : Prop :=
  ∀ p q n m, t.nestAt p = some n → t.nestAt q = some m → n.serial = m.serial → p = q

/-- A write to the nest at a position, in a track of distinct nests. -/
theorem Track.nestAt_updateNest_at {t : Track} (h : t.distinct) {pos : Nat} {n : Nest} (hn : t.nestAt pos = some n)
    (f : Nest → Nest) (p : Nat) :
    (t.updateNest n.serial f).nestAt p = (t.nestAt p).map fun m => if p = pos then f m else m := by
  rw [Track.nestAt_updateNest]
  rcases e : t.nestAt p with _ | m
  · rfl
  · simp only [Option.map_some]
    by_cases hp : p = pos
    · subst hp; rw [hn] at e; cases e; simp
    · have : m.serial ≠ n.serial := fun es => hp (h p pos m n e hn es)
      simp [hp, this]

/-- What is done at one position of a track of distinct nests, in lanes: the packs there are rewritten, and the rest of the
track and the device stand, but for what is said. -/
theorem State.stationArrival_at (st : Station) (pos : Nat) (di : s.track.distinct) :
    let t := s.withNestAt pos (State.stationArrival st)
    ∃ w : Fin 8 → Pack → Pack,
      { t.track with slots := s.track.slots } = s.track ∧
      (∀ p, t.track.nestAt p = (s.track.nestAt p).map fun m => if p = pos then m.mapPacks w else m) ∧
      (∀ lane p, (w lane p).format = p.format ∧ (w lane p).verdict = p.verdict) ∧
      t.causes = s.causes ∧ t.trackStatus = s.trackStatus ∧
      (t.now = s.now ∧ t.link = s.link ∧ t.library = s.library ∧ t.gate = s.gate ∧ t.store = s.store ∧ t.lines = s.lines ∧
        t.draws = s.draws ∧ t.pending = s.pending) ∧
      (∀ n h lane, s.track.nestAt pos = some n → (s.head h).params.binding = some (st, lane) →
        let c := (s.ctx h).select s.library ⟨n.serial, lane, st⟩ (n.packs.get lane)
        t.head h = c.head ∧ t.status h = c.status ∧ (s.bindingsDistinct → w lane = effectsOn c.out)) ∧
      (∀ h, (s.track.nestAt pos = none ∨ ∀ lane, (s.head h).params.binding ≠ some (st, lane)) →
        t.head h = s.head h ∧ t.status h = s.status h) ∧
      (∀ n lane, s.track.nestAt pos = some n → (∀ h, (s.head h).params.binding ≠ some (st, lane)) →
        w lane = fun p => if s.library.dueAt st p then p.addReasons RejectReason.noHead.set else p) ∧
      ∀ h, (t.head h).params = (s.head h).params := by
  intro t
  rcases e : s.track.nestAt pos with _ | n
  · have ht : t = s := by simp only [t, State.withNestAt, e]
    rw [ht]
    refine ⟨fun _ p => p, rfl, ?_, fun _ _ => ⟨rfl, rfl⟩, rfl, rfl, ⟨rfl, rfl, rfl, rfl, rfl, rfl, rfl, rfl⟩, ?_,
        fun _ _ => ⟨rfl, rfl⟩, ?_, fun _ => rfl⟩
    · intro p
      rcases ep : s.track.nestAt p with _ | m
      · rfl
      · have : p ≠ pos := fun h => by rw [h, e] at ep; cases ep
        simp [this]
    · intro n h lane h1; cases h1
    · intro n lane h1; cases h1
  · have ht : t = s.stationArrival st n := by simp only [t, State.withNestAt, e]
    rw [ht]
    obtain ⟨w, a1, a2, a3, ak, a4, a5, a6, a7, a8⟩ := s.stationArrival_eq st n
    refine ⟨w, by rw [a1]; rfl, ?_, ak, a2, a3, a4, ?_, ?_, ?_, a8⟩
    · intro p; rw [a1]; exact Track.nestAt_updateNest_at di e _ p
    · intro m h lane h1; cases h1; exact a5 h lane
    · intro h hor
      rcases hor with hor | hor
      · cases hor
      · exact a6 h hor
    · intro m lane h1; cases h1; exact a7 lane

/-- Distinctness looks at serial numbers alone. -/
theorem Track.distinct_of_map {t u : Track} (h : t.distinct) (g : Nat → Nest → Nest) (hg : ∀ p n, (g p n).serial = n.serial)
    (e : ∀ p, u.nestAt p = (t.nestAt p).map (g p)) : u.distinct := by
  intro p q n m hn hm es
  rw [e] at hn hm
  obtain ⟨a, ha, rfl⟩ := Option.map_eq_some_iff.1 hn
  obtain ⟨b, hb, rfl⟩ := Option.map_eq_some_iff.1 hm
  exact h p q a b ha hb (by rw [← hg p a, ← hg q b, es])

theorem findNestFrom_of {serial i p : Nat} {l : List (Option Nest)} {n : Nest} (h : (l[p]?).join = some n)
    (hs : n.serial = serial) (hd : ∀ q m, (l[q]?).join = some m → m.serial = serial → q = p) :
    findNestFrom serial i l = some (i + p, n) := by
  induction l generalizing i p with
  | nil => simp at h
  | cons o rest ih =>
    rcases p with _ | p
    · simp only [List.getElem?_cons_zero, Option.join_some] at h
      rw [h]
      simp [findNestFrom, hs]
    · have hr := ih (i := i + 1) (p := p) (by simpa using h) fun q m a b => by
        have := hd (q + 1) m (by simpa using a) b
        omega
      rcases o with _ | m
      · rw [findNestFrom, hr]; congr 2; omega
      · rw [findNestFrom, if_neg, hr]
        · congr 2; omega
        · intro e
          have := hd 0 m (by simp) e
          omega

/-- The nest at a position is the one found by its serial number. -/
theorem Track.find_of_nestAt {t : Track} (h : t.distinct) {p : Nat} {n : Nest} (hn : t.nestAt p = some n) :
    t.find n.serial = some (p, n) := by
  have := findNestFrom_of (serial := n.serial) (i := 0) (l := t.slots) hn rfl fun q m a b => h q p m n a hn b
  simpa [Track.find] using this

/-- What the marks of eight lanes are in a byte. -/
theorem marks_lane (f : Fin 8 → Bool) (lane : Fin 8) :
    (BitVec.ofNat 8 (marks (allLanes.map f))).getLsbD lane.val = f lane := by
  simp only [allLanes, List.map]
  generalize e0 : f 0 = b0; generalize e1 : f 1 = b1; generalize e2 : f 2 = b2; generalize e3 : f 3 = b3
  generalize e4 : f 4 = b4; generalize e5 : f 5 = b5; generalize e6 : f 6 = b6; generalize e7 : f 7 = b7
  have key : ∀ b0 b1 b2 b3 b4 b5 b6 b7 : Bool, ∀ i : Fin 8,
    (BitVec.ofNat 8 (marks [b0, b1, b2, b3, b4, b5, b6, b7])).getLsbD i.val = (Lanes.mk b0 b1 b2 b3 b4 b5 b6 b7).get i := by
    decide
  rw [key]
  revert lane
  apply Fin8_cases <;> simp [Lanes.get, *]

/-- The diverter decision, as its statement has it (R139). -/
theorem Nest.decide_decidedAs (r : Bool) (n : Nest) : n.decidedAs r (n.decide r).divertedLanes (n.decide r) := by
  refine ⟨rfl, fun lane => ?_⟩
  have hl : (n.decide r).divertedLanes.getLsbD lane.val = ((n.decide r).packs.get lane).diverts := by
    have : (n.decide r).divertedLanes =
        BitVec.ofNat 8 (marks (allLanes.map fun l => ((n.decide r).packs.get l).diverts)) := by
      rw [Nest.divertedLanes, Lanes.toList_eq, List.map_map]; rfl
    rw [this, marks_lane]
  have hg : (n.decide r).packs.get lane = (n.packs.get lane).decide r := by simp [Nest.decide]
  rw [hl, hg]
  generalize n.packs.get lane = p
  rcases p with ⟨code, verdict, fr, sr, reasons, diverted⟩
  by_cases h0 : code = 0
  · subst h0
    cases r <;> cases verdict <;> simp [Pack.decide, Pack.diverts, Pack.isEmpty, Pack.addReasons]
  · by_cases hv : r = true ∧ verdict = .pending
    · obtain ⟨rfl, rfl⟩ := hv
      have hb : RejectReason.noVerdict.set = 2 := rfl
      have h2 : reasons ||| 2 ≠ 0 := by
        intro e
        have := congrArg (fun x : BitVec 32 => x.getLsbD 1) e
        simp at this
      have h2' : ¬ (reasons ||| 2#32 = 0#32) := h2
      simp [Pack.decide, Pack.diverts, Pack.isEmpty, Pack.addReasons, h0, hb, h2']
    · have hv' : (r && verdict == .pending) = false := by
        cases r
        · rfl
        · have : verdict ≠ .pending := fun e => hv ⟨rfl, e⟩
          simpa using this
      by_cases hr : reasons = 0
      · simp [Pack.decide, Pack.diverts, Pack.isEmpty, h0, hv', hv, hr]
      · have hr' : ¬ reasons = 0#32 := hr
        simp [Pack.decide, Pack.diverts, Pack.isEmpty, h0, hv', hv, hr']

theorem Pack.decide_kept (r : Bool) (p : Pack) : (p.decide r).format = p.format ∧ (p.decide r).verdict = p.verdict := by
  unfold Pack.decide Pack.addReasons
  dsimp only
  by_cases h : p.format = 0 <;> simp only [h] <;> (repeat' split) <;> simp_all

/-- The arrival of a nest at the gate (R137): the gate, the packs of the nest where the decision is made in the act, and
nothing else. -/
theorem State.gateArrival_at (pos : Nat) (di : s.track.distinct) :
    let t := s.withNestAt pos State.gateArrival
    let c := s.gate.config
    ∃ w : Nest → Nest,
      { t with track := s.track, gate := s.gate } = s ∧ { t.track with slots := s.track.slots } = s.track ∧
      (∀ p, t.track.nestAt p = (s.track.nestAt p).map fun m => if p = pos then w m else m) ∧
      (∀ n, { w n with packs := n.packs } = n ∧ ∀ lane, ((w n).packs.get lane).format = (n.packs.get lane).format ∧
        ((w n).packs.get lane).verdict = (n.packs.get lane).verdict) ∧
      (s.track.nestAt pos = none → t.gate = s.gate) ∧
      ∀ n, s.track.nestAt pos = some n →
        ((∀ lane, (n.packs.get lane).format = 0) →
          w n = n ∧
          t.gate = { s.gate with
            activity := some ⟨n.serial, .done, .done, none, none⟩
            punchTimer := none, diverterTimer := none, windowTimer := none }) ∧
        ((∃ lane, (n.packs.get lane).format ≠ 0) →
          ∃ a, t.gate.activity = some a ∧ a.serial = n.serial ∧ t.gate.config = c ∧
            (c.punchDelay ≠ 0 → a.punch = .delay ∧ t.gate.punchTimer = some (s.now + c.punchDelay) ∧ t.gate.punchOut =
                s.gate.punchOut) ∧
            (c.punchDelay = 0 → a.punch = .asserted ∧ t.gate.punchTimer = some (s.now + c.punchWidth) ∧ t.gate.punchOut =
                true) ∧
            (c.diverterDelay ≠ 0 → w n = n ∧ a.diverter = .delay ∧ a.diverted = none ∧ a.confirm = none ∧
              t.gate.diverterTimer = some (s.now + c.diverterDelay) ∧ t.gate.windowTimer = none ∧ t.gate.diverterOut =
                  s.gate.diverterOut) ∧
            (c.diverterDelay = 0 → ∃ lanes, n.decidedAs s.track.config.verdictRequired lanes (w n) ∧
              a.diverter = (if lanes = 0 then .window else .pulse) ∧ a.diverted = some lanes ∧ a.confirm = some 0 ∧
              t.gate.diverterOut = lanes ∧ t.gate.diverterTimer = (if lanes =
                  0 then none else some (s.now + c.diverterWidth)) ∧
              t.gate.windowTimer = some (s.now + c.diverterWidth + c.confirmGrace))) := by
  intro t c
  have idw : ∀ p, s.track.nestAt p = (s.track.nestAt p).map fun m => if p = pos then id m else m := by
    intro p; rcases s.track.nestAt p with _ | m <;> simp
  have keep : ∀ n : Nest, { id n with packs := n.packs } = n ∧ ∀ lane, ((id n).packs.get lane).format =
      (n.packs.get lane).format ∧
        ((id n).packs.get lane).verdict = (n.packs.get lane).verdict := fun n => ⟨rfl, fun _ => ⟨rfl, rfl⟩⟩
  rcases e : s.track.nestAt pos with _ | n
  · have ht : t = s := by simp only [t, State.withNestAt, e]
    rw [ht]
    exact ⟨id, rfl, rfl, idw, keep, fun _ => rfl, fun n h => by cases h⟩
  · have ht : t = s.gateArrival n := by simp only [t, State.withNestAt, e]
    have hall : (n.packs.toList.all Pack.isEmpty = true) ↔ ∀ lane, (n.packs.get lane).format = 0 := by
      rw [Lanes.toList_eq, List.all_map, List.all_eq_true]
      simp only [Function.comp, Pack.isEmpty, beq_iff_eq]
      exact ⟨fun h l => h l (mem_allLanes l), fun h l _ => h l⟩
    rw [ht]
    by_cases ha : ∀ lane, (n.packs.get lane).format = 0
    · have hg : s.gateArrival n = s.setGate
        { s.gate with
          activity := some ⟨n.serial, .done, .done, none, none⟩
          punchTimer := none
          diverterTimer := none
          windowTimer := none } := by unfold State.gateArrival; rw [if_pos (hall.2 ha)]
      rw [hg]
      refine ⟨id, rfl, rfl, idw, keep, fun h => (by cases h), fun m hm => ?_⟩
      cases hm
      exact ⟨fun _ => ⟨rfl, rfl⟩, fun ⟨l, hl⟩ => absurd (ha l) hl⟩
    · have hne : ¬ (n.packs.toList.all Pack.isEmpty = true) := fun h => ha (hall.1 h)
      obtain ⟨a0, ha0⟩ : ∃ a0 : Gate, a0 = { s.gate with
        activity := some ⟨n.serial, .delay, .delay, none, none⟩
        punchTimer := some (s.now + s.gate.config.punchDelay)
        diverterTimer := some (s.now + s.gate.config.diverterDelay)
        windowTimer := none } := ⟨_, rfl⟩
      obtain ⟨g1, hg1⟩ : ∃ g1 : Gate, g1 = if s.gate.config.punchDelay = 0 then a0.strike s.now else a0 := ⟨_, rfl⟩
      have hg : s.gateArrival n = if s.gate.config.diverterDelay = 0 then (s.setGate g1).divert else s.setGate g1 := by
        unfold State.gateArrival
        rw [if_neg hne]
        rw [hg1, ha0]
        by_cases hp : s.gate.config.punchDelay = 0
        · simp only [hp, if_true]; rfl
        · simp only [hp, if_false]
      have g1c : g1.config = c := by rw [hg1, ha0]; split <;> rfl
      obtain ⟨a1, hact, hser, hdiv, hdd, hcf, hp1, hp2⟩ : ∃ a1, g1.activity = some a1 ∧ a1.serial = n.serial ∧
          a1.diverter = .delay ∧ a1.diverted = none ∧ a1.confirm = none ∧
         (c.punchDelay ≠ 0 → a1.punch = .delay ∧ g1.punchTimer = some (s.now + c.punchDelay) ∧ g1.punchOut =
             s.gate.punchOut) ∧
         (c.punchDelay = 0 → a1.punch = .asserted ∧ g1.punchTimer = some (s.now + c.punchWidth) ∧ g1.punchOut = true) := by
        rw [hg1, ha0]
        by_cases hp : s.gate.config.punchDelay = 0
        · rw [if_pos hp]
          exact ⟨_, rfl, rfl, rfl, rfl, rfl, fun h => absurd hp h, fun _ => ⟨rfl, rfl, rfl⟩⟩
        · rw [if_neg hp]
          exact ⟨_, rfl, rfl, rfl, rfl, rfl, fun _ => ⟨rfl, rfl, rfl⟩, fun h => absurd h hp⟩
      have g1d : g1.diverterTimer = some (s.now + c.diverterDelay) ∧ g1.windowTimer = none ∧ g1.diverterOut =
          s.gate.diverterOut := by
        rw [hg1, ha0]; split <;> exact ⟨rfl, rfl, rfl⟩
      rw [hg]
      by_cases hd : s.gate.config.diverterDelay = 0
      · rw [if_pos hd]
        obtain ⟨w, hw⟩ : ∃ w : Nest → Nest, w = Nest.decide s.track.config.verdictRequired := ⟨_, rfl⟩
        have hfind : (s.track.updateNest n.serial w).find n.serial = some (pos, w n) := by
          rw [Track.find_updateNest _ _ _ _ (fun m => by rw [hw]; rfl), Track.find_of_nestAt di e]; simp
        have hdv : (s.setGate g1).divert =
            ((s.setGate g1).setTrack (s.track.updateNest n.serial w)).setGate (g1.pulse s.now (w n).divertedLanes) := by
          unfold State.divert
          simp only [State.setGate_gate, hact]
          simp only [hser, State.setGate_track, ← hw, hfind, State.setGate_now]
        have hdec : n.decidedAs s.track.config.verdictRequired (w n).divertedLanes (w n) := by
          rw [hw]; exact Nest.decide_decidedAs _ _
        rw [hdv]
        generalize (w n).divertedLanes = lanes at hdec
        refine ⟨w, by apply State.ext <;> simp, by simp only [State.setGate_track, State.setTrack_track]; rfl,
            fun p => by rw [State.setGate_track,
            State.setTrack_track]; exact Track.nestAt_updateNest_at di e w p, ?_, fun h => (by cases h), fun m hm => ?_⟩
        · intro m; rw [hw]; refine ⟨rfl, fun lane => ?_⟩
          have : ((Nest.decide s.track.config.verdictRequired m).packs.get lane) =
              (m.packs.get lane).decide s.track.config.verdictRequired := by simp [Nest.decide]
          rw [this]; exact Pack.decide_kept _ _
        · cases hm
          refine ⟨fun h => absurd h ha, fun _ => ⟨{ a1 with
            diverter := if lanes = 0 then .window else .pulse
            diverted := some lanes
            confirm := some 0 }, ?_, hser, g1c, hp1, hp2, fun h => absurd hd h, fun _ => ⟨lanes, hdec, rfl, rfl, rfl, rfl,
                ?_, ?_⟩⟩⟩
          · simp only [State.setGate_gate, Gate.pulse, Gate.update, hact, Option.map_some]
          · simp only [State.setGate_gate, Gate.pulse, Gate.update, g1c]
          · simp only [State.setGate_gate, Gate.pulse, Gate.update, g1c]
      · rw [if_neg hd]
        refine ⟨id, rfl, rfl, idw, keep, fun h => (by cases h), fun m hm => ?_⟩
        cases hm
        exact ⟨fun h => absurd h ha, fun _ => ⟨a1, hact, hser, g1c, hp1, hp2, fun _ => ⟨rfl, hdiv, hdd, hcf, g1d.1,
            g1d.2.1, g1d.2.2⟩, fun h => absurd h hd⟩⟩

/-! ### The whole shift (R9 to R13) -/

theorem Byte.or_ne_zero {x y : Byte} (h : x ≠ 0) : x ||| y ≠ 0 := fun e => h (BitVec.or_eq_zero_iff.1 e).1

/-- The shift up to its arrivals: discharge, movement and entry. -/
def State.entered (s : State) : State :=
  let s1 := s.withNestAt (s.track.config.length - 1) State.discharge
  (s1.setTrack s1.track.move).entry

theorem State.shift_eq : s.shift = s.entered.arrivals := rfl

theorem State.entered_kept :
    let u := s.entered
    u.now = s.now ∧ u.link = s.link ∧ u.library = s.library ∧ u.heads = s.heads ∧ u.statuses = s.statuses ∧
    u.gate = s.gate ∧ u.store = s.store ∧ u.lines = s.lines ∧ u.draws = s.draws ∧ u.pending = s.pending := by
  intro u
  have he : ∀ v : State, v.entry.now = v.now ∧ v.entry.link = v.link ∧ v.entry.library = v.library ∧ v.entry.heads =
      v.heads ∧
    v.entry.statuses = v.statuses ∧ v.entry.gate = v.gate ∧ v.entry.store = v.store ∧ v.entry.lines = v.lines ∧
    v.entry.draws = v.draws ∧ v.entry.pending = v.pending := by
    intro v
    unfold State.entry
    split
    · simp only [State.crossManifest]; split <;> exact ⟨rfl, rfl, rfl, rfl, rfl, rfl, rfl, rfl, rfl, rfl⟩
    · dsimp only; split <;> simp
  obtain ⟨e1, e2, e3, e4, e5, e6, e7, e8, e9, e10⟩ := he ((s.withNestAt (s.track.config.length - 1) State.discharge).setTrack
    (s.withNestAt (s.track.config.length - 1) State.discharge).track.move)
  have hd : ∀ f, (f = s.withNestAt (s.track.config.length - 1) State.discharge) →
    f.now = s.now ∧ f.link = s.link ∧ f.library = s.library ∧ f.heads = s.heads ∧ f.statuses = s.statuses ∧
    f.gate = s.gate ∧ f.store = s.store ∧ f.lines = s.lines ∧ f.draws = s.draws ∧ f.pending = s.pending := by
    intro f hf
    unfold State.withNestAt at hf
    split at hf
    · rw [hf, State.discharge_eq]; simp
    · rw [hf]; simp
  obtain ⟨d1, d2, d3, d4, d5, d6, d7, d8, d9, d10⟩ := hd _ rfl
  exact ⟨e1.trans d1, e2.trans d2, e3.trans d3, e4.trans d4, e5.trans d5, e6.trans d6, e7.trans d7, e8.trans d8,
    e9.trans d9, e10.trans d10⟩

/-- The track, the causes and the track status when the new nest has entered (R10 to R12, R19, R32, R41, R43). -/
theorem State.entered_eq (hl : 1 ≤ s.track.config.length) :
    let u := s.entered
    let last := s.track.nestAt (s.track.config.length - 1)
    let queued := s.track.outcomes.length
    { u.track with slots := s.track.slots, serial := s.track.serial, indexCount := s.track.indexCount,
                   manifests := s.track.manifests, outcomes := s.track.outcomes, lost := s.track.lost } = s.track ∧
    u.track.serial = nextSerial s.track.serial ∧ u.track.indexCount = (s.track.indexCount + 1) % 4294967296 ∧
    u.track.manifests = s.track.manifests.tail ∧
    (last = none → u.track.outcomes = s.track.outcomes ∧ u.track.lost = s.track.lost) ∧
    (∀ n, last = some n → u.track.outcomes = (s.track.report n).outcomes ∧ u.track.lost = (s.track.report n).lost) ∧
    u.causes = (s.causes ||| (if last ≠ none ∧ queued = 11 then 0x80 else 0) |||
      (if s.track.manifests = [] ∧ s.track.config.manifestRequired = true then 0x20 else 0)) ∧
    s.trackStatus.gains u.trackStatus ∧
    u.trackStatus.changed =
      s.trackStatus.changed ||| (if s.track.manifests = [] then 0x02 else 0) |||
        (if s.causes = 0 ∧ u.causes ≠ 0 then 0x10 else 0) |||
        (if u.track.manifestLow = s.track.manifestLow then 0 else 0x20) ∧
    ∀ p, u.track.nestAt p = s.track.afterMove p := by
  intro u last queued
  obtain ⟨s1, hs1⟩ : ∃ s1, s1 = s.withNestAt (s.track.config.length - 1) State.discharge := ⟨_, rfl⟩
  have hu : u = (s1.setTrack s1.track.move).entry := by rw [hs1]; rfl
  have k1 : { s1.track with outcomes := s.track.outcomes, lost := s.track.lost } = s.track ∧
    (last = none → s1.track.outcomes = s.track.outcomes ∧ s1.track.lost = s.track.lost) ∧
    (∀ n, last = some n → s1.track.outcomes = (s.track.report n).outcomes ∧ s1.track.lost = (s.track.report n).lost) ∧
    s1.causes = (s.causes ||| if last ≠ none ∧ queued = 11 then 0x80 else 0) ∧
    s.trackStatus.gains s1.trackStatus ∧
    s1.trackStatus.changed = s.trackStatus.changed ||| (if s.causes = 0 ∧ s1.causes ≠ 0 then 0x10 else 0) := by
    rcases e : last with _ | n
    · have : s1 = s := by rw [hs1]; simp only [State.withNestAt]; rw [show s.track.nestAt (s.track.config.length - 1) =
          none from e]
      rw [this]
      refine ⟨rfl, fun _ => ⟨rfl, rfl⟩, fun n h => (by cases h), by simp, TrackStatus.gains_refl _, ?_⟩
      rw [if_neg (fun h => h.2 h.1)]; simp
    · have hd : s1 = s.discharge n :=
          by rw [hs1]; simp only [State.withNestAt]; rw [show s.track.nestAt (s.track.config.length - 1) = some n from e]
      have tr : s1.track = s.track.report n := by rw [hd, s.discharge_eq]; simp
      have cs : s1.causes = (s.causes ||| if queued = 11 then 0x80 else 0) := by
        rw [hd, s.discharge_eq, State.changeCauses_causes]; split <;> simp_all [queued]
      refine ⟨by rw [tr]; exact s.track.report_kept n, fun h => (by cases h), fun m h => ?_, ?_, ?_, ?_⟩
      · cases h; rw [tr]; exact ⟨rfl, rfl⟩
      · rw [cs]; simp
      · rw [hd, s.discharge_eq]; exact (State.changeCauses_status _).1
      · rw [cs, hd, s.discharge_eq, State.changeCauses_changed]
        simp only [State.setTrack_trackStatus, State.setTrack_causes]
        have nz : s.causes ||| 0x80 ≠ 0 := by
          intro h0
          have := congrArg (fun x : Byte => x.getLsbD 7) h0
          simp at this
        by_cases hq : queued = 11
        · have hq' : s.track.outcomes.length = 11 := hq
          simp only [hq, hq', if_true]
          by_cases h0 : s.causes = 0
          · simp [h0]
          · have : ¬ s.causes ||| 128#8 = 0#8 := nz
            simp [h0, this]
        · have hq' : ¬ s.track.outcomes.length = 11 := hq
          simp [hq, hq']
  obtain ⟨a1, a2, a3, a4, a5, a6⟩ := k1
  obtain ⟨v, hv⟩ : ∃ v, v = s1.setTrack s1.track.move := ⟨_, rfl⟩
  have v1 : v.track = s1.track.move := by rw [hv]; rfl
  have v2 : v.causes = s1.causes := by rw [hv]; rfl
  have v3 : v.trackStatus = s1.trackStatus := by rw [hv]; rfl
  have et := v.entry_track
  have ec := v.entry_causes
  have es := v.entry_status
  rw [← hv] at hu
  rw [← hu, v1] at et ec es
  rw [v2] at ec es
  rw [v3] at es
  have f1 : s1.track.move.manifests = s.track.manifests := by rw [← a1]; rfl
  have f2 : s1.track.move.serial = s.track.serial := by rw [← a1]; rfl
  have f3 : s1.track.move.indexCount = (s.track.indexCount + 1) % 4294967296 := by rw [← a1]; rfl
  have f4 : s1.track.move.config = s.track.config := by rw [← a1]; rfl
  have f5 : s1.track.move.slots = s.track.move.slots := by rw [← a1]; rfl
  have f6 : s1.track.move.manifestLow = s.track.manifestLow := by rw [← a1]; rfl
  rw [f1, f4] at ec
  have ucs : u.causes = (s.causes ||| (if last ≠ none ∧ queued = 11 then 0x80 else 0) |||
      (if s.track.manifests = [] ∧ s.track.config.manifestRequired = true then 0x20 else 0)) := by
    rw [ec, a4]; split <;> simp
  refine ⟨?_, by rw [et]; exact congrArg nextSerial f2, by rw [et]; exact f3, by rw [et]; exact congrArg List.tail f1, ?_,
      ?_, ucs, TrackStatus.gains_trans a5 es.1, ?_, ?_⟩
  · rw [et]; conv_rhs => rw [← a1]
    simp only [Track.move]
    conv_lhs => rw [← a1]
  · intro h; rw [et]; exact a2 h
  · intro n h; rw [et]; exact a3 n h
  · rw [es.2, a6, f1, f6]
    have mono : s.causes ≠ 0 → s1.causes ≠ 0 := fun h => by rw [a4]; exact Byte.or_ne_zero h
    have mono2 : s1.causes ≠ 0 → u.causes ≠ 0 := fun h => by
      rw [ec]; split
      · exact Byte.or_ne_zero h
      · exact h
    generalize s.trackStatus.changed = x
    generalize (if s.track.manifests = [] then (0x02 : Byte) else 0) = y
    generalize (if u.track.manifestLow = s.track.manifestLow then (0 : Byte) else 0x20) = z
    by_cases h0 : s.causes = 0
    · by_cases h1 : s1.causes = 0
      · simp [h0, h1]
      · have h2 := mono2 h1
        simp only [h0, h1, h2, true_and, not_false_eq_true, if_true, false_and, if_false, ne_eq]
        apply BitVec.eq_of_getLsbD_eq
        intro i hi
        simp only [BitVec.getLsbD_or, BitVec.getLsbD_zero]
        cases x.getLsbD i <;> cases y.getLsbD i <;> cases z.getLsbD i <;> simp
    · have h1 := mono h0
      simp only [h0, h1, false_and, if_false]
      simp
  · intro p
    have := Track.nestAt_moved s.track hl (Nest.entering s.track.serial ((s.track.indexCount + 1) % 4294967296) s.track.manifests.isEmpty
          (s.track.manifests.head?.getD (Lanes.fill 0))) p
    have e2 : u.track.nestAt p =
        ({ s.track.move with slots := s.track.move.slots.set 0 (some (Nest.entering s.track.serial ((s.track.indexCount + 1) % 4294967296) s.track.manifests.isEmpty
          (s.track.manifests.head?.getD (Lanes.fill 0)))) } : Track).nestAt p := by
      rw [et]; simp only [Track.nestAt, f1, f2, f3, f5]
    rw [e2, this]
    unfold Track.afterMove
    rcases p with _ | q
    · simp only
      congr 1
      simp only [Nest.entering, Track.entrant]
      rcases s.track.manifests with _ | ⟨m, rest⟩ <;> rfl
    · rfl

theorem Library.dueAt_iff (l : Library) (st : Station) (p : Pack) :
    l.dueAt st p = true ↔ l.cycleDue st p ≠ none := by
  unfold Library.dueAt Library.cycleDue
  by_cases h : p.format = 0
  · simp [Pack.isEmpty, h]
  · rcases l.format p.format with _ | f
    · simp [h]
    · cases st <;> simp [h, Pack.isEmpty, Format.forStation, Option.isSome_iff_ne_none]

theorem Track.entered_distinct (hv : s.track.config.valid = true) (hn : s.track.numbered) : s.entered.track.distinct := by
  have hl : 4 ≤ s.track.config.length ∧ s.track.config.length ≤ 24 := by
    simp only [TrackConfig.valid, within, Bool.and_eq_true, decide_eq_true_eq] at hv; omega
  obtain ⟨-, -, -, -, -, -, -, -, -, hp⟩ := s.entered_eq (by omega)
  intro p q n m a b e
  rw [hp] at a b
  exact Track.afterMove_inj hl.2 hn a b e

/-- What the arrival of the nest `n` at the gate makes of the gate and of the nest, `m` (R137). -/
def State.gateEntered (s : State) (n m : Nest) (g : Gate) : Prop :=
  let c := s.gate.config
  ((∀ lane, (n.packs.get lane).format = 0) →
          m = n ∧
          g = { s.gate with
            activity := some ⟨n.serial, .done, .done, none, none⟩
            punchTimer := none, diverterTimer := none, windowTimer := none }) ∧
        ((∃ lane, (n.packs.get lane).format ≠ 0) →
          ∃ a, g.activity = some a ∧ a.serial = n.serial ∧ g.config = c ∧
            (c.punchDelay ≠ 0 → a.punch = .delay ∧ g.punchTimer = some (s.now + c.punchDelay) ∧ g.punchOut =
                s.gate.punchOut) ∧
            (c.punchDelay = 0 → a.punch = .asserted ∧ g.punchTimer = some (s.now + c.punchWidth) ∧ g.punchOut = true) ∧
            (c.diverterDelay ≠ 0 → m = n ∧ a.diverter = .delay ∧ a.diverted = none ∧ a.confirm = none ∧
              g.diverterTimer = some (s.now + c.diverterDelay) ∧ g.windowTimer = none ∧ g.diverterOut = s.gate.diverterOut) ∧
            (c.diverterDelay = 0 → ∃ lanes, n.decidedAs s.track.config.verdictRequired lanes m ∧
              a.diverter = (if lanes = 0 then .window else .pulse) ∧ a.diverted = some lanes ∧ a.confirm = some 0 ∧
              g.diverterOut = lanes ∧ g.diverterTimer = (if lanes = 0 then none else some (s.now + c.diverterWidth)) ∧
              g.windowTimer = some (s.now + c.diverterWidth + c.confirmGrace)))

/-- The arrivals, one after the other: what each does, in terms of the state when the new nest has entered. -/
theorem State.arrivals_eq {u : State} {f : Option Nat} {sp l : Nat} (hf : u.track.config.form = f)
    (hs : u.track.config.sealPos = sp)
    (hl : u.track.config.length = l) (h1 : ∀ x, f = some x → x < sp) (h2 : sp + 2 ≤ l) (di : u.track.distinct) :
    ∃ (w1 w2 : Fin 8 → Pack → Pack) (w3 : Nest → Nest),
      { u.arrivals.track with slots := u.track.slots } = u.track ∧
      (∀ p, u.arrivals.track.nestAt p = (u.track.nestAt p).map fun m =>
        if f = some p then m.mapPacks w1 else if p = sp then m.mapPacks w2 else if p = l - 1 then w3 m else m) ∧
      (∀ lane p, (w1 lane p).format = p.format ∧ (w1 lane p).verdict = p.verdict) ∧
      (∀ lane p, (w2 lane p).format = p.format ∧ (w2 lane p).verdict = p.verdict) ∧
      (∀ n, { w3 n with packs := n.packs } = n ∧ ∀ lane, ((w3 n).packs.get lane).format = (n.packs.get lane).format ∧
        ((w3 n).packs.get lane).verdict = (n.packs.get lane).verdict) ∧
      u.arrivals.causes = u.causes ∧ u.arrivals.trackStatus = u.trackStatus ∧
      (u.arrivals.now = u.now ∧ u.arrivals.link = u.link ∧ u.arrivals.library = u.library ∧ u.arrivals.store = u.store ∧
        u.arrivals.lines = u.lines ∧ u.arrivals.draws = u.draws ∧ u.arrivals.pending = u.pending) ∧
      (∀ n h lane x, f = some x → u.track.nestAt x = some n → (u.head h).params.binding = some (.form, lane) →
        let c := (u.ctx h).select u.library ⟨n.serial, lane, .form⟩ (n.packs.get lane)
        u.arrivals.head h = c.head ∧ u.arrivals.status h = c.status ∧ (u.bindingsDistinct → w1 lane = effectsOn c.out)) ∧
      (∀ n h lane, u.track.nestAt sp = some n → (u.head h).params.binding = some (.sealing, lane) →
        let c := (u.ctx h).select u.library ⟨n.serial, lane, .sealing⟩ (n.packs.get lane)
        u.arrivals.head h = c.head ∧ u.arrivals.status h = c.status ∧ (u.bindingsDistinct → w2 lane = effectsOn c.out)) ∧
      (∀ h, ((∀ x, f = some x → u.track.nestAt x = none) ∨ ∀ lane, (u.head h).params.binding ≠ some (.form, lane)) →
        (u.track.nestAt sp = none ∨ ∀ lane, (u.head h).params.binding ≠ some (.sealing, lane)) →
        u.arrivals.head h = u.head h ∧ u.arrivals.status h = u.status h) ∧
      (∀ n lane x, f = some x → u.track.nestAt x = some n → (∀ h, (u.head h).params.binding ≠ some (.form, lane)) →
        w1 lane = fun p => if u.library.dueAt .form p then p.addReasons RejectReason.noHead.set else p) ∧
      (∀ n lane, u.track.nestAt sp = some n → (∀ h, (u.head h).params.binding ≠ some (.sealing, lane)) →
        w2 lane = fun p => if u.library.dueAt .sealing p then p.addReasons RejectReason.noHead.set else p) ∧
      (u.track.nestAt (l - 1) = none → u.arrivals.gate = u.gate) ∧
      ∀ n, u.track.nestAt (l - 1) = some n →
        u.gateEntered n (w3 n) u.arrivals.gate := by
  obtain ⟨v1, hv1⟩ : ∃ v1, v1 = u.formArrival := ⟨_, rfl⟩
  have k1 : ∃ w : Fin 8 → Pack → Pack,
      { v1.track with slots := u.track.slots } = u.track ∧
      (∀ p, v1.track.nestAt p = (u.track.nestAt p).map fun m => if f = some p then m.mapPacks w else m) ∧
      (∀ lane p, (w lane p).format = p.format ∧ (w lane p).verdict = p.verdict) ∧
      v1.causes = u.causes ∧ v1.trackStatus = u.trackStatus ∧
      (v1.now = u.now ∧ v1.link = u.link ∧ v1.library = u.library ∧ v1.gate = u.gate ∧ v1.store = u.store ∧ v1.lines =
          u.lines ∧
        v1.draws = u.draws ∧ v1.pending = u.pending) ∧
      (∀ n h lane x, f = some x → u.track.nestAt x = some n → (u.head h).params.binding = some (.form, lane) →
        let c := (u.ctx h).select u.library ⟨n.serial, lane, .form⟩ (n.packs.get lane)
        v1.head h = c.head ∧ v1.status h = c.status ∧ (u.bindingsDistinct → w lane = effectsOn c.out)) ∧
      (∀ h, ((∀ x, f = some x → u.track.nestAt x = none) ∨ ∀ lane, (u.head h).params.binding ≠ some (.form, lane)) →
        v1.head h = u.head h ∧ v1.status h = u.status h) ∧
      (∀ n lane x, f = some x → u.track.nestAt x = some n → (∀ h, (u.head h).params.binding ≠ some (.form, lane)) →
        w lane = fun p => if u.library.dueAt .form p then p.addReasons RejectReason.noHead.set else p) ∧
      ∀ h, (v1.head h).params = (u.head h).params := by
    rcases e : f with _ | x
    · have : v1 = u := by rw [hv1, State.formArrival, hf, e]
      rw [this]
      refine ⟨fun _ p => p, rfl, ?_, fun _ _ => ⟨rfl, rfl⟩, rfl, rfl, ⟨rfl, rfl, rfl, rfl, rfl, rfl, rfl, rfl⟩, ?_,
          fun _ _ => ⟨rfl, rfl⟩, ?_, fun _ => rfl⟩
      · intro p; simp
      · intro n h lane x hx; cases hx
      · intro n lane x hx; cases hx
    · have : v1 = u.withNestAt x (State.stationArrival .form) := by rw [hv1, State.formArrival, hf, e]
      obtain ⟨w, a1, a2, a3, a4, a5, a6, a7, a8, a9, a10⟩ := State.stationArrival_at (s := u) .form x di
      rw [← this] at a1 a2 a4 a5 a6 a7 a8 a10
      refine ⟨w, a1, ?_, a3, a4, a5, a6, ?_, ?_, ?_, a10⟩
      · intro p; rw [a2 p]; congr 1; funext m
        by_cases hp : p = x
        · subst hp; simp
        · have : ¬ some x = some p := fun h => hp (Option.some.inj h).symm
          simp [hp, this]
      · intro n h lane y hy; cases hy; exact a7 n h lane
      · intro h ho; exact a8 h (ho.imp (fun g => g x rfl) id)
      · intro n lane y hy; cases hy; exact a9 n lane
  obtain ⟨w1, a1, a2, a3, a4, a5, a6, a7, a8, a9, a10⟩ := k1
  have c1 : v1.track.config = u.track.config := by have := congrArg Track.config a1; exact this
  have d1 : v1.track.distinct := Track.distinct_of_map di (fun p m => if f = some p then m.mapPacks w1 else m)
    (fun p n => by split <;> rfl) a2
  obtain ⟨v2, hv2⟩ : ∃ v2, v2 = v1.withNestAt sp (State.stationArrival .sealing) := ⟨_, rfl⟩
  obtain ⟨w2, b1, b2, b3, b4, b5, b6, b7, b8, b9, b10⟩ := State.stationArrival_at (s := v1) .sealing sp d1
  rw [← hv2] at b1 b2 b4 b5 b6 b7 b8 b10
  have c2 : v2.track.config = v1.track.config := by have := congrArg Track.config b1; exact this
  have d2 : v2.track.distinct := Track.distinct_of_map d1 (fun p m => if p = sp then m.mapPacks w2 else m)
    (fun p n => by split <;> rfl) b2
  have ht : u.arrivals = v2.withNestAt (l - 1) State.gateArrival := by
    unfold State.arrivals
    dsimp only
    rw [← hv1, c1, hs, ← hv2, c2, c1, hl]
  obtain ⟨w3, g1, g2, g3, g4, g5, g6⟩ := State.gateArrival_at (s := v2) (l - 1) d2
  rw [← ht] at g1 g2 g3 g5 g6
  have gh : ∀ h, u.arrivals.head h = v2.head h := fun h => (by rw [← g1]; rfl)
  have gs : ∀ h, u.arrivals.status h = v2.status h := fun h => (by rw [← g1]; rfl)
  have hseal : v1.track.nestAt sp = u.track.nestAt sp := by
    rw [a2]
    have : f ≠ some sp := fun e => by have := h1 sp e; omega
    rcases u.track.nestAt sp with _ | m <;> simp [this]
  have hgate : v2.track.nestAt (l - 1) = u.track.nestAt (l - 1) := by
    rw [b2, a2]
    have e1 : f ≠ some (l - 1) := fun e => by have := h1 _ e; omega
    have e2 : l - 1 ≠ sp := by omega
    rcases u.track.nestAt (l - 1) with _ | m <;> simp [e1, e2]
  have bd1 : u.bindingsDistinct → v1.bindingsDistinct :=
      fun bd h h' x y => bd h h' (by rw [← a10]; exact x) (by rw [← a10, ← a10]; exact y)
  refine ⟨w1, w2, w3, ?_, ?_, a3, b3, g4, ?_, ?_, ?_, ?_, ?_, ?_, ?_, ?_, ?_, ?_⟩
  · conv_rhs => rw [← a1, ← b1, ← g2]
  · intro p
    rw [g3, b2, a2, Option.map_map, Option.map_map]
    congr 1
    funext m
    simp only [Function.comp]
    by_cases hp : f = some p
    · have := h1 p hp
      have e1 : p ≠ sp := by omega
      have e2 : p ≠ l - 1 := by omega
      simp [hp, e1, e2]
    · by_cases hq : p = sp
      · subst hq
        have e2 : p ≠ l - 1 := by omega
        simp [hp, e2]
      · simp [hp, hq]
  · rw [show u.arrivals.causes = v2.causes by rw [← g1], b4, a4]
  · rw [show u.arrivals.trackStatus = v2.trackStatus by rw [← g1], b5, a5]
  · obtain ⟨x1, x2, x3, -, x4, x5, x6, x7⟩ := a6
    obtain ⟨y1, y2, y3, -, y4, y5, y6, y7⟩ := b6
    rw [← x1, ← x2, ← x3, ← x4, ← x5, ← x6, ← x7, ← y1, ← y2, ← y3, ← y4, ← y5, ← y6, ← y7, ← g1]
    exact ⟨rfl, rfl, rfl, rfl, rfl, rfl, rfl⟩
  · intro n h lane x hx hn hb
    obtain ⟨p1, p2, p3⟩ := a7 n h lane x hx hn hb
    obtain ⟨q1, q2⟩ := b8 h (.inr fun l e => by rw [a10, hb] at e; cases e)
    refine ⟨?_, ?_, p3⟩
    · rw [gh, q1, p1]
    · rw [gs, q2, p2]
  · intro n h lane hn hb
    obtain ⟨q1, q2⟩ := a8 h (.inr fun l e => by rw [hb] at e; cases e)
    have ec : v1.ctx h = u.ctx h := State.ctx_eq a6.1 a6.2.2.2.2.2.1 q1 q2
    obtain ⟨p1, p2, p3⟩ := b7 n h lane (by rw [hseal]; exact hn) (by rw [a10]; exact hb)
    rw [ec, a6.2.2.1] at p1 p2 p3
    exact ⟨by rw [gh, p1], by rw [gs, p2], fun bd => p3 (bd1 bd)⟩
  · intro h o1 o2
    obtain ⟨q1, q2⟩ := a8 h o1
    obtain ⟨r1, r2⟩ := b8 h (by rw [hseal, a10]; exact o2)
    exact ⟨by rw [gh, r1, q1], by rw [gs, r2, q2]⟩
  · exact a9
  · intro n lane hn hb
    have := b9 n lane (by rw [hseal]; exact hn) (fun h => by rw [a10]; exact hb h)
    rw [a6.2.2.1] at this; exact this
  · intro hn
    rw [g5 (by rw [hgate]; exact hn), b6.2.2.2.1, a6.2.2.2.1]
  · intro n hn
    have := g6 n (by rw [hgate]; exact hn)
    rw [show v2.gate = u.gate from b6.2.2.2.1.trans a6.2.2.2.1, show v2.now = u.now from b6.1.trans a6.1,
      show v2.track.config = u.track.config from c2.trans c1] at this
    exact this

/-- A shift does to track, queue, causes and track status what R9 to R12 say, and its arrivals what R13 says. -/
theorem State.shift_spec (hv : s.track.config.valid = true) (hn : s.track.numbered) :
    s.shifted s.shift ∧
    { s.shift.track with
      slots := s.track.slots, serial := s.track.serial, indexCount := s.track.indexCount, manifests := s.track.manifests
      outcomes := s.track.outcomes, lost := s.track.lost } = s.track ∧
    (s.shift.now = s.now ∧ s.shift.link = s.link ∧ s.shift.library = s.library ∧ s.shift.store = s.store ∧
        s.shift.lines = s.lines ∧
      s.shift.draws = s.draws ∧ s.shift.pending = s.pending) ∧
    (s.bindingsDistinct → s.stationsReached s.shift ∧ s.gateReached s.shift) := by
  have hc := hv
  simp only [TrackConfig.valid, within, Bool.and_eq_true, decide_eq_true_eq] at hc
  obtain ⟨⟨⟨⟨⟨l1, l2⟩, cf⟩, cs1, cs2⟩, -⟩, -⟩ := hc
  have di := Track.entered_distinct hv hn
  obtain ⟨a1, a2, a3, a4, a5, a6, a7, a8, a9, a10⟩ := s.entered_eq (by omega)
  obtain ⟨k1, k2, k3, k4, k5, k6, k7, k8, k9, k10⟩ := s.entered_kept
  have hs : s.shift = s.entered.arrivals := rfl
  rw [hs]
  generalize s.entered = u at *
  have uc : u.track.config = s.track.config := by have := congrArg Track.config a1; exact this
  obtain ⟨w1, w2, w3, b1, b2, b3, b4, b5, b6, b7, b8, b9, b10, b11, b12, b13, b14, b15⟩ :=
    State.arrivals_eq (u := u) (f := s.track.config.form) (sp := s.track.config.sealPos) (l := s.track.config.length)
      (by rw [uc]) (by rw [uc]) (by rw [uc])
      (fun x hx => by rw [hx] at cf; simp only [Bool.and_eq_true, decide_eq_true_eq] at cf; exact cf.2) cs2 di
  have lt : ∀ x, s.track.config.form = some x → x < s.track.config.sealPos := fun x hx => by
    rw [hx] at cf; simp only [Bool.and_eq_true, decide_eq_true_eq] at cf; exact cf.2
  have hhead : ∀ h, u.head h = s.head h := fun h => by simp only [State.head, k4]
  have hstat : ∀ h, u.status h = s.status h := fun h => by simp only [State.status, k5]
  have hctx : ∀ h, u.ctx h = s.ctx h := fun h => State.ctx_eq k1 k8 (hhead h) (hstat h)
  generalize u.arrivals = t at *
  have ser := congrArg Track.serial b1
  have icnt := congrArg Track.indexCount b1
  have outc := congrArg Track.outcomes b1
  have lst := congrArg Track.lost b1
  have man := congrArg Track.manifests b1
  have cfg := congrArg Track.config b1
  dsimp only at ser icnt outc lst man cfg
  have low : t.track.manifestLow = u.track.manifestLow := by simp only [Track.manifestLow, cfg, man]
  refine ⟨⟨?_, ?_, ?_, ?_, ?_, ?_, ?_, ?_, ?_, ?_, ?_⟩, ?_, ?_, fun bd => ⟨⟨?_, ?_⟩, ?_, ?_⟩⟩
  · rw [cfg, uc]
  · rw [icnt, a3]
  · rw [ser, a2]; rfl
  · rw [man, a4]
  · intro h; rw [outc, lst]; exact a5 h
  · intro n h
    rw [outc, lst, (a6 n h).1, (a6 n h).2]
    refine ⟨fun q => ?_, fun q => ?_⟩
    · rw [Track.report_room n q]; exact ⟨rfl, rfl⟩
    · rw [Track.report_full n q]; exact ⟨rfl, rfl⟩
  · rw [b6, a7]
  · rw [b7, a8.1]
  · rw [b7, a9, b6, ← low]; rfl
  · exact State.noticeFollows_of (by rw [b7]; exact a8)
  · intro p
    rw [← a10 p]
    refine ⟨fun h => by rw [b2, h]; rfl, fun n h => ⟨_, by rw [b2, h]; rfl, ?_⟩⟩
    dsimp only
    by_cases h1 : s.track.config.form = some p
    · rw [if_pos h1]
      exact ⟨rfl, fun lane => by rw [Nest.mapPacks_get]; exact b3 lane _, fun x => absurd h1 x⟩
    · rw [if_neg h1]
      by_cases h2 : p = s.track.config.sealPos
      · rw [if_pos h2]
        exact ⟨rfl, fun lane => by rw [Nest.mapPacks_get]; exact b4 lane _, fun _ x => absurd h2.symm x⟩
      · rw [if_neg h2]
        by_cases h3 : p = s.track.config.length - 1
        · rw [if_pos h3]
          exact ⟨(b5 n).1, (b5 n).2, fun _ _ x => absurd (by omega) x⟩
        · rw [if_neg h3]
          exact ⟨rfl, fun _ => ⟨rfl, rfl⟩, fun _ _ _ => rfl⟩
  · conv_rhs => rw [← a1]
    conv_rhs => rw [← b1]
  · exact ⟨b8.1.trans k1, b8.2.1.trans k2, b8.2.2.1.trans k3, b8.2.2.2.1.trans k7, b8.2.2.2.2.1.trans k8,
      b8.2.2.2.2.2.1.trans k9, b8.2.2.2.2.2.2.trans k10⟩
  · intro h ho
    rw [← hhead h, ← hstat h]
    apply b11
    · rcases ho with ho | ⟨st, lane, ho, hp⟩
      · exact .inr fun l e => by rw [hhead, ho] at e; cases e
      · cases st
        · exact .inl fun x hx => by rw [a10]; exact hp x hx
        · exact .inr fun l e => by rw [hhead, ho] at e; cases e
    · rcases ho with ho | ⟨st, lane, ho, hp⟩
      · exact .inr fun l e => by rw [hhead, ho] at e; cases e
      · cases st
        · exact .inr fun l e => by rw [hhead, ho] at e; cases e
        · exact .inl (by rw [a10]; exact hp _ rfl)
  · have ubd : u.bindingsDistinct := fun h h' x y => bd h h' (by rw [← hhead]; exact x) (by rw [← hhead, ← hhead]; exact y)
    intro st pos n hpos hat
    rw [← a10] at hat
    have nohead : ∀ (p : Pack), (if u.library.dueAt st p then p.addReasons RejectReason.noHead.set else p) =
        if s.library.cycleDue st p = none then p else { p with reasons := p.reasons ||| 0x4 } := by
      intro p
      rw [k3]
      by_cases hd : s.library.cycleDue st p = none
      · have : ¬ s.library.dueAt st p = true := fun h => (Library.dueAt_iff _ _ _).1 h hd
        rw [if_pos hd, if_neg this]
      · rw [if_neg hd, if_pos ((Library.dueAt_iff _ _ _).2 hd)]
        have : p.format ≠ 0 := fun h0 => hd (by rw [Library.cycleDue, if_pos h0])
        rw [Pack.addReasons, if_neg this]; rfl
    cases st
    · have hpos' : s.track.config.form = some pos := hpos
      refine ⟨n.mapPacks w1, ?_, fun lane => ⟨fun h hb => ?_, fun hb => ?_⟩⟩
      · rw [b2, hat]; simp [hpos']
      · obtain ⟨p1, p2, p3⟩ := b9 n h lane pos hpos' hat (by rw [hhead]; exact hb)
        rw [hctx, k3] at p1 p2 p3
        refine HeadCtx.select_selects p1 p2 ?_
        rw [Nest.mapPacks_get, p3 ubd]
      · rw [Nest.mapPacks_get, b12 n lane pos hpos' hat (fun h => by rw [hhead]; exact hb h)]
        exact nohead _
    · have hpos' : s.track.config.sealPos = pos := Option.some.inj hpos
      subst hpos'
      refine ⟨n.mapPacks w2, ?_, fun lane => ⟨fun h hb => ?_, fun hb => ?_⟩⟩
      · rw [b2, hat]
        have : s.track.config.form ≠ some s.track.config.sealPos := fun e => by have := lt _ e; omega
        simp [this]
      · obtain ⟨p1, p2, p3⟩ := b10 n h lane hat (by rw [hhead]; exact hb)
        rw [hctx, k3] at p1 p2 p3
        refine HeadCtx.select_selects p1 p2 ?_
        rw [Nest.mapPacks_get, p3 ubd]
      · rw [Nest.mapPacks_get, b13 n lane hat (fun h => by rw [hhead]; exact hb h)]
        exact nohead _
  · intro h; rw [b14 (by rw [a10]; exact h), k6]
  · intro n h
    rw [← a10] at h
    have := b15 n h
    have eg : u.gateEntered n (w3 n) t.gate = s.gateEntered n (w3 n) t.gate := by
      simp only [State.gateEntered, k6, k1, uc]
    rw [eg] at this
    have at3 : t.track.nestAt (s.track.config.length - 1) = some (w3 n) := by
      rw [b2, h]
      have e1 : s.track.config.form ≠ some (s.track.config.length - 1) := fun e => by have := lt _ e; omega
      have e2 : s.track.config.length - 1 ≠ s.track.config.sealPos := by omega
      simp [e1, e2]
    refine ⟨fun ha => ?_, fun ha => ?_⟩
    · obtain ⟨x, y⟩ := this.1 ha
      rw [at3, x]; exact ⟨rfl, y⟩
    · obtain ⟨a, x1, x2, x3, x4, x5, x6, x7⟩ := this.2 ha
      exact ⟨a, w3 n, x1, x2, x3, at3, x4, x5, x6, x7⟩

end Sys2Proof.Machine
end

