-- ==== Sys2Proof/Laws/IndexStart.lean ====
section
/-! SUPPORT. What an INDEX-START does at the heads, as the one list of what they write, and at the gate. -/

namespace Sys2Proof.Machine

variable {s : State}

/-! ### The effects of all the heads, as one list (R15) -/

/-- What an effect does to the track. -/
def HeadEffect.onTrack (e : HeadEffect) (t : Track) : Track :=
  match e with
  | .result ref _ _ => t.updatePack ref.serial ref.lane e.onPack
  | .reasons serial lane _ => t.updatePack serial lane e.onPack
  | .cause _ => t

/-- Whether an effect writes the pack of a serial number and lane. -/
def HeadEffect.hits (serial : Nat) (lane : Fin 8) : HeadEffect → Bool
  | .result ref _ _ => ref.serial == serial && ref.lane == lane
  | .reasons n l _ => n == serial && l == lane
  | .cause _ => false

theorem HeadEffect.apply_track (e : HeadEffect) : (e.apply s).track = e.onTrack s.track := by
  cases e with
  | result ref r x => rfl
  | reasons n l x => rfl
  | cause c => simp [HeadEffect.apply, HeadEffect.onTrack]

theorem applyEffects_track (l : List HeadEffect) (s : State) :
    (applyEffects l s).track = l.foldl (fun t e => e.onTrack t) s.track := by
  induction l generalizing s with
  | nil => rfl
  | cons e l ih => rw [applyEffects, ih, e.apply_track]; rfl

/-- The track after the heads have acted in turn. -/
theorem State.actHeads_track (f : Fin 16 → HeadCtx → HeadCtx) (hs : List (Fin 16)) (nd : hs.Nodup) :
    (s.actHeads f hs).track = (hs.flatMap fun h => (f h (s.ctx h)).out).foldl (fun t e => e.onTrack t) s.track := by
  induction hs generalizing s with
  | nil => rfl
  | cons h rest ih =>
    obtain ⟨d1, d2⟩ := List.nodup_cons.1 nd
    have ec : ∀ h' ∈ rest, (s.actHead h (f h)).ctx h' = s.ctx h' := fun h' m => by
      have ne : h' ≠ h := fun e => d1 (e ▸ m)
      exact State.ctx_eq (by simp) (by simp) (s.actHead_of_ne _ ne).1 (s.actHead_of_ne _ ne).2
    rw [State.actHeads, ih d2, List.flatMap_cons, List.foldl_append]
    congr 1
    · rw [State.actHead_track, applyEffects_track]; rfl
    · exact List.flatMap_congr fun h' m => by rw [ec h' m]

/-- The causes after the heads have acted in turn, where none enters or leaves SAFE: those among the effects join (R18, R21). -/
theorem State.actHeads_joins (f : Fin 16 → HeadCtx → HeadCtx) (hs : List (Fin 16)) (nd : hs.Nodup)
    (calm : ∀ h ∈ hs, (f h (s.ctx h)).head.state = .safe ↔ (s.head h).state = .safe) :
    s.joins (effectsCauses (hs.flatMap fun h => (f h (s.ctx h)).out)) (s.actHeads f hs) := by
  induction hs generalizing s with
  | nil => exact s.joins_refl
  | cons h rest ih =>
    obtain ⟨d1, d2⟩ := List.nodup_cons.1 nd
    have ne : ∀ h' ∈ rest, h' ≠ h := fun h' m e => d1 (e ▸ m)
    have ec : ∀ h' ∈ rest, (s.actHead h (f h)).ctx h' = s.ctx h' := fun h' m =>
      State.ctx_eq (by simp) (by simp) (s.actHead_of_ne _ (ne h' m)).1 (s.actHead_of_ne _ (ne h' m)).2
    have one : s.joins (effectsCauses (f h (s.ctx h)).out) (s.actHead h (f h)) := by
      rw [s.actHead_calm h (f h) (calm h (by simp))]
      exact applyEffects_joins _ (s.withHead h (f h (s.ctx h)).head (f h (s.ctx h)).status)
    have more := ih (s := s.actHead h (f h)) d2 fun h' m => by
      rw [ec h' m, (s.actHead_of_ne _ (ne h' m)).1]
      exact calm h' (by simp [m])
    rw [State.actHeads, List.flatMap_cons, effectsCauses_append]
    refine State.joins_trans one ?_
    rwa [List.flatMap_congr fun h' m => by rw [ec h' m]] at more

theorem HeadEffect.onTrack_nestAt (e : HeadEffect) (t : Track) (p : Nat) :
    (e.onTrack t).nestAt p =
        (t.nestAt p).map fun n => n.mapPacks fun l q => if e.hits n.serial l then e.onPack q else q := by
  have idm : ∀ n : Nest, n.mapPacks (fun _ q => q) = n := fun n => by
    have : n.packs.mapIdx (fun _ p => p) = n.packs := Lanes.ext_get fun i => by simp
    simp only [Nest.mapPacks, this]
  have key : ∀ (k : Nat) (lane : Fin 8) (g : Pack → Pack) (n : Nest),
      (if n.serial = k then n.updatePack lane g else n) =
        n.mapPacks fun l q => if (k == n.serial && lane == l) = true then g q else q := by
    intro k lane g n
    by_cases h : n.serial = k
    · rw [if_pos h, Nest.updatePack_eq]
      congr 1; funext l q
      by_cases hl : l = lane
      · simp [h, hl]
      · have : ¬ lane = l := fun e => hl e.symm
        simp [hl, this]
    · rw [if_neg h]
      have : ¬ k = n.serial := fun e => h e.symm
      simp [this, idm]
  cases e with
  | result ref r x =>
    simp only [HeadEffect.onTrack, Track.updatePack, Track.nestAt_updateNest, key, HeadEffect.hits]; rfl
  | reasons n l x =>
    simp only [HeadEffect.onTrack, Track.updatePack, Track.nestAt_updateNest, key, HeadEffect.hits]; rfl
  | cause c =>
    rcases ht : t.nestAt p with _ | n <;> simp [HeadEffect.onTrack, HeadEffect.hits, idm, ht]

/-- The nest at a position after effects in order: each pack has taken those that hit it. -/
theorem onTrack_nestAt (l : List HeadEffect) (t : Track) (p : Nat) :
    (l.foldl (fun t e => e.onTrack t) t).nestAt p =
      (t.nestAt p).map fun n => n.mapPacks fun lane q => effectsOn (l.filter (HeadEffect.hits n.serial lane)) q := by
  induction l generalizing t with
  | nil =>
    rcases ht : t.nestAt p with _ | n
    · simp [ht]
    · have : n.packs.mapIdx (fun _ p => p) = n.packs := Lanes.ext_get fun i => by simp
      simp [effectsOn, Nest.mapPacks, this, ht]
  | cons e l ih =>
    rw [List.foldl_cons, ih, HeadEffect.onTrack_nestAt, Option.map_map]
    congr 1
    funext n
    simp only [Function.comp, Nest.mapPacks_serial, Nest.mapPacks_mapPacks]
    congr 1
    funext lane q
    by_cases h : e.hits n.serial lane = true <;> simp [h, effectsOn]

theorem onTrack_find (l : List HeadEffect) (t : Track) (serial : Nat) :
    (l.foldl (fun t e => e.onTrack t) t).find serial =
      (t.find serial).map fun x => (x.1,
          x.2.mapPacks fun lane q => effectsOn (l.filter (HeadEffect.hits serial lane)) q) := by
  induction l generalizing t with
  | nil =>
    rcases ht : t.find serial with _ | ⟨p, n⟩
    · simp [ht]
    · have : n.packs.mapIdx (fun _ p => p) = n.packs := Lanes.ext_get fun i => by simp
      simp [effectsOn, Nest.mapPacks, this, ht]
  | cons e l ih =>
    rw [List.foldl_cons, ih]
    have one : (e.onTrack t).find serial = (t.find serial).map fun x => (x.1, x.2.mapPacks fun lane q =>
        if e.hits serial lane then e.onPack q else q) := by
      have idm : ∀ n : Nest, n.mapPacks (fun _ q => q) = n := fun n => by
        have : n.packs.mapIdx (fun _ p => p) = n.packs := Lanes.ext_get fun i => by simp
        simp only [Nest.mapPacks, this]
      have key : ∀ (k : Nat) (lane : Fin 8) (g : Pack → Pack),
          (t.updatePack k lane g).find serial = (t.find serial).map fun x => (x.1, x.2.mapPacks fun l q =>
            if (k == serial && lane == l) = true then g q else q) := by
        intro k lane g
        rw [Track.updatePack, Track.find_updateNest _ _ _ _ (Nest.updatePack_serial _ _)]
        rcases hx : t.find serial with _ | x
        · rfl
        · simp only [Option.map_some]
          congr 2
          rw [Track.find_serial hx]
          by_cases h : serial = k
          · subst h
            rw [if_pos rfl, Nest.updatePack_eq]
            congr 1; funext l q
            by_cases hl : l = lane
            · simp [hl]
            · have : ¬ lane = l := fun e => hl e.symm
              simp [hl, this]
          · rw [if_neg h]
            have : ¬ k = serial := fun e => h e.symm
            simp [this, idm]
      cases e with
      | result ref r x => exact key _ _ _
      | reasons n l x => exact key _ _ _
      | cause c => rcases ht : t.find serial with _ | x <;> simp [HeadEffect.onTrack, HeadEffect.hits, idm, ht]
    rw [one, Option.map_map]
    congr 1
    funext x
    simp only [Function.comp, Nest.mapPacks_mapPacks]
    congr 2
    funext lane q
    by_cases h : e.hits serial lane = true <;> simp [h, effectsOn]

/-- The reasons that effects add to a pack stay in it. -/
theorem effectsOn_reason {l : List HeadEffect} {e : HeadEffect} (h : e ∈ l) {i : Nat}
    (hb : ∀ q : Pack, q.format ≠ 0 → (e.onPack q).reasons.getLsbD i = true) (p : Pack) (hp : p.format ≠ 0) :
    (effectsOn l p).reasons.getLsbD i = true := by
  have grow : ∀ (l : List HeadEffect) (q : Pack), q.reasons.getLsbD i = true → (effectsOn l q).reasons.getLsbD i = true := by
    intro l
    induction l with
    | nil => exact fun _ h => h
    | cons e l ih =>
      intro q hq
      refine ih _ ?_
      cases e with
      | result r y x =>
        simp only [HeadEffect.onPack, Pack.addReasons, Pack.putResult]
        cases r.station <;> by_cases h : q.format = 0 <;> simp [h, hq]
      | reasons a b x => simp only [HeadEffect.onPack, Pack.addReasons]; split <;> simp [hq]
      | cause c => exact hq
  obtain ⟨a, b, rfl⟩ := List.append_of_mem h
  rw [effectsOn, List.foldl_append, List.foldl_cons]
  exact grow b _ (hb _ (by rw [show (List.foldl (fun p e => e.onPack p) p a).format =
      p.format from (effectsOn_kept a p).1]; exact hp))

/-- The result that stands at a station of a pack. -/
def Pack.resultOf (st : Station) (p : Pack) : Option StationResult :=
  match st with
  | .form => p.formResult
  | .sealing => p.sealResult

/-- A station result written by effects is one of those that they write. -/
theorem effectsOn_result {l : List HeadEffect} {st : Station} {r0 : PackRef} {y0 : StationResult} {x0 : BitVec 32}
    (h : HeadEffect.result r0 y0 x0 ∈ l) (hs : r0.station = st) {P : StationResult → Prop}
    (hP : ∀ r y x, HeadEffect.result r y x ∈ l → r.station = st → P y) (p : Pack) :
    ∃ y, (effectsOn l p).resultOf st = some y ∧ P y := by
  have keep : ∀ (l : List HeadEffect), (∀ r y x, HeadEffect.result r y x ∈ l → r.station = st → P y) → ∀ q : Pack,
      (∃ y, q.resultOf st = some y ∧ P y) → ∃ y, (effectsOn l q).resultOf st = some y ∧ P y := by
    intro l
    induction l with
    | nil => exact fun _ _ h => h
    | cons e l ih =>
      intro hl q hq
      refine ih (fun r y x m => hl r y x (by simp [m])) _ ?_
      obtain ⟨y, a, b⟩ := hq
      cases e with
      | result r y' x =>
        by_cases e : r.station = st
        · refine ⟨y', ?_, hl r y' x (by simp) e⟩
          simp only [HeadEffect.onPack, Pack.addReasons, Pack.putResult, Pack.resultOf, e]
          cases st <;> by_cases h : q.format = 0 <;> simp [h]
        · refine ⟨y, ?_, b⟩
          rw [← a]
          simp only [HeadEffect.onPack, Pack.addReasons, Pack.putResult, Pack.resultOf]
          rcases hr : r.station with _ | _ <;> cases st <;> first | (exact absurd hr e) | (by_cases h : q.format =
              0 <;> simp [h])
      | reasons n m x =>
        refine ⟨y, ?_, b⟩
        rw [← a]
        simp only [HeadEffect.onPack, Pack.addReasons, Pack.resultOf]
        cases st <;> by_cases h : q.format = 0 <;> simp [h]
      | cause c => exact ⟨y, a, b⟩
  obtain ⟨a, b, rfl⟩ := List.append_of_mem h
  rw [effectsOn, List.foldl_append, List.foldl_cons]
  refine keep b (fun r y x m => hP r y x (by simp [m])) _ ⟨y0, ?_, hP r0 y0 x0 (by simp) hs⟩
  generalize List.foldl (fun p e => HeadEffect.onPack e p) p a = q
  simp only [HeadEffect.onPack, Pack.addReasons, Pack.putResult, Pack.resultOf, hs]
  cases st <;> by_cases h : q.format = 0 <;> simp [h]

/-! ### An INDEX-START at the heads (R92) -/

theorem HeadCtx.indexStart_records (x : HeadCtx) :
    (x.indexStart.head, x.indexStart.status) =
      if x.head.state ≠ .offline ∧ x.head.cycle ≠ none then
        ((x.abnormal .overrun .ready true).head, (x.abnormal .overrun .ready true).status)
      else (x.head, x.status) := by
  unfold HeadCtx.indexStart
  by_cases h1 : x.head.state = .offline
  · simp [h1]
  · rcases hc : x.head.cycle with _ | c
    · simp only [h1, if_false, Option.isSome_none]
      simp
      split
      · simp
      · split <;> simp [HeadCtx.emit]
    · simp only [h1, if_false, Option.isSome_some, if_true]
      simp
      split
      · simp
      · split <;> simp [HeadCtx.emit]

/-- What an INDEX-START makes a head do outside itself: the result of a cycle it ends, INDEX_WHILE_CLOSED, and CLOSED_AT_INDEX. -/
theorem HeadCtx.indexStart_out {x : HeadCtx} (ho : x.out = []) :
    x.indexStart.out =
      if x.head.state = .offline then []
      else
        (match x.head.cycle, x.head.packRef with
         | some ⟨.pack, _⟩, some ref => [.result ref (x.endResult .overrun) (x.endRejects .overrun ref.station)]
         | _, _ => []) ++
        if x.head.platen = .opened then []
        else
          .cause .indexWhileClosed ::
            (match x.head.packRef with
             | some ref => [.reasons ref.serial ref.lane RejectReason.closedAtIndex.set]
             | none => []) := by
  have hw : (x.writeEnd .overrun).out = (match x.head.cycle, x.head.packRef with
         | some ⟨.pack, _⟩, some ref => [.result ref (x.endResult .overrun) (x.endRejects .overrun ref.station)]
         | _, _ => []) := by
    unfold HeadCtx.writeEnd
    rcases x.head.cycle with _ | ⟨o, r⟩
    · exact ho
    · cases o
      · rcases x.head.packRef with _ | ref
        · exact ho
        · simp [HeadCtx.emit, ho]
      · exact ho
  unfold HeadCtx.indexStart
  by_cases h1 : x.head.state = .offline
  · simp [h1, ho]
  · simp only [h1, if_false]
    have hy : (if x.head.cycle.isSome = true then x.abnormal .overrun .ready true else x).out = (match x.head.cycle,
        x.head.packRef with
         | some ⟨.pack, _⟩, some ref => [.result ref (x.endResult .overrun) (x.endRejects .overrun ref.station)]
         | _, _ => []) := by
      rcases hc : x.head.cycle with _ | c
      · simp [ho]
      · rw [Option.isSome_some, if_pos rfl, HeadCtx.abnormal_out, hw, hc]
    rw [← hy]
    by_cases hp : x.head.platen = .opened
    · simp [hp]
    · simp only [hp, if_false]
      rcases x.head.packRef with _ | ref <;> simp [HeadCtx.emit]

/-- An INDEX-START at the gate (R144): what is cut, GATE_CUT and its event, and the confirm count of an open window. -/
theorem State.gateIndexStart_eq :
    let t := s.gateIndexStart
    (let uncut := t = s
     (s.gate.activity = none → uncut) ∧
     ∀ a, s.gate.activity = some a →
       let busy := a.punch = .delay ∨ a.punch = .asserted
       let windowOpen := a.diverter = .pulse ∨ a.diverter = .window
       (¬busy ∧ ¬windowOpen ∧ a.diverter ≠ .delay → uncut) ∧
       (busy ∨ windowOpen ∨ a.diverter = .delay →
         ∃ v : State, v = s.setTrack (if windowOpen then s.track.putConfirm a.serial (a.confirm.getD 0) else s.track) ∧
         t = ((v.setGate
           { s.gate with
             activity := some { a with
               punch := if busy then .cut else a.punch
               diverter := if windowOpen ∨ a.diverter = .delay then .cut else a.diverter
               confirm := if windowOpen then none else a.confirm }
             punchOut := if busy then false else s.gate.punchOut
             punchTimer := if busy then none else s.gate.punchTimer
             diverterOut := if windowOpen then 0 else s.gate.diverterOut
             diverterTimer := if windowOpen ∨ a.diverter = .delay then none else s.gate.diverterTimer
             windowTimer := if windowOpen then none else s.gate.windowTimer }).postCause .gateCut).postTrack .gateCut)) := by
  intro t
  refine ⟨fun h => by simp only [t, State.gateIndexStart, h], fun a h => ?_⟩
  intro busy windowOpen
  have ht : t = s.gateIndexStart := rfl
  simp only [State.gateIndexStart, h] at ht
  rcases a with ⟨ser, pu, di, dv, co⟩
  rcases g : s.gate with ⟨cf, act, pt, dt, wt, po, dout⟩
  rw [g] at h ht
  simp only at h
  subst h
  refine ⟨fun ⟨n1, n2, n3⟩ => ?_, fun hc => ⟨_, rfl, ?_⟩⟩
  · rw [ht]
    cases pu <;> cases di <;> simp_all [busy, windowOpen, GateActivity.inProgress, GateActivity.punchBusy,
        GateActivity.windowOpen]
  · rw [ht]
    have st : s.setTrack s.track = s := rfl
    cases pu <;> cases di <;>
      simp [busy, windowOpen, GateActivity.inProgress, GateActivity.punchBusy, GateActivity.windowOpen, Gate.cutPunch,
          Gate.cutDelay, Gate.closeWindow, Gate.update, g, st] at hc ⊢ <;> rfl
end Sys2Proof.Machine
end

