-- ==== Sys2Proof/Laws/PerInstr.lean ====
section
/-! SUPPORT. Per-command families: one lemma for each constructor of Instr. -/

open Sys2Proof

/-- A segment record is eight bytes (R194). -/
theorem Sys2Proof.SegmentReq.flatMap_bytes_length (gs : List SegmentReq) :
    (gs.flatMap SegmentReq.bytes).length = 8 * gs.length := by
  induction gs with
  | nil => rfl
  | cons g gs ih =>
    simp only [List.flatMap_cons, List.length_append, List.length_cons, ih]
    change 8 + _ = _
    omega

/-- The frame of a well-formed command fits the line: at most 250 payload bytes (R193). -/
def Sys2Proof.Laws.FitsFrame.Statement (i : Instr) : Prop :=
  i.wellFormed = true → ∀ f, encodeFrame i = some f → f.payload.length ≤ 250

theorem Sys2Proof.Laws.FitsFrame.deviceReset (openLevels closedLevels : BitVec 16) :
    Sys2Proof.Laws.FitsFrame.Statement (.deviceReset openLevels closedLevels) := by
  rintro - f ⟨⟩ <;> exact of_decide_eq_true rfl

theorem Sys2Proof.Laws.FitsFrame.partReset (tag : Byte) :
    Sys2Proof.Laws.FitsFrame.Statement (.partReset tag) := by
  rintro - f ⟨⟩ <;> exact of_decide_eq_true rfl

theorem Sys2Proof.Laws.FitsFrame.frameReceived :
    Sys2Proof.Laws.FitsFrame.Statement (.frameReceived) := by
  rintro - f ⟨⟩ <;> exact of_decide_eq_true rfl

theorem Sys2Proof.Laws.FitsFrame.receiveGapTimeout :
    Sys2Proof.Laws.FitsFrame.Statement (.receiveGapTimeout) := by
  rintro - f ⟨⟩ <;> exact of_decide_eq_true rfl

theorem Sys2Proof.Laws.FitsFrame.unknownKindFrame (kind tag : Byte) (payload : List Byte) :
    Sys2Proof.Laws.FitsFrame.Statement (.unknownKindFrame kind tag payload) := by
  rintro h f ⟨⟩
  exact of_decide_eq_true (Bool.and_eq_true_iff.1 h).2

theorem Sys2Proof.Laws.FitsFrame.trackSetup (tag : Byte) (r : TrackSetupReq) :
    Sys2Proof.Laws.FitsFrame.Statement (.trackSetup tag r) := by
  rintro - f ⟨⟩ <;> exact of_decide_eq_true rfl

theorem Sys2Proof.Laws.FitsFrame.gateSetup (tag : Byte) (r : GateSetupReq) :
    Sys2Proof.Laws.FitsFrame.Statement (.gateSetup tag r) := by
  rintro - f ⟨⟩ <;> exact of_decide_eq_true rfl

theorem Sys2Proof.Laws.FitsFrame.headSetup (tag head : Byte) (r : HeadSetupReq) :
    Sys2Proof.Laws.FitsFrame.Statement (.headSetup tag head r) := by
  rintro - f ⟨⟩ <;> exact of_decide_eq_true rfl

theorem Sys2Proof.Laws.FitsFrame.headEnables (tag head mask flags : Byte) :
    Sys2Proof.Laws.FitsFrame.Statement (.headEnables tag head mask flags) := by
  rintro - f ⟨⟩ <;> exact of_decide_eq_true rfl

theorem Sys2Proof.Laws.FitsFrame.formatPut (tag : Byte) (r : FormatReq) :
    Sys2Proof.Laws.FitsFrame.Statement (.formatPut tag r) := by
  rintro - f ⟨⟩ <;> exact of_decide_eq_true rfl

theorem Sys2Proof.Laws.FitsFrame.formatDrop (tag code : Byte) :
    Sys2Proof.Laws.FitsFrame.Statement (.formatDrop tag code) := by
  rintro - f ⟨⟩ <;> exact of_decide_eq_true rfl

theorem Sys2Proof.Laws.FitsFrame.profilePut (tag id : Byte) (segments : List SegmentReq) :
    Sys2Proof.Laws.FitsFrame.Statement (.profilePut tag id segments) := by
  rintro h f ⟨⟩
  have := SegmentReq.flatMap_bytes_length segments
  have h : 2 + 8 * segments.length ≤ 250 := of_decide_eq_true h
  change (segments.flatMap SegmentReq.bytes).length + 1 + 1 ≤ 250
  omega

theorem Sys2Proof.Laws.FitsFrame.profileDrop (tag id : Byte) :
    Sys2Proof.Laws.FitsFrame.Statement (.profileDrop tag id) := by
  rintro - f ⟨⟩ <;> exact of_decide_eq_true rfl

theorem Sys2Proof.Laws.FitsFrame.trackStart (tag flags : Byte) :
    Sys2Proof.Laws.FitsFrame.Statement (.trackStart tag flags) := by
  rintro - f ⟨⟩ <;> exact of_decide_eq_true rfl

theorem Sys2Proof.Laws.FitsFrame.trackStop (tag : Byte) :
    Sys2Proof.Laws.FitsFrame.Statement (.trackStop tag) := by
  rintro - f ⟨⟩ <;> exact of_decide_eq_true rfl

theorem Sys2Proof.Laws.FitsFrame.manifestPost (tag : Byte) (codes : Lanes Byte) :
    Sys2Proof.Laws.FitsFrame.Statement (.manifestPost tag codes) := by
  rintro - f ⟨⟩ <;> exact of_decide_eq_true rfl

theorem Sys2Proof.Laws.FitsFrame.manifestFlush (tag : Byte) :
    Sys2Proof.Laws.FitsFrame.Statement (.manifestFlush tag) := by
  rintro - f ⟨⟩ <;> exact of_decide_eq_true rfl

theorem Sys2Proof.Laws.FitsFrame.verdict (tag : Byte) (serial : Half) (mask reason : Byte) :
    Sys2Proof.Laws.FitsFrame.Statement (.verdict tag serial mask reason) := by
  rintro - f ⟨⟩ <;> exact of_decide_eq_true rfl

theorem Sys2Proof.Laws.FitsFrame.holdRelease (tag : Byte) :
    Sys2Proof.Laws.FitsFrame.Statement (.holdRelease tag) := by
  rintro - f ⟨⟩ <;> exact of_decide_eq_true rfl

theorem Sys2Proof.Laws.FitsFrame.headOnline (tag head : Byte) :
    Sys2Proof.Laws.FitsFrame.Statement (.headOnline tag head) := by
  rintro - f ⟨⟩ <;> exact of_decide_eq_true rfl

theorem Sys2Proof.Laws.FitsFrame.headOffline (tag head : Byte) :
    Sys2Proof.Laws.FitsFrame.Statement (.headOffline tag head) := by
  rintro - f ⟨⟩ <;> exact of_decide_eq_true rfl

theorem Sys2Proof.Laws.FitsFrame.headHalt (tag head : Byte) :
    Sys2Proof.Laws.FitsFrame.Statement (.headHalt tag head) := by
  rintro - f ⟨⟩ <;> exact of_decide_eq_true rfl

theorem Sys2Proof.Laws.FitsFrame.headCancel (tag head : Byte) :
    Sys2Proof.Laws.FitsFrame.Statement (.headCancel tag head) := by
  rintro - f ⟨⟩ <;> exact of_decide_eq_true rfl

theorem Sys2Proof.Laws.FitsFrame.headClear (tag head : Byte) :
    Sys2Proof.Laws.FitsFrame.Statement (.headClear tag head) := by
  rintro - f ⟨⟩ <;> exact of_decide_eq_true rfl

theorem Sys2Proof.Laws.FitsFrame.headRelease (tag head : Byte) :
    Sys2Proof.Laws.FitsFrame.Statement (.headRelease tag head) := by
  rintro - f ⟨⟩ <;> exact of_decide_eq_true rfl

theorem Sys2Proof.Laws.FitsFrame.statusTake (tag head : Byte) :
    Sys2Proof.Laws.FitsFrame.Statement (.statusTake tag head) := by
  rintro - f ⟨⟩ <;> exact of_decide_eq_true rfl

theorem Sys2Proof.Laws.FitsFrame.trackStatusTake (tag flags mask : Byte) :
    Sys2Proof.Laws.FitsFrame.Statement (.trackStatusTake tag flags mask) := by
  rintro - f ⟨⟩ <;> exact of_decide_eq_true rfl

theorem Sys2Proof.Laws.FitsFrame.headQuery (tag head : Byte) :
    Sys2Proof.Laws.FitsFrame.Statement (.headQuery tag head) := by
  rintro - f ⟨⟩ <;> exact of_decide_eq_true rfl

theorem Sys2Proof.Laws.FitsFrame.trackQuery (tag : Byte) :
    Sys2Proof.Laws.FitsFrame.Statement (.trackQuery tag) := by
  rintro - f ⟨⟩ <;> exact of_decide_eq_true rfl

theorem Sys2Proof.Laws.FitsFrame.nestQuery (tag : Byte) (serial : Half) :
    Sys2Proof.Laws.FitsFrame.Statement (.nestQuery tag serial) := by
  rintro - f ⟨⟩ <;> exact of_decide_eq_true rfl

theorem Sys2Proof.Laws.FitsFrame.countSnapshot (tag : Byte) :
    Sys2Proof.Laws.FitsFrame.Statement (.countSnapshot tag) := by
  rintro - f ⟨⟩ <;> exact of_decide_eq_true rfl

theorem Sys2Proof.Laws.FitsFrame.countRead (tag head : Byte) :
    Sys2Proof.Laws.FitsFrame.Statement (.countRead tag head) := by
  rintro - f ⟨⟩ <;> exact of_decide_eq_true rfl

theorem Sys2Proof.Laws.FitsFrame.countZero (tag flags head : Byte) :
    Sys2Proof.Laws.FitsFrame.Statement (.countZero tag flags head) := by
  rintro - f ⟨⟩ <;> exact of_decide_eq_true rfl

theorem Sys2Proof.Laws.FitsFrame.coeffRead (tag head : Byte) :
    Sys2Proof.Laws.FitsFrame.Statement (.coeffRead tag head) := by
  rintro - f ⟨⟩ <;> exact of_decide_eq_true rfl

theorem Sys2Proof.Laws.FitsFrame.coeffWrite (tag head : Byte) (items : CoeffItems) :
    Sys2Proof.Laws.FitsFrame.Statement (.coeffWrite tag head items) := by
  rintro - f ⟨⟩ <;> exact of_decide_eq_true rfl

theorem Sys2Proof.Laws.FitsFrame.storeQuery (tag : Byte) :
    Sys2Proof.Laws.FitsFrame.Statement (.storeQuery tag) := by
  rintro - f ⟨⟩ <;> exact of_decide_eq_true rfl

theorem Sys2Proof.Laws.FitsFrame.cycleOnce (tag head : Byte) (r : CycleOnceReq) :
    Sys2Proof.Laws.FitsFrame.Statement (.cycleOnce tag head r) := by
  rintro - f ⟨⟩ <;> exact of_decide_eq_true rfl

theorem Sys2Proof.Laws.FitsFrame.inject (tag head count : Byte) :
    Sys2Proof.Laws.FitsFrame.Statement (.inject tag head count) := by
  rintro - f ⟨⟩ <;> exact of_decide_eq_true rfl

theorem Sys2Proof.Laws.FitsFrame.step (tag : Byte) :
    Sys2Proof.Laws.FitsFrame.Statement (.step tag) := by
  rintro - f ⟨⟩ <;> exact of_decide_eq_true rfl

theorem Sys2Proof.Laws.FitsFrame.syntheticIndexDone :
    Sys2Proof.Laws.FitsFrame.Statement (.syntheticIndexDone) := by
  rintro - f ⟨⟩ <;> exact of_decide_eq_true rfl

theorem Sys2Proof.Laws.FitsFrame.indexStart :
    Sys2Proof.Laws.FitsFrame.Statement (.indexStart) := by
  rintro - f ⟨⟩ <;> exact of_decide_eq_true rfl

theorem Sys2Proof.Laws.FitsFrame.indexDone :
    Sys2Proof.Laws.FitsFrame.Statement (.indexDone) := by
  rintro - f ⟨⟩ <;> exact of_decide_eq_true rfl

theorem Sys2Proof.Laws.FitsFrame.stallExpiry :
    Sys2Proof.Laws.FitsFrame.Statement (.stallExpiry) := by
  rintro - f ⟨⟩ <;> exact of_decide_eq_true rfl

theorem Sys2Proof.Laws.FitsFrame.platenClosedEdge (head : Fin 16) (openLevel : Bool) :
    Sys2Proof.Laws.FitsFrame.Statement (.platenClosedEdge head openLevel) := by
  rintro - f ⟨⟩ <;> exact of_decide_eq_true rfl

theorem Sys2Proof.Laws.FitsFrame.platenOpenEdge (head : Fin 16) (closedLevel : Bool) :
    Sys2Proof.Laws.FitsFrame.Statement (.platenOpenEdge head closedLevel) := by
  rintro - f ⟨⟩ <;> exact of_decide_eq_true rfl

theorem Sys2Proof.Laws.FitsFrame.startLineEdge (head : Fin 16) :
    Sys2Proof.Laws.FitsFrame.Statement (.startLineEdge head) := by
  rintro - f ⟨⟩ <;> exact of_decide_eq_true rfl

theorem Sys2Proof.Laws.FitsFrame.startDelayExpiry (head : Fin 16) :
    Sys2Proof.Laws.FitsFrame.Statement (.startDelayExpiry head) := by
  rintro - f ⟨⟩ <;> exact of_decide_eq_true rfl

theorem Sys2Proof.Laws.FitsFrame.startLimitExpiry (head : Fin 16) :
    Sys2Proof.Laws.FitsFrame.Statement (.startLimitExpiry head) := by
  rintro - f ⟨⟩ <;> exact of_decide_eq_true rfl

theorem Sys2Proof.Laws.FitsFrame.segmentExpiry (head : Fin 16) :
    Sys2Proof.Laws.FitsFrame.Statement (.segmentExpiry head) := by
  rintro - f ⟨⟩ <;> exact of_decide_eq_true rfl

theorem Sys2Proof.Laws.FitsFrame.closeLimitExpiry (head : Fin 16) :
    Sys2Proof.Laws.FitsFrame.Statement (.closeLimitExpiry head) := by
  rintro - f ⟨⟩ <;> exact of_decide_eq_true rfl

theorem Sys2Proof.Laws.FitsFrame.openLimitExpiry (head : Fin 16) :
    Sys2Proof.Laws.FitsFrame.Statement (.openLimitExpiry head) := by
  rintro - f ⟨⟩ <;> exact of_decide_eq_true rfl

theorem Sys2Proof.Laws.FitsFrame.rampStep (head : Fin 16) :
    Sys2Proof.Laws.FitsFrame.Statement (.rampStep head) := by
  rintro - f ⟨⟩ <;> exact of_decide_eq_true rfl

theorem Sys2Proof.Laws.FitsFrame.releaseOpenLimitExpiry (head : Fin 16) :
    Sys2Proof.Laws.FitsFrame.Statement (.releaseOpenLimitExpiry head) := by
  rintro - f ⟨⟩ <;> exact of_decide_eq_true rfl

theorem Sys2Proof.Laws.FitsFrame.sample (head : Fin 16) (reading : Option Nat) (closedLevel openLevel : Bool) :
    Sys2Proof.Laws.FitsFrame.Statement (.sample head reading closedLevel openLevel) := by
  rintro - f ⟨⟩ <;> exact of_decide_eq_true rfl

theorem Sys2Proof.Laws.FitsFrame.virtualEdgeExpiry (head : Fin 16) :
    Sys2Proof.Laws.FitsFrame.Statement (.virtualEdgeExpiry head) := by
  rintro - f ⟨⟩ <;> exact of_decide_eq_true rfl

theorem Sys2Proof.Laws.FitsFrame.rejectConfirmEdge :
    Sys2Proof.Laws.FitsFrame.Statement (.rejectConfirmEdge) := by
  rintro - f ⟨⟩ <;> exact of_decide_eq_true rfl

theorem Sys2Proof.Laws.FitsFrame.punchDelayExpiry :
    Sys2Proof.Laws.FitsFrame.Statement (.punchDelayExpiry) := by
  rintro - f ⟨⟩ <;> exact of_decide_eq_true rfl

theorem Sys2Proof.Laws.FitsFrame.punchWidthExpiry :
    Sys2Proof.Laws.FitsFrame.Statement (.punchWidthExpiry) := by
  rintro - f ⟨⟩ <;> exact of_decide_eq_true rfl

theorem Sys2Proof.Laws.FitsFrame.diverterDelayExpiry :
    Sys2Proof.Laws.FitsFrame.Statement (.diverterDelayExpiry) := by
  rintro - f ⟨⟩ <;> exact of_decide_eq_true rfl

theorem Sys2Proof.Laws.FitsFrame.diverterWidthExpiry :
    Sys2Proof.Laws.FitsFrame.Statement (.diverterWidthExpiry) := by
  rintro - f ⟨⟩ <;> exact of_decide_eq_true rfl

theorem Sys2Proof.Laws.FitsFrame.confirmWindowExpiry :
    Sys2Proof.Laws.FitsFrame.Statement (.confirmWindowExpiry) := by
  rintro - f ⟨⟩ <;> exact of_decide_eq_true rfl

theorem Sys2Proof.Laws.FitsFrame.loadRecordJudged :
    Sys2Proof.Laws.FitsFrame.Statement (.loadRecordJudged) := by
  rintro - f ⟨⟩ <;> exact of_decide_eq_true rfl

theorem Sys2Proof.Laws.FitsFrame.coeffReadEnd :
    Sys2Proof.Laws.FitsFrame.Statement (.coeffReadEnd) := by
  rintro - f ⟨⟩ <;> exact of_decide_eq_true rfl

theorem Sys2Proof.Laws.FitsFrame.coeffWriteEnd :
    Sys2Proof.Laws.FitsFrame.Statement (.coeffWriteEnd) := by
  rintro - f ⟨⟩ <;> exact of_decide_eq_true rfl

theorem Sys2Proof.Laws.FitsFrame.transmitBegin (hostHold : Bool) :
    Sys2Proof.Laws.FitsFrame.Statement (.transmitBegin hostHold) := by
  rintro - f ⟨⟩ <;> exact of_decide_eq_true rfl

theorem Sys2Proof.Laws.FitsFrame.messageLastByte :
    Sys2Proof.Laws.FitsFrame.Statement (.messageLastByte) := by
  rintro - f ⟨⟩ <;> exact of_decide_eq_true rfl

theorem Sys2Proof.Laws.FitsFrame.byteReceived (byte : Byte) (stopBit : Bool) :
    Sys2Proof.Laws.FitsFrame.Statement (.byteReceived byte stopBit) := by
  rintro - f ⟨⟩ <;> exact of_decide_eq_true rfl
end

