-- ==== Sys2Proof/Laws/Requests.lean ====
section
/-! SUPPORT. How a request is taken: at once, with its reply formed or its slot left reserved, or not (R185, R186). -/

namespace Sys2Proof.Machine

/-- A request that arrives with the buffer empty and a slot free is taken at once (R185). -/
theorem State.request_of_takesNow {s : State} (h : s.takesNow) {i : Instr} {f : Frame} (hf : encodeFrame i = some f) (act) :
    s.request i act = s.take f.kind f.tag act := by
  obtain ⟨h1, h2⟩ := h
  simp [State.request, hf, h1, Link.slotFree, Link.slotsUsed, Config.replySlots, h2]

/-- A request answered in its act fills its slot (R186). -/
theorem take_answered {s u : State} {a : Answer} {kind tag : Byte} {act} (h : act s = (u, some a)) :
    s.take kind tag act = u.withReply (kind + 0x80) tag (BitVec.ofNat 8 a.result.code :: a.content) := by
  simp only [State.take, h]; rfl

/-- A request answered later leaves its slot reserved (R186). -/
theorem take_reserved {s u : State} {kind tag : Byte} {act} (h : act s = (u, none)) :
    s.take kind tag act = u.withReserved kind tag := by
  simp only [State.take, h]; rfl

/-- The command of a request taken at once. -/
theorem exec_of_takesNow {s : State} (h : s.takesNow) {i : Instr} {f : Frame} (hf : encodeFrame i = some f)
    (hk : ∀ k t p, i ≠ .unknownKindFrame k t p) : exec i s = .next (s.take f.kind f.tag (requestAct i)) := by
  cases i
  case unknownKindFrame k t p => exact absurd rfl (hk k t p)
  all_goals first
    | (simp only [encodeFrame, reduceCtorEq] at hf; done)
    | (simp only [exec]; exact congrArg Host.Outcome.next (State.request_of_takesNow h hf _))

/-- The command of a request taken at once and answered in its act. -/
theorem exec_answered (i : Instr) {s : State} (h : s.takesNow) (u : State) (a : Answer) (ha : requestAct i s = (u, some a))
    (hk : ∀ k t p, i ≠ .unknownKindFrame k t p := by simp) {f : Frame} (hf : encodeFrame i = some f := by rfl) :
    exec i s = .next (u.withReply (f.kind + 0x80) f.tag (BitVec.ofNat 8 a.result.code :: a.content)) := by
  rw [exec_of_takesNow h hf hk, take_answered ha]

/-- The command of a request taken at once and answered later. -/
theorem exec_reserved (i : Instr) {s : State} (h : s.takesNow) (u : State) (ha : requestAct i s = (u, none))
    (hk : ∀ k t p, i ≠ .unknownKindFrame k t p := by simp) {f : Frame} (hf : encodeFrame i = some f := by rfl) :
    exec i s = .next (u.withReserved f.kind f.tag) := by
  rw [exec_of_takesNow h hf hk, take_reserved ha]

/-- A head number of 0 to 15 names that head (R65). -/
theorem headOf_eq {b : Byte} {h : Fin 16} (e : b.toNat = h.val) : headOf b = some h := by
  unfold headOf
  rw [dif_pos (by omega)]
  congr 1; ext; exact e

/-- A head number above 15 names none (R65). -/
theorem headOf_none {b : Byte} (e : 16 ≤ b.toNat) : headOf b = none := by
  unfold headOf; rw [dif_neg (by omega)]

end Sys2Proof.Machine
end

