-- ==== Sys2Proof/Laws/Sample.lean ====
section
/-! SUPPORT. One sample of a head: each of its steps as an equation, and the whole as the relation of its statement. -/

namespace Sys2Proof.Machine

/-! ### Conditions joining the changed set (R122, R153, R154) -/

@[simp] theorem HeadStatus.joinedBy_zero (u : HeadStatus) : u.joinedBy 0#8 = u := by
  simp [HeadStatus.joinedBy]

theorem Byte.or_and_ne_zero {a b e : Byte} (h : a &&& e ≠ 0#8) : (a ||| b) &&& e ≠ 0#8 := by
  intro z
  apply h
  ext i hi
  have := congrArg (fun v : Byte => v[i]) z
  simp at this ⊢
  exact fun ha => this (.inl ha)

/-- Conditions that join in turn join at once. -/
@[simp] theorem HeadStatus.joinedBy_joinedBy (u : HeadStatus) (a b : Byte) :
    (u.joinedBy a).joinedBy b = u.joinedBy (a ||| b) := by
  rcases u with ⟨p, hd, ch, en, ow⟩
  by_cases ha : a = 0#8
  · subst ha; simp
  by_cases hb : b = 0#8
  · subst hb; simp
  have hab : a ||| b ≠ 0#8 := fun e => ha (BitVec.or_eq_zero_iff.1 e).1
  unfold HeadStatus.joinedBy
  simp only [BitVec.ofNat_eq_ofNat, ne_eq, ha, hb, hab, not_false_eq_true, true_and]
  by_cases hp : p = .empty
  · subst hp
    simp only [true_and]
    by_cases h1 : (ch ||| a) &&& en = 0#8
    · simp only [h1, not_true_eq_false, if_false, true_and, BitVec.or_assoc]
    · have h2 := Byte.or_and_ne_zero (b := b) h1
      rw [BitVec.or_assoc] at h2
      simp [h1, h2, BitVec.or_assoc]
  · simp [hp, BitVec.or_assoc]

/-- The mask of one condition, or the empty one. -/
def Cond.maskIf (c : Cond) (b : Bool) : Byte :=
  if b then BitVec.twoPow 8 c.bit else 0#8

@[simp] theorem Cond.maskIf_false (c : Cond) : c.maskIf false = 0#8 := rfl

/-- A condition changes, or not: its presence and the changed set. -/
def HeadCtx.flip (c : Cond) (b : Bool) (x : HeadCtx) : HeadCtx :=
  { x with
    head := { x.head with
      monitor := { x.head.monitor with live := x.head.monitor.live ^^^ c.maskIf b } }
    status := x.status.joinedBy (c.maskIf b) }

@[simp] theorem HeadCtx.flip_false (c : Cond) (x : HeadCtx) : x.flip c false = x := by
  simp [HeadCtx.flip]

theorem HeadStatus.change_eq (c : Cond) (u : HeadStatus) : u.change c = u.joinedBy (BitVec.twoPow 8 c.bit) := by
  have h : BitVec.twoPow 8 c.bit ≠ 0 := by cases c <;> decide
  simp only [HeadStatus.change, HeadStatus.alertTest, HeadStatus.joinedBy, BitSet.add, h, ne_eq, not_false_eq_true, true_and]
  rfl

theorem Monitor.setLive_flip {m : Monitor} {c : Cond} {on : Bool} (h : BitSet.has m.live c.bit = !on) :
    m.setLive c on = { m with live := m.live ^^^ BitVec.twoPow 8 c.bit } := by
  rcases m with ⟨a1, a2, a3, a4, a5, l, a6, a7⟩
  simp only [Monitor.setLive, Monitor.mk.injEq, true_and, and_true]
  simp only [BitSet.has] at h
  have hc : c.bit < 8 := by cases c <;> decide
  cases on
  · simp only [BitSet.remove, Bool.false_eq_true, if_false]
    ext i hi
    by_cases e : i = c.bit
    · subst e
      rw [BitVec.getLsbD_eq_getElem hi] at h
      simp [h]
    · simp [BitVec.getElem_twoPow, e, Ne.symm e]
  · simp only [BitSet.add, if_true]
    ext i hi
    by_cases e : i = c.bit
    · subst e
      rw [BitVec.getLsbD_eq_getElem hi] at h
      simp [h]
    · simp [BitVec.getElem_twoPow, e, Ne.symm e]

theorem HeadCtx.setCond_flip {x : HeadCtx} {c : Cond} {on : Bool} (h : x.head.isLive c = !on) :
    x.setCond c on = x.flip c true := by
  simp only [HeadCtx.setCond, HeadCtx.flip, Monitor.setLive_flip h, HeadStatus.change_eq, Cond.maskIf, if_true]

/-- A run of hits or misses changes a condition to what it was not (R117, R118). -/
theorem moveRun_change {live hit : Bool} {d a b : Nat} {on : Bool} (h : (moveRun live hit d a b).change = some on) :
    live = !on := by
  unfold moveRun at h
  revert h
  cases live <;> cases hit <;> simp only [Bool.false_eq_true, if_true, if_false] <;> (try split) <;> intro h <;> cases h <;>
    rfl

/-- What a run does, as its statement has it (R117, R118). -/
theorem moveRun_runsMoved {hit : Prop} {hb : Bool} (e : hb = true ↔ hit) (live : Bool) (d a b : Nat) :
    let r := moveRun live hb d a b
    runsMoved hit d live a b (live ^^ r.change.isSome) r.hits r.misses := by
  have e' : hb = false ↔ ¬hit := by cases hb <;> simp_all
  unfold runsMoved moveRun
  refine ⟨fun hl => ?_, fun hl => ?_⟩ <;> subst hl
  · refine ⟨?_, fun h => ?_, fun h lt => ?_, fun h le => ?_⟩
    · cases hb
      · rfl
      · by_cases c : d ≤ a + 1 <;> simp [c]
    · rw [e'.2 h]; exact ⟨rfl, rfl⟩
    · rw [e.2 h]; simp [show ¬(d ≤ a + 1) by omega]
    · rw [e.2 h]; simp [le]
  · refine ⟨?_, fun h => ?_, fun h lt => ?_, fun h le => ?_⟩
    · cases hb
      · simp only [Bool.false_eq_true, if_false, if_true]; by_cases c : Config.clearCount ≤ b + 1 <;> simp [c]
      · rfl
    · rw [e.2 h]; exact ⟨rfl, rfl⟩
    · rw [e'.2 h]; simp [Config.clearCount, show ¬(8 ≤ b + 1) by omega]
    · rw [e'.2 h]; simp [Config.clearCount, le]

/-- LOW's move at a sample. -/
def Head.lowMove (k : SampleClass) (x : Head) : RunMove :=
  if k.valid then
    moveRun (x.isLive .low) k.low (Config.lowDeclare x.params.lowExtended) x.monitor.lowRun x.monitor.nonLowRun
  else ⟨x.monitor.lowRun, x.monitor.nonLowRun, none⟩

/-- HIGH's move at a sample. -/
def Head.highMove (k : SampleClass) (x : Head) : RunMove :=
  if k.valid then
    moveRun (x.isLive .high) k.high Config.highDeclare x.monitor.highRun x.monitor.nonHighRun
  else ⟨x.monitor.highRun, x.monitor.nonHighRun, none⟩

theorem HeadCtx.moveLow_eq (k : SampleClass) (x : HeadCtx) :
    x.moveLow k =
      (x.mapHead fun h => { h with monitor := { h.monitor with
        lowRun := (x.head.lowMove k).hits, nonLowRun := (x.head.lowMove k).misses } }).flip .low
          (x.head.lowMove k).change.isSome := by
  unfold HeadCtx.moveLow Head.lowMove
  cases k.valid
  · simp [HeadCtx.mapHead]
  · simp only [if_true]
    generalize hr : moveRun _ _ _ _ _ = r
    rcases hc : r.change with _ | on
    · simp [HeadCtx.settleCond]
    · have := moveRun_change (hr ▸ hc)
      exact HeadCtx.setCond_flip this

theorem HeadCtx.moveHigh_eq (k : SampleClass) (x : HeadCtx) :
    x.moveHigh k =
      (x.mapHead fun h => { h with monitor := { h.monitor with
        highRun := (x.head.highMove k).hits, nonHighRun := (x.head.highMove k).misses } }).flip .high
          (x.head.highMove k).change.isSome := by
  unfold HeadCtx.moveHigh Head.highMove
  cases k.valid
  · simp [HeadCtx.mapHead]
  · simp only [if_true]
    generalize hr : moveRun _ _ _ _ _ = r
    rcases hc : r.change with _ | on
    · simp [HeadCtx.settleCond]
    · have := moveRun_change (hr ▸ hc)
      exact HeadCtx.setCond_flip this

theorem HeadCtx.moveSensor_eq (k : SampleClass) (x : HeadCtx) :
    x.moveSensor k = x.flip .sensor (k.valid == x.head.isLive .sensor) := by
  unfold HeadCtx.moveSensor
  by_cases h : k.valid = x.head.isLive .sensor
  · rw [if_pos h, HeadCtx.setCond_flip (by rw [← h]; simp)]; simp [h]
  · rw [if_neg h, show (k.valid == x.head.isLive .sensor) = false by simpa using h, HeadCtx.flip_false]

theorem HeadCtx.movePlatenCond_eq (x : HeadCtx) :
    x.movePlatenCond = x.flip .platen (!x.head.isDry && ((x.closedLevel && x.openLevel) != x.head.isLive .platen)) := by
  unfold HeadCtx.movePlatenCond
  dsimp only
  by_cases h : x.head.isDry = true
  · simp [h]
  · by_cases h2 : (x.closedLevel && x.openLevel) = x.head.isLive .platen
    · simp [h, h2]
    · rw [if_neg (by simp [h, h2]), HeadCtx.setCond_flip (by revert h2; cases x.head.isLive .platen <;> cases x.closedLevel && x.openLevel <;> simp)]
      congr 1
      simpa [h] using h2

/-- The counters of a sample (R121, R130). -/
theorem HeadCtx.countSample_eq (k : SampleClass) (x : HeadCtx) :
    x.countSample k =
      let c := x.head.counters.sample k
      let full : Byte := if c.deviations = 65535 ∧ x.head.counters.deviations ≠ 65535 then 0x10#8 else 0#8
      { x with
        head := { x.head with
          counters := c, monitor := { x.head.monitor with live := x.head.monitor.live ||| full } }
        status := x.status.joinedBy full } := by
  unfold HeadCtx.countSample
  dsimp only
  have e : (x.mapHead fun h => { h with counters := h.counters.sample k }).head.counters = x.head.counters.sample k := rfl
  rw [e]
  by_cases h : (x.head.counters.sample k).deviations = 65535 ∧ x.head.counters.deviations ≠ 65535
  · rw [if_pos h, if_pos h]
    simp only [HeadCtx.setCond, HeadCtx.mapHead, HeadStatus.change_eq, Monitor.setLive, BitSet.add, if_true]
    rfl
  · rw [if_neg h, if_neg h]
    simp [HeadCtx.mapHead]

/-- The first six steps of a sample (R112). -/
def HeadCtx.judge (m : Option Nat) (x : HeadCtx) : HeadCtx :=
  let x2 := x.mapHead (Head.doseStep m)
  let k := x2.head.classify x.now m
  let x3 := x2.mapHead (Head.consume k)
  ((((((x3.moveLow k).moveHigh k).moveSensor k).movePlatenCond).countSample k).markLowSeen).moveReady m

theorem HeadCtx.sample_eq (port : Option Nat) (x : HeadCtx) :
    x.sample port = (x.judge (x.head.obtain port)).takeDeclared x.head := rfl

theorem HeadCtx.markLowSeen_eq (x : HeadCtx) :
    x.markLowSeen = x.mapHead (Head.updateRun fun r => { r with lowSeen := r.lowSeen || x.head.isLive .low }) := by
  unfold HeadCtx.markLowSeen
  cases h : x.head.isLive .low
  · rcases x with ⟨_, _, _, _, ⟨_, _, _, c, _⟩, _, _⟩
    rcases c with _ | ⟨o, _ | r⟩ <;> simp [HeadCtx.mapHead, Head.updateRun]
  · simp

/-- The conditions that a sample changes, as the mask of its five moves. -/
def Head.sampleMask (k : SampleClass) (both : Bool) (x : Head) : Byte :=
  Cond.low.maskIf (x.lowMove k).change.isSome ||| Cond.high.maskIf (x.highMove k).change.isSome |||
    Cond.sensor.maskIf (k.valid == x.isLive .sensor) |||
    Cond.platen.maskIf (!x.isDry && (both != x.isLive .platen))

/-- The head and the status after the first five steps of a sample. -/
theorem HeadCtx.five_eq (k : SampleClass) (x : HeadCtx) :
    (((((x.moveLow k).moveHigh k).moveSensor k).movePlatenCond).countSample k) =
      let c := x.head.counters.sample k
      let full : Byte := if c.deviations = 65535 ∧ x.head.counters.deviations ≠ 65535 then 0x10#8 else 0#8
      let mask := x.head.sampleMask k (x.closedLevel && x.openLevel)
      { x with
        head := { x.head with
          counters := c
          monitor := { x.head.monitor with
            lowRun := (x.head.lowMove k).hits, nonLowRun := (x.head.lowMove k).misses
            highRun := (x.head.highMove k).hits, nonHighRun := (x.head.highMove k).misses
            live := (x.head.monitor.live ^^^ mask) ||| full } }
        status := x.status.joinedBy (mask ||| full) } := by
  rw [HeadCtx.moveLow_eq, HeadCtx.moveHigh_eq, HeadCtx.moveSensor_eq, HeadCtx.movePlatenCond_eq, HeadCtx.countSample_eq]
  rcases x with ⟨now, id, cl, op, h, st, out⟩
  rcases h with ⟨q, s, pl, cy, pref, stt, rel, ts, ps, hc, pc, rm, tc, co, clo, aux, vr, ⟨m1, m2, m3, m4, m5, l, m6, m7⟩, cn, he⟩
  have f1 : ∀ (b : Bool) (v : Byte), BitSet.has (v ^^^ Cond.low.maskIf b) Cond.high.bit = BitSet.has v Cond.high.bit := by
    intro b v; cases b <;> simp [BitSet.has, Cond.bit, Cond.maskIf, BitVec.getLsbD_twoPow]
  have f2 : ∀ (b c : Bool) (v : Byte), BitSet.has (v ^^^ Cond.low.maskIf b ^^^ Cond.high.maskIf c) Cond.sensor.bit =
      BitSet.has v Cond.sensor.bit := by
    intro b c v; cases b <;> cases c <;> simp [BitSet.has, Cond.bit, Cond.maskIf, BitVec.getLsbD_twoPow]
  have f3 : ∀ (b c d : Bool) (v : Byte),
      BitSet.has (v ^^^ Cond.low.maskIf b ^^^ Cond.high.maskIf c ^^^ Cond.sensor.maskIf d) Cond.platen.bit =
      BitSet.has v Cond.platen.bit := by
    intro b c d v
    cases b <;> cases c <;> cases d <;> simp [BitSet.has, Cond.bit, Cond.maskIf, BitVec.getLsbD_twoPow]
  have x4 : ∀ b c d e : Bool, ∀ v : Byte,
      v ^^^ Cond.low.maskIf b ^^^ Cond.high.maskIf c ^^^ Cond.sensor.maskIf d ^^^ Cond.platen.maskIf e =
      v ^^^ (Cond.low.maskIf b ||| Cond.high.maskIf c ||| Cond.sensor.maskIf d ||| Cond.platen.maskIf e) := by
    intro b c d e v
    simp only [BitVec.xor_assoc]
    congr 1
    revert b c d e; decide
  simp only [HeadCtx.flip, HeadCtx.mapHead, Head.isLive, Head.highMove, Head.isDry, f1, f2, f3, x4,
    HeadStatus.joinedBy_joinedBy, Head.sampleMask, Head.lowMove]

/-! ### Classification (R113 to R116) -/

/-- What window evaluation, the readings and the dose look at of a cycle: the segment that is current. -/
theorem Head.segment_eq (x : Head) (g : Segment) :
    x.segment = some g ↔ ∃ r, x.run? = some r ∧ r.segments[r.current]? = some g := by
  unfold Head.segment Run.segment
  rcases x.run? with _ | r <;> simp

theorem Head.inRamp_iff (x : Head) :
    x.inRamp = true ↔ ∃ r g, x.run? = some r ∧ r.segments[r.current]? = some g ∧ g.kind = .ramp := by
  unfold Head.inRamp
  rw [Option.any_eq_true]
  constructor
  · rintro ⟨g, hg, hk⟩
    obtain ⟨r, h1, h2⟩ := (x.segment_eq g).1 hg
    exact ⟨r, g, h1, h2, by simpa using hk⟩
  · rintro ⟨r, g, h1, h2, hk⟩
    exact ⟨g, (x.segment_eq g).2 ⟨r, h1, h2⟩, by simpa using hk⟩

theorem Head.windowActive_iff (now : Nat) (x : Head) : x.windowActive now = true ↔ x.windowHolds now := by
  have hs : x.windowState = true ↔ (x.state = .running ∨ x.state = .pending ∨ x.state = .ready ∨
      (x.params.loopMode = .monitor ∧ (x.state = .releasing ∨ x.state = .ready))) := by
    unfold Head.windowState
    cases x.state <;> simp
  unfold Head.windowActive Head.windowHolds
  rw [Bool.and_eq_true, Bool.and_eq_true, Bool.and_eq_true, hs, ← Head.inRamp_iff]
  rcases x.tempChanged with _ | t <;> simp [and_assoc]

theorem Head.isLow_iff (now v : Nat) (x : Head) : x.isLow now v = true ↔ x.readsLow now v := by
  unfold Head.isLow Head.readsLow Head.injects
  rw [Bool.or_eq_true, Bool.and_eq_true, Bool.and_eq_true, Head.windowActive_iff]
  simp

theorem Head.isHigh_iff (now v : Nat) (x : Head) : x.isHigh now v = true ↔ x.readsHigh now v := by
  unfold Head.isHigh Head.readsHigh
  rw [Bool.or_eq_true, Bool.and_eq_true, Head.windowActive_iff]
  simp

theorem Head.countsDose_iff (x : Head) : x.countsDose = true ↔ x.dosesNow := by
  unfold Head.countsDose Head.dosesNow
  rw [Bool.and_eq_true, Bool.and_eq_true, Option.any_eq_true]
  simp only [beq_iff_eq, and_assoc, Head.segment_eq]
  constructor
  · rintro ⟨a, b, g, ⟨r, h1, h2⟩, h3⟩; exact ⟨a, b, r, g, h1, h2, h3⟩
  · rintro ⟨a, b, r, g, h1, h2, h3⟩; exact ⟨a, b, g, ⟨r, h1, h2⟩, h3⟩

/-- A head whose cycle record, if it has started, works on the same current segment. -/
theorem Head.windowHolds_updateRun (now : Nat) (x : Head) {f : Run → Run}
    (hf : ∀ r, (f r).segments = r.segments ∧ (f r).current = r.current) :
    (x.updateRun f).windowHolds now ↔ x.windowHolds now := by
  have e : (∃ r g, (x.updateRun f).run? = some r ∧ r.segments[r.current]? = some g ∧ g.kind = .ramp) ↔
      ∃ r g, x.run? = some r ∧ r.segments[r.current]? = some g ∧ g.kind = .ramp := by
    rw [Head.updateRun_run?]
    rcases x.run? with _ | r
    · simp
    · obtain ⟨h1, h2⟩ := hf r
      simp [h1, h2]
  exact and_congr Iff.rfl (and_congr Iff.rfl (and_congr (not_congr e) Iff.rfl))

theorem Head.doseStep_reads (now v : Nat) (m : Option Nat) (x : Head) :
    ((x.doseStep m).readsLow now v ↔ x.readsLow now v) ∧ ((x.doseStep m).readsHigh now v ↔ x.readsHigh now v) := by
  unfold Head.doseStep
  split
  · have hf : ∀ r, (Run.addDose x.params.samplePeriod m r).segments = r.segments ∧
        (Run.addDose x.params.samplePeriod m r).current = r.current := by
      intro r; unfold Run.addDose; split <;> exact ⟨rfl, rfl⟩
    unfold Head.readsLow Head.readsHigh
    rw [Head.windowHolds_updateRun now x hf]
    exact ⟨Iff.rfl, Iff.rfl⟩
  · exact ⟨Iff.rfl, Iff.rfl⟩

/-- The class of a sample (R114 to R116). -/
theorem Head.classify_iff (now : Nat) (m : Option Nat) (x : Head) :
    let k := (x.doseStep m).classify now m
    k.valid = m.isSome ∧ (k.low = true ↔ ∃ v, m = some v ∧ x.readsLow now v) ∧
      (k.high = true ↔ ∃ v, m = some v ∧ x.readsHigh now v) := by
  unfold Head.classify
  rcases m with _ | v
  · simp
  · simp only [Option.isSome_some, true_and, Option.some.injEq, exists_eq_left', Head.isLow_iff, Head.isHigh_iff]
    exact (Head.doseStep_reads now v (some v) x)

/-! ### The six steps (R112) -/

/-- The dose step as one update of the cycle record. -/
theorem Head.doseStep_eq (m : Option Nat) (x : Head) :
    x.doseStep m = x.updateRun fun r => if x.countsDose then r.addDose x.params.samplePeriod m else r := by
  unfold Head.doseStep
  cases x.countsDose
  · rcases x with ⟨_, _, _, c, _⟩
    rcases c with _ | ⟨o, _ | r⟩ <;> simp [Head.updateRun]
  · simp

theorem Head.consume_eq (k : SampleClass) (x : Head) :
    x.consume k =
      { x with monitor := { x.monitor with
        inject := if k.valid && x.injects then x.monitor.inject - 1 else x.monitor.inject } } := by
  unfold Head.consume
  split <;> rfl

/-- The head after steps 1 to 5. -/
def Head.fiveSteps (k : SampleClass) (m : Option Nat) (both : Bool) (due : Nat) (x : Head) : Head :=
  let c := x.counters.sample k
  let full : Byte := if c.deviations = 65535 ∧ x.counters.deviations ≠ 65535 then 0x10#8 else 0#8
  let live := (x.monitor.live ^^^ x.sampleMask k both) ||| full
  { x.updateRun fun r =>
      let r' := if x.countsDose then r.addDose x.params.samplePeriod m else r
      { r' with lowSeen := r.lowSeen || BitSet.has live 0 } with
    counters := c
    monitor := { x.monitor with
      sampleTimer := some (due + x.params.samplePeriod)
      lowRun := (x.lowMove k).hits, nonLowRun := (x.lowMove k).misses
      highRun := (x.highMove k).hits, nonHighRun := (x.highMove k).misses
      live := live
      inject := if k.valid && x.injects then x.monitor.inject - 1 else x.monitor.inject } }

theorem HeadCtx.judge_eq (m : Option Nat) (due : Nat) (x : HeadCtx) :
    let k := (x.head.doseStep m).classify x.now m
    let c := x.head.counters.sample k
    let full : Byte := if c.deviations = 65535 ∧ x.head.counters.deviations ≠ 65535 then 0x10#8 else 0#8
    let both := x.closedLevel && x.openLevel
    (x.mapHead (Head.nextSample due)).judge m =
      HeadCtx.moveReady m
        { x with
          head := x.head.fiveSteps k m both due
          status := x.status.joinedBy (x.head.sampleMask k both ||| full) } := by
  intro k c full both
  have hk : ((x.mapHead (Head.nextSample due)).mapHead (Head.doseStep m)).head.classify
      (x.mapHead (Head.nextSample due)).now m = k := by
    simp only [HeadCtx.mapHead, k, Head.doseStep_eq]; rfl
  unfold HeadCtx.judge
  dsimp only
  rw [HeadCtx.five_eq, HeadCtx.markLowSeen_eq, hk]
  clear_value k
  clear hk
  have h3 : (((x.mapHead (Head.nextSample due)).mapHead (Head.doseStep m)).mapHead (Head.consume k)) =
      { x with
        head := { x.head.updateRun fun r =>
            if x.head.countsDose then r.addDose x.head.params.samplePeriod m else r with
          monitor := { x.head.monitor with
            sampleTimer := some (due + x.head.params.samplePeriod)
            inject := if k.valid && x.head.injects then x.head.monitor.inject - 1 else x.head.monitor.inject } } } := by
    simp only [HeadCtx.mapHead, Head.doseStep_eq, Head.consume_eq]
    rfl
  rw [h3]
  congr 1
  rcases x with ⟨now, id, cl, op, h, st, out⟩
  rcases h with ⟨q, s, pl, cy, pref, stt, rel, ts, ps, hc, pc, rm, tc, co, clo, aux, vr, mo, cn, he⟩
  rcases cy with _ | ⟨o, _ | r⟩
  · rfl
  · rfl
  · simp only [HeadCtx.mapHead, Head.fiveSteps, Head.updateRun, Option.map_some]
    have e : ∀ r : Run, ∀ b : Bool, (if b then r.addDose q.samplePeriod m else r).lowSeen = r.lowSeen := by
      intro r b; cases b
      · rfl
      · simp only [if_true]; unfold Run.addDose; split <;> rfl
    simp only [e]
    rfl

/-- The mask of a sample, bit by bit. -/
theorem Head.sampleMask_bits (k : SampleClass) (both : Bool) (x : Head) :
    let v := x.sampleMask k both
    v.getLsbD 0 = (x.lowMove k).change.isSome ∧ v.getLsbD 1 = (x.highMove k).change.isSome ∧
    v.getLsbD 2 = (k.valid == x.isLive .sensor) ∧ v.getLsbD 3 = (!x.isDry && (both != x.isLive .platen)) ∧
    v &&& 0xF0 = 0 := by
  unfold Head.sampleMask
  generalize (x.lowMove k).change.isSome = a
  generalize (x.highMove k).change.isSome = b
  generalize (k.valid == x.isLive .sensor) = c
  generalize (!x.isDry && (both != x.isLive .platen)) = d
  revert a b c d; decide

theorem mask_changes {l v : Byte} (hv : v &&& 0xF0 = 0) (b : Prop) [Decidable b] :
    (l ^^^ ((l ^^^ v) ||| if b then 0x10#8 else 0#8)) ||| (if b then 0x10#8 else 0#8) = v ||| if b then 0x10#8 else 0#8 := by
  have h : ∀ i, i < 8 → 4 ≤ i → v.getLsbD i = false := by
    intro i hi h4
    have := congrArg (fun w : Byte => w.getLsbD i) hv
    simp only [BitVec.getLsbD_and] at this
    interval_cases i <;> simpa using this
  by_cases hb : b
  · simp only [hb, if_true]
    ext i hi
    simp only [BitVec.getElem_or, BitVec.getElem_xor]
    have := h i hi
    rw [BitVec.getLsbD_eq_getElem hi] at this
    interval_cases i <;> simp_all
  · simp [hb, ← BitVec.xor_assoc]

theorem Head.fiveSteps_monitor {k : SampleClass} {m : Option Nat} {x : Head} {both : Bool} {due now : Nat}
    (kv : k.valid = m.isSome) (kl : k.low = true ↔ ∃ v, m = some v ∧ x.readsLow now v)
    (kh : k.high = true ↔ ∃ v, m = some v ∧ x.readsHigh now v) (b : Monitor)
    (hb : { b with ready := x.monitor.ready } = (x.fiveSteps k m both due).monitor)
    (hr : (x.state = .heating →
        (∃ v, m = some v ∧ x.params.standby ≤ v + x.params.band ∧ v ≤ x.params.standby + x.params.band) →
        b.ready = x.monitor.ready + 1) ∧
      (x.state = .heating →
        ¬(∃ v, m = some v ∧ x.params.standby ≤ v + x.params.band ∧ v ≤ x.params.standby + x.params.band) →
        b.ready = 0) ∧ (x.state ≠ .heating → b.ready = x.monitor.ready)) :
    x.monitorSampled now due m both
      (decide ((x.counters.sample k).deviations = 65535 ∧ x.counters.deviations ≠ 65535)) b := by
  obtain ⟨b0, b1, b2, b3, bF⟩ := x.sampleMask_bits k both
  obtain ⟨c1, c2, c3, c4, c5, c6, c7, c8⟩ := b
  simp only [Head.fiveSteps, Monitor.mk.injEq] at hb
  obtain ⟨e1, e2, e3, e4, e5, e6, e7, e8⟩ := hb
  have hinj : x.injects = true ↔ x.state ≠ .heating ∧ x.monitor.inject ≠ 0 := by
    unfold Head.injects; rw [Bool.and_eq_true]; simp
  have bit : ∀ i, i < 8 → i ≠ 4 → c6.getLsbD i = (x.monitor.live.getLsbD i ^^ (x.sampleMask k both).getLsbD i) := by
    intro i hi h4
    rw [e6, BitVec.getLsbD_or, BitVec.getLsbD_xor]
    by_cases hc : (x.counters.sample k).deviations = 65535 ∧ x.counters.deviations ≠ 65535
    · rw [if_pos hc]
      have : (0x10#8).getLsbD i = false := by interval_cases i <;> first | rfl | exact absurd rfl h4
      rw [this, Bool.or_false]
    · rw [if_neg hc]; simp
  refine ⟨e1, fun v hm => ?_, fun hm => ?_, ?_, ?_, ?_, ?_, ?_, ?_, hr.1, hr.2.1, hr.2.2⟩
  · subst hm
    have lv : k.valid = true := kv
    have hl : k.low = true ↔ x.readsLow now v := by rw [kl]; simp
    have hh : k.high = true ↔ x.readsHigh now v := by rw [kh]; simp
    dsimp only
    rw [bit 0 (by decide) (by decide), bit 1 (by decide) (by decide), b0, b1, e2, e3, e4, e5]
    simp only [Head.lowMove, Head.highMove, lv, if_true]
    exact ⟨moveRun_runsMoved hl _ _ _ _, moveRun_runsMoved hh _ _ _ _⟩
  · subst hm
    have lv : k.valid = false := kv
    dsimp only
    rw [bit 0 (by decide) (by decide), bit 1 (by decide) (by decide), b0, b1, e2, e3, e4, e5]
    simp [Head.lowMove, Head.highMove, lv]
  · dsimp only
    rw [bit 2 (by decide) (by decide), b2, kv]
    have : x.isLive .sensor = x.monitor.live.getLsbD 2 := rfl
    rw [this]
    rcases m with _ | v <;> cases x.monitor.live.getLsbD 2 <;> simp
  · dsimp only
    rw [bit 3 (by decide) (by decide), b3]
    have : x.isLive .platen = x.monitor.live.getLsbD 3 := rfl
    rw [this]
    by_cases hd : x.params.loopMode = .dry
    · simp [hd, Head.isDry]
    · rw [if_neg hd]
      have : x.isDry = false := by simp [Head.isDry, hd]
      rw [this]
      cases x.monitor.live.getLsbD 3 <;> cases both <;> rfl
  · dsimp only
    rw [e6, BitVec.getLsbD_or, BitVec.getLsbD_xor]
    have h4 : (x.sampleMask k both).getLsbD 4 = false := by
      have := congrArg (fun w : Byte => w.getLsbD 4) bF
      simpa using this
    rw [h4, Bool.xor_false]
    congr 1
    by_cases hc : (x.counters.sample k).deviations = 65535 ∧ x.counters.deviations ≠ 65535
    · rw [if_pos hc]; simp [hc]
    · rw [if_neg hc]; simp [hc]
  · dsimp only
    rw [e6]
    have hE : x.sampleMask k both &&& 0xE0#8 = 0#8 := by
      have := congrArg (fun w : Byte => w &&& 0xE0#8) bF
      simpa [BitVec.and_assoc] using this
    have hf : (if (x.counters.sample k).deviations = 65535 ∧ x.counters.deviations ≠ 65535 then 0x10#8 else 0#8) &&& 0xE0#8 =
        0#8 := by split <;> decide
    ext i hi
    have h1 := congrArg (fun w : Byte => w[i]) hE
    have h2 := congrArg (fun w : Byte => w[i]) hf
    simp only [BitVec.getElem_and, BitVec.getElem_or, BitVec.getElem_xor] at h1 h2 ⊢
    revert h1 h2
    generalize (if (x.counters.sample k).deviations = 65535 ∧ x.counters.deviations ≠ 65535 then 0x10#8 else 0#8)[i] = p
    generalize (x.sampleMask k both)[i] = q
    generalize x.monitor.live[i] = r
    have h0 : (0#8)[i] = false := by simp
    rw [h0]
    generalize (0xE0#8)[i] = t
    revert p q r t
    decide
  · intro hm hs
    dsimp only
    rw [e8]
    have : k.valid = true := by rw [kv]; cases m <;> simp_all
    by_cases hi : x.monitor.inject = 0
    · have : x.injects = false := by simp [Head.injects, hi]
      simp [this, hi]
    · simp [this, hinj.2 ⟨hs, hi⟩]
  · intro hm
    dsimp only
    rw [e8]
    rcases hm with hm | hm
    · have : k.valid = false := by rw [kv, hm]; rfl
      simp [this]
    · have : x.injects = false := by simp [Head.injects, hm]
      simp [this]

/-- A head that has the monitor but for readiness, the counters and the cycle record of the five steps (R112, R123, R126, R130). -/
theorem Head.fiveSteps_sampled {k : SampleClass} {m : Option Nat} {x w : Head} {both : Bool} {due now : Nat}
    (kv : k.valid = m.isSome) (kl : k.low = true ↔ ∃ v, m = some v ∧ x.readsLow now v)
    (kh : k.high = true ↔ ∃ v, m = some v ∧ x.readsHigh now v)
    (hb : { w.monitor with ready := x.monitor.ready } = (x.fiveSteps k m both due).monitor)
    (hc : w.counters = x.counters.sample k) (hy : w.cycle = (x.fiveSteps k m both due).cycle)
    (hr : (x.state = .heating →
        (∃ v, m = some v ∧ x.params.standby ≤ v + x.params.band ∧ v ≤ x.params.standby + x.params.band) →
        w.monitor.ready = x.monitor.ready + 1) ∧
      (x.state = .heating →
        ¬(∃ v, m = some v ∧ x.params.standby ≤ v + x.params.band ∧ v ≤ x.params.standby + x.params.band) →
        w.monitor.ready = 0) ∧ (x.state ≠ .heating → w.monitor.ready = x.monitor.ready))
    (rest : let readied := x.state = .heating ∧ 16 ≤ w.monitor.ready
      (¬readied → { w with monitor := x.monitor, counters := x.counters, cycle := x.cycle } = x) ∧
      (readied →
        w.restsIn .ready ∧ w.timesChange now x ∧
        { w with
          monitor := x.monitor, counters := x.counters, cycle := x.cycle, state := x.state, tempSet := x.tempSet,
          presSet := x.presSet, tempChanged := x.tempChanged, heaterCode := x.heaterCode,
          pressureCode := x.pressureCode } = x)) :
    w.sampled now due m both x := by
  have hl : w.monitor.live = (x.fiveSteps k m both due).monitor.live := by rw [← hb]
  have dev : (k.low || k.high) = true ↔ ∃ v, m = some v ∧ (x.readsLow now v ∨ x.readsHigh now v) := by
    rw [Bool.or_eq_true, kl, kh]
    constructor
    · rintro (⟨v, a, b⟩ | ⟨v, a, b⟩)
      · exact ⟨v, a, .inl b⟩
      · exact ⟨v, a, .inr b⟩
    · rintro ⟨v, a, b | b⟩
      · exact .inl ⟨v, a, b⟩
      · exact .inr ⟨v, a, b⟩
  refine ⟨?_, fun h => ?_, fun h => ?_, ?_, ?_, fun h => ?_, fun r h => ?_, rest⟩
  · rw [hc]; exact Head.fiveSteps_monitor kv kl kh w.monitor hb hr
  · rw [hc]; simp only [Counters.sample, dev.2 h, if_true]
  · rw [hc]; simp only [Counters.sample, show (k.low || k.high) = false by simpa using fun a => h (dev.1 a)]; rfl
  · rw [hc]; simp only [Counters.sample, kv]; cases m <;> simp
  · rw [hc]; simp only [Counters.sample]
  · rw [hy]
    simp only [Head.fiveSteps, Head.updateRun]
    simp only [Head.run?] at h
    rcases e : x.cycle with _ | ⟨o, _ | r⟩
    · rfl
    · rfl
    · rw [e] at h; cases h
  · have e : ∃ o, x.cycle = some ⟨o, some r⟩ := by
      simp only [Head.run?] at h
      rcases e : x.cycle with _ | ⟨o, _ | r'⟩
      · rw [e] at h; cases h
      · rw [e] at h; cases h
      · rw [e] at h; cases h; exact ⟨o, rfl⟩
    obtain ⟨o, e⟩ := e
    have hd := x.countsDose_iff
    refine ⟨{ (if x.countsDose then r.addDose x.params.samplePeriod m else r) with
      lowSeen := r.lowSeen || w.monitor.live.getLsbD 0 }, ?_, ?_⟩
    · rw [hy, e, hl]
      simp only [Head.fiveSteps, Head.updateRun, e, Option.map_some]
      rfl
    · by_cases hcd : x.countsDose = true
      · have hn := hd.1 hcd
        simp only [hcd, if_true]
        rcases m with _ | v
        · exact ⟨rfl, fun v _ a => (nomatch a), fun _ => rfl, ⟨fun _ => .inr ⟨hn, rfl⟩, fun _ => rfl⟩, rfl⟩
        · refine ⟨rfl, fun v' _ a => ?_, fun a => ?_, ⟨fun a => .inl a, fun a => ?_⟩, rfl⟩
          · cases a; rfl
          · rcases a with a | a
            · exact absurd hn a
            · cases a
          · rcases a with a | a
            · exact a
            · cases a.2
      · have hn : ¬x.dosesNow := fun a => hcd (hd.2 a)
        simp only [hcd]
        exact ⟨rfl, fun v a => absurd a hn, fun _ => rfl, ⟨fun a => .inl a, fun a => a.elim id fun a => absurd a.1 hn⟩, rfl⟩

/-- What six steps of a sample leave (R112). -/
theorem HeadCtx.judge_sampled (m : Option Nat) (due : Nat) (x : HeadCtx) :
    let z := (x.mapHead (Head.nextSample due)).judge m
    z.head.sampled x.now due m (x.closedLevel && x.openLevel) x.head ∧
      z.status = x.status.joinedBy (z.head.changesOf x.head) ∧ z.out = x.out := by
  have hj := x.judge_eq m due
  obtain ⟨kv, kl, kh⟩ := x.head.classify_iff x.now m
  dsimp only at hj kv kl kh
  intro z
  have hz : z = _ := hj
  clear_value z
  generalize (x.head.doseStep m).classify x.now m = k at *
  subst hz
  have bF := (x.head.sampleMask_bits k (x.closedLevel && x.openLevel)).2.2.2.2
  generalize hboth : (x.closedLevel && x.openLevel) = both at *
  obtain ⟨y, hy⟩ : ∃ y, y = x.head.fiveSteps k m both due := ⟨_, rfl⟩
  rw [← hy]
  have ys : y.state = x.head.state := by rw [hy]; rfl
  have yr : y.monitor.ready = x.head.monitor.ready := by rw [hy]; rfl
  have yp : y.params = x.head.params := by rw [hy]; rfl
  have yall : { y with monitor := x.head.monitor, counters := x.head.counters, cycle := x.head.cycle } = x.head := by
    rw [hy]; rfl
  have yst : m.any y.inStandby = true ↔
      ∃ v, m = some v ∧ x.head.params.standby ≤ v + x.head.params.band ∧ v ≤ x.head.params.standby + x.head.params.band := by
    rw [Option.any_eq_true]
    simp only [Head.inStandby, yp, Bool.and_eq_true, decide_eq_true_eq]
  have changes : ∀ w : Head, w.monitor.live = y.monitor.live → w.counters = y.counters →
      x.status.joinedBy (x.head.sampleMask k both ||| if (Counters.sample k x.head.counters).deviations = 65535 ∧
        x.head.counters.deviations ≠ 65535 then 16#8 else 0#8) = x.status.joinedBy (w.changesOf x.head) := by
    intro w h1 h2
    unfold Head.changesOf
    rw [h1, h2, hy]
    simp only [Head.fiveSteps]
    congr 1
    exact (mask_changes bF _).symm
  unfold HeadCtx.moveReady
  dsimp only
  by_cases hh : x.head.state = .heating
  · rw [if_pos (ys.trans hh)]
    simp only [HeadCtx.mapHead]
    by_cases hin : m.any y.inStandby = true
    · rw [if_pos hin]
      by_cases h16 : Config.readyCount ≤ y.monitor.ready + 1
      · rw [if_pos h16]
        refine ⟨Head.fiveSteps_sampled kv kl kh ?_ ?_ ?_ ⟨fun _ _ => ?_, fun _ a => absurd (yst.1 hin) a, fun a => absurd hh a⟩
          ⟨fun a => ?_, fun _ => ⟨?_, ?_, ?_⟩⟩, changes _ rfl rfl, trivial⟩
        · simp only [Head.enterReady, Head.rest]; rw [← hy, ← yr]
        · simp only [Head.enterReady, Head.rest]; rw [hy]; rfl
        · simp only [Head.enterReady, Head.rest]; rw [hy]
        · simp only [Head.enterReady, Head.rest, yr]
        · refine absurd ⟨hh, ?_⟩ a
          simp only [Head.enterReady, Head.rest]; exact h16
        · simp [Head.enterReady, Head.rest, Head.restsIn]
        · have e : y.tempSet = x.head.tempSet := by rw [hy]; rfl
          have e2 : y.tempChanged = x.head.tempChanged := by rw [hy]; rfl
          simp only [Head.enterReady, Head.rest, Head.timesChange, e, e2]
        · rw [hy]; rfl
      · rw [if_neg h16]
        refine ⟨Head.fiveSteps_sampled kv kl kh ?_ ?_ ?_ ⟨fun _ _ => ?_, fun _ a => absurd (yst.1 hin) a, fun a => absurd hh a⟩
          ⟨fun _ => ?_, fun a => ?_⟩, changes _ rfl rfl, trivial⟩
        · dsimp only; rw [← hy, ← yr]
        · rw [hy]; rfl
        · rw [hy]
        · simp only [yr]
        · exact yall
        · exact absurd a.2 h16
    · rw [if_neg hin]
      rw [if_neg (by decide)]
      refine ⟨Head.fiveSteps_sampled kv kl kh ?_ ?_ ?_ ⟨fun _ a => absurd (yst.2 a) hin, fun _ _ => rfl, fun a => absurd hh a⟩
        ⟨fun _ => ?_, fun a => ?_⟩, changes _ rfl rfl, trivial⟩
      · dsimp only; rw [← hy, ← yr]
      · rw [hy]; rfl
      · rw [hy]
      · exact yall
      · exact absurd a.2 (show ¬16 ≤ 0 by decide)
  · rw [if_neg (by rw [ys]; exact hh)]
    refine ⟨Head.fiveSteps_sampled kv kl kh ?_ ?_ ?_ ⟨fun a => absurd a hh, fun a => absurd a hh, fun _ => yr⟩
      ⟨fun _ => yall, fun a => absurd a.1 hh⟩, changes _ rfl rfl, rfl⟩
    · dsimp only; rw [← hy, ← yr]
    · rw [hy]; rfl
    · rw [hy]

/-! ### The sample of a head in the device -/

/-- The READY step writes the head alone. -/
theorem HeadCtx.moveReady_head_only (m : Option Nat) (x : HeadCtx) :
    x.moveReady m = { x with head := (x.moveReady m).head } := by
  by_cases h : x.head.state = .heating
  · simp only [HeadCtx.moveReady, if_pos h]; rfl
  · simp only [HeadCtx.moveReady, if_neg h]

/-- An act in two parts, the first of which writes nothing outside the head and neither enters nor leaves SAFE. -/
theorem State.actHead_comp {s : State} {h : Fin 16} {f g : HeadCtx → HeadCtx} (ho : (f (s.ctx h)).out = [])
    (hs : ((f (s.ctx h)).head.state == .safe) = ((s.head h).state == .safe))
    (hc : f (s.ctx h) = { s.ctx h with head := (f (s.ctx h)).head, status := (f (s.ctx h)).status, out := (f (s.ctx h)).out }) :
    s.actHead h (g ∘ f) = (s.withHead h (f (s.ctx h)).head (f (s.ctx h)).status).actHead h g := by
  obtain ⟨u, hu⟩ : ∃ u, u = s.withHead h (f (s.ctx h)).head (f (s.ctx h)).status := ⟨_, rfl⟩
  have hctx : u.ctx h = f (s.ctx h) := by
    rw [hc, ho, hu]
    simp [State.ctx, State.withHead]
  have put : ∀ a b, (u.putHead h a).putStatus h b = (s.putHead h a).putStatus h b := by
    intro a b
    rw [hu]
    simp [State.withHead, State.putHead, State.putStatus, State.setHeads, State.setStatuses]
  rw [← hu]
  unfold State.actHead
  dsimp only [Function.comp]
  rw [hctx, put]
  have : (u.head h).state = (f (s.ctx h)).head.state := by rw [hu]; simp [State.withHead]
  rw [this, hs]

theorem HeadCtx.sampleAt_eq (due : Nat) (reading : Option Nat) (x : HeadCtx) :
    x.sampleAt due reading =
      HeadCtx.takeDeclared x.head ((x.mapHead (Head.nextSample due)).judge (x.head.obtain reading)) := rfl

/-- One sample (R112): what the first six steps leave, and the seventh from there. -/
theorem State.sample_spec (s : State) (h : Fin 16) (due : Nat) (reading : Option Nat) :
    let x := s.head h
    let l := s.lines.heads.get h
    ∃ x' : Head, x'.sampled s.now due (x.obtain reading) (l.closedLevel && l.openLevel) x ∧
      s.actHead h (HeadCtx.sampleAt due reading) =
        (s.withHead h x' ((s.status h).joinedBy (x'.changesOf x))).actHead h (HeadCtx.takeDeclared x) := by
  intro x l
  obtain ⟨h1, h2, h3⟩ := HeadCtx.judge_sampled (x.obtain reading) due (s.ctx h)
  refine ⟨_, h1, ?_⟩
  have hs : ((((s.ctx h).mapHead (Head.nextSample due)).judge (x.obtain reading)).head.state == HeadState.safe) =
      ((s.head h).state == HeadState.safe) := by
    obtain ⟨_, _, _, _, _, _, _, r1, r2⟩ := h1
    by_cases hr : (s.ctx h).head.state = .heating ∧
        16 ≤ (((s.ctx h).mapHead (Head.nextSample due)).judge (x.obtain reading)).head.monitor.ready
    · have a := (r2 hr).1.1
      have b : (s.head h).state = .heating := hr.1
      rw [a, b]; rfl
    · have a := congrArg Head.state (r1 hr)
      dsimp only at a
      rw [a]; rfl
  have comp := State.actHead_comp (s := s) (h := h)
    (f := fun c => (c.mapHead (Head.nextSample due)).judge (x.obtain reading)) (g := HeadCtx.takeDeclared x) h3 hs
    (by
      dsimp only
      have := HeadCtx.judge_eq (x.obtain reading) due (s.ctx h)
      dsimp only at this
      rw [this, HeadCtx.moveReady_head_only])
  rw [h2] at comp
  exact comp

end Sys2Proof.Machine
end

