-- ==== Sys2Proof/Tests/Slice0.lean ====
section
/-! SUPPORT. The author's own tests: what WellFormed refuses, frames written out from the spec, one step of each command
against the spec's worked sequences, and for each statement of the obligations a state and operands that meet its hypotheses. -/

namespace Sys2Proof.Tests

open Sys2Proof Sys2Proof.Machine

/-! ### Helpers -/

/-- The next state of a step, if it answers one. -/
def nextOf (o : Host.Outcome State Fault Refusal) : Option State :=
  match o with
  | .next t => some t
  | .fault _ | .refused _ => none

/-- One field of the state after a command, if it answers a next state. -/
def after {α : Type} (i : Instr) (s : State) (f : State → α) : Option α :=
  (nextOf (exec i s)).map f

/-- The youngest reply after a command. -/
def reply (i : Instr) (s : State) : Option (Option Frame) :=
  after i s fun t => t.link.filled.getLast?

/-- A device whose store has finished its load. -/
def base : State :=
  State.reset.setStore { State.reset.store with op := .idle }

/-- A link without a free slot. -/
def fullLink : Link :=
  { filled := List.replicate 8 ⟨0x81, 0, [0]⟩ }

/-- A READY head at standby 1500 with its platen OPEN. -/
def readyHead : Head :=
  { params := { standby := 1500, binding := some (.sealing, 4) }
    state := .ready
    platen := .opened
    tempSet := 1500
    heaterCode := 30000
    monitor := { sampleTimer := some 10 } }

/-- The seal profile of section 3.9. -/
def sealProfile : List Segment :=
  [⟨.close, none, some 350, 150, false, false, false, false⟩,
   ⟨.ramp, some 1850, none, 100, false, false, false, true⟩,
   ⟨.hold, some 1850, some 350, 600, true, true, false, false⟩,
   ⟨.hold, some 1500, none, 100, false, false, true, false⟩,
   ⟨.openUp, none, none, 150, false, false, false, false⟩]

/-- Format 17 of section 3.9. -/
def format17 : Format :=
  ⟨0xFF, none, 3, ⟨1500, 2000, 25, 45⟩, true, true⟩

/-- The recipes of section 3.9. -/
def recipes : Library :=
  ⟨[(17, format17)], [(3, sealProfile)]⟩

/-- A pack of format 17 without a verdict. -/
def freshPack : Pack :=
  ⟨17, .pending, none, none, 0, false⟩

/-- A nest of eight packs of format 17. -/
def nest (serial : Nat) : Nest :=
  ⟨serial, serial, false, false, none, none, Lanes.fill freshPack⟩

/-- A line of twelve positions with nest 52 at the seal station. -/
def line : State :=
  (base.setLibrary recipes).setTrack
    { base.track with mode := .run, serial := 59, slots := (List.replicate 12 none).set 6 (some (nest 52)) }

/-- The cycle record of the seal cycle while a segment is current. -/
def runAt (current start : Nat) : Run :=
  { Run.fresh 3 sealProfile 1500 2000 (some (25, 45)) true with
    current := current
    segStart := start
    segDue := start + ((sealProfile[current]?).map Segment.duration).getD 0 }

/-- Head 5 RUNNING on lane 4 of nest 52 with a segment current. -/
def runningHead (current : Nat) (platen : PlatenState) : Head :=
  { readyHead with
    state := .running
    platen := platen
    presSet := 350
    cycle := some ⟨.pack, some (runAt current 0)⟩
    packRef := some ⟨52, 4, .sealing⟩
    closeOut := true }

/-- The line with head 5 RUNNING. -/
def sealing (current : Nat) (platen : PlatenState) : State :=
  line.putHead 5 (runningHead current platen)

/-- Head 5 PENDING with a start source. -/
def pendingHead (source : StartSource) : Head :=
  { readyHead with
    params := { readyHead.params with source := source, startDelay := 80 }
    state := .pending
    cycle := some ⟨.pack, none⟩
    packRef := some ⟨52, 4, .sealing⟩
    startTimer := some 80 }

/-- The line with head 5 PENDING. -/
def waiting (source : StartSource) : State :=
  line.putHead 5 (pendingHead source)

/-- Head 5 in a release phase. -/
def releasingHead (dest : ReleaseDest) : Head :=
  { readyHead with state := .releasing, platen := .opening, release := some ⟨1000, dest, true⟩ }

/-- The line with nest 88 at the gate and its activity in a phase. -/
def gating (punch : PunchPhase) (diverter : DiverterPhase) : State :=
  (line.setTrack
    { line.track with
      config := { line.track.config with verdictRequired := true }
      slots := (List.replicate 12 none).set 11 (some { nest 88 with
        packs := ((Lanes.fill { freshPack with verdict := .good }).set 2 { freshPack with verdict := .good, reasons := 0x20 }).set 6
          freshPack }) }).setGate
    { line.gate with
      activity := some ⟨88, punch, diverter, if diverter = .delay then none else some 0x44,
        if diverter = .delay then none else some 2⟩
      punchTimer := some 100
      diverterTimer := some 150
      windowTimer := if diverter = .delay then none else some 330 }

/-- A store operation under way. -/
def storing (op : StoreOp) : State :=
  base.setStore { base.store with op := op, due := 20 }

/-- The coefficients of section 10.7. -/
def coeffs107 : CoeffItems :=
  ⟨0xFE64, 0xFFC6, 0x05DC, 0x0016⟩

/-- A receiver that has collected the frame of TRACK-START with its check. -/
def collected (lo : Byte) : State :=
  base.setLink { base.link with receiver := .check 3 [0x10, 7, 1] [(crc16 [3, 0x10, 7, 1]).extractLsb' 8 8, lo], lastByte := some 0 }

/-- A nest is where `nestAt` finds one, so a track is numbered when its slots are. -/
theorem numbered_of_slots {t : Track} (h : 1 ≤ t.serial ∧ t.serial ≤ 65535)
    (hs : ∀ p < t.slots.length, ∀ n, t.nestAt p = some n → n.serial = (t.serial + 65533 - p) % 65535 + 1) : t.numbered := by
  refine ⟨h.1, h.2, fun p n hn => hs p ?_ n hn⟩
  by_contra hp
  simp [Track.nestAt, List.getElem?_eq_none (by omega : t.slots.length ≤ p)] at hn

/-- The line with its index MOVING: nests on their way to the seal station, the gate and out of the track, a manifest, a full
outcome queue, head 5 READY and head 6 OFFLINE. -/
def arriving : State :=
  ((line.setTrack
    { line.track with
      index := .moving
      manifests := [Lanes.fill 17]
      outcomes := List.replicate 16 (nest 1)
      slots := (((List.replicate 12 none).set 5 (some (nest 53))).set 10 (some (nest 48))).set 11 (some (nest 47)) }).putHead 5
    readyHead).putHead 6 { params := { binding := some (.sealing, 5) } }

theorem line_numbered : line.track.numbered :=
  numbered_of_slots (by decide) fun p hp => by
    have hp : p < 12 := hp
    interval_cases p <;> intro n hn <;> cases hn <;> rfl

theorem arriving_numbered : arriving.track.numbered :=
  numbered_of_slots (by decide) fun p hp => by
    have hp : p < 12 := hp
    interval_cases p <;> intro n hn <;> cases hn <;> rfl

theorem base_numbered : base.track.numbered :=
  numbered_of_slots (by decide) fun p hp => by
    have hp : p < 12 := hp
    interval_cases p <;> intro n hn <;> cases hn

/-! ### WellFormed refuses -/

/-- A PROFILE-PUT of 31 segments fits a frame; one of 32 does not (R193). -/
theorem test_wellFormed_profilePut :
    (Instr.profilePut 1 3 (List.replicate 31 ⟨2, 0, 0, 0, 1⟩)).wellFormed = true ∧
    (Instr.profilePut 1 3 (List.replicate 32 ⟨2, 0, 0, 0, 1⟩)).wellFormed = false := by decide

/-- A frame of an unknown kind is of no request kind (R186). -/
theorem test_wellFormed_unknownKind :
    (Instr.unknownKindFrame 0x10 1 []).wellFormed = false ∧ (Instr.unknownKindFrame 0x16 1 []).wellFormed = true := by
  decide

/-- A frame of an unknown kind fits a frame (R193). -/
theorem test_wellFormed_unknownPayload :
    (Instr.unknownKindFrame 0x16 1 (List.replicate 251 0)).wellFormed = false ∧
    (Instr.unknownKindFrame 0x16 1 (List.replicate 250 0)).wellFormed = true := by decide +kernel

/-! ### Frames written out from R200 and R201 -/

/-- The check of the digits 1 to 9 (R184). -/
theorem test_crc : crc16 [0x31, 0x32, 0x33, 0x34, 0x35, 0x36, 0x37, 0x38, 0x39] = 0x29B1 := by decide +kernel

theorem test_decode_trackSetup :
    decodeFrame ⟨0x02, 1, [12, 0xFF, 6, 0x03, 0xE8, 4, 3]⟩ = .request (.trackSetup 1 ⟨12, 0xFF, 6, 1000, 4, 3⟩) := by
  decide

theorem test_decode_gateSetup :
    decodeFrame ⟨0x03, 1, [0, 100, 0, 60, 0, 150, 0, 80, 0, 100]⟩ = .request (.gateSetup 1 ⟨100, 60, 150, 80, 100⟩) := by
  decide

theorem test_decode_headSetup :
    decodeFrame ⟨0x04, 1, [5, 2, 4, 1, 0, 80, 10, 0x05, 0xDC, 0x09, 0xC4, 0, 50, 0x01, 0xF4, 6, 0x03, 0xE8, 2]⟩ =
      .request (.headSetup 1 5 ⟨2, 4, 1, 80, 10, 1500, 2500, 50, 500, 6, 1000, 2⟩) := by decide

theorem test_decode_formatPut :
    decodeFrame ⟨0x08, 1, [17, 0xFF, 6, 0, 3, 0x05, 0xDC, 0x07, 0xD0, 0, 25, 0, 45, 0, 0, 0, 0, 0, 0, 0, 0]⟩ =
      .request (.formatPut 1 ⟨17, 0xFF, 6, 0, 3, ⟨1500, 2000, 25, 45⟩, ⟨0, 0, 0, 0⟩⟩) := by decide

theorem test_decode_manifestPost :
    decodeFrame ⟨0x12, 1, [9, 9, 17, 9, 9, 17, 9, 0]⟩ = .request (.manifestPost 1 ⟨9, 9, 17, 9, 9, 17, 9, 0⟩) := by
  decide

theorem test_decode_headClear : decodeFrame ⟨0x24, 1, [5]⟩ = .request (.headClear 1 5) := by decide

theorem test_decode_trackStatusTake :
    decodeFrame ⟨0x29, 1, [1, 0x3F]⟩ = .request (.trackStatusTake 1 1 0x3F) := by decide

theorem test_decode_countZero : decodeFrame ⟨0x32, 1, [1, 7]⟩ = .request (.countZero 1 1 7) := by decide

theorem test_decode_cycleOnce :
    decodeFrame ⟨0x40, 1, [5, 3, 1, 0, 25, 0, 45]⟩ = .request (.cycleOnce 1 5 ⟨3, 1, 25, 45⟩) := by decide

theorem test_decode_badLength : decodeFrame ⟨0x24, 1, []⟩ = .badLength := by decide

/-! ### Recipes: section 3.9 -/

theorem test_profile_accepted : profileFault sealProfile = none := by decide

/-- Segment 4 given pressure target 0. -/
theorem test_profile_openPressure :
    profileFault (sealProfile.set 4 ⟨.openUp, none, some 0, 150, false, false, false, false⟩) = some 4 := by decide

/-- Segment 1 given DOSE. -/
theorem test_profile_doseOnRamp :
    profileFault (sealProfile.set 1 ⟨.ramp, some 1850, none, 100, true, false, false, true⟩) = some 1 := by decide

/-- Segment 4 removed. -/
theorem test_profile_noOpen : profileFault (sealProfile.take 4) = some 0 := by decide

/-- Segment 2's DOSE flag cleared. -/
theorem test_profile_noDose :
    profileFault (sealProfile.set 2 ⟨.hold, some 1850, some 350, 600, false, true, false, false⟩) = some 1 := by decide

/-- Segment 0 with limit 30, and segment 2 with duration 12000. -/
theorem test_profile_timing :
    profileFault (sealProfile.set 0 ⟨.close, none, some 350, 30, false, false, false, false⟩) = some 0 ∧
    profileFault (sealProfile.set 2 ⟨.hold, some 1850, some 350, 12000, true, true, false, false⟩) = some 2 := by
  decide

/-- A temperature target of 3200, and profile id 25. -/
theorem test_profilePut_badValue :
    reply (.profilePut 1 3 [⟨2, 0x10, 3200, 0, 100⟩]) base = some (some ⟨0x8A, 1, [3, 0, 0]⟩) ∧
    reply (.profilePut 1 25 [⟨2, 0, 0, 0, 100⟩]) base = some (some ⟨0x8A, 1, [3, 0, 0]⟩) := by decide

/-- An IN_USE of PROFILE-DROP carries the code that names it (section 3.11). -/
theorem test_profileDrop_inUse :
    reply (.profileDrop 1 3) line = some (some ⟨0x8B, 1, [6, 0, 17]⟩) := by decide

theorem test_formatPut_replaces :
    reply (.formatPut 1 ⟨17, 0xFF, 6, 0, 3, ⟨1500, 2000, 28, 45⟩, ⟨0, 0, 0, 0⟩⟩) line =
      some (some ⟨0x88, 1, [0, 1, 1]⟩) := by decide

theorem test_formatDrop_onTrack : reply (.formatDrop 1 17) line = some (some ⟨0x89, 1, [6, 0, 2]⟩) := by decide

/-! ### Setpoints: sections 5.9 and 5.10 -/

theorem test_correction_ordinary :
    correctedCode .heater coeffs107 1850 = (36927, false) ∧ correctedCode .pressure coeffs107 350 = (22534, false) := by
  decide

theorem test_correction_limits :
    correctedCode .heater ⟨32767, 32767, 0, 0⟩ 3000 = (65535, true) ∧
    correctedCode .heater ⟨0, BitVec.ofInt 16 (-800), 0, 0⟩ 5 = (0, true) ∧
    correctedCode .heater ⟨0, BitVec.ofInt 16 (-800), 0, 0⟩ 0 = (0, false) := by decide

theorem test_correction_halfUp :
    correctedCode .heater ⟨0, 2, 0, 0⟩ 1000 = (20001, false) ∧
    correctedCode .heater ⟨0, BitVec.ofInt 16 (-2), 0, 0⟩ 1000 = (20000, false) := by decide

/-- The second and third ramps of section 5.9. -/
theorem test_rampValue : rampValue 1850 1500 290 300 = 1512 ∧ rampValue 1000 1100 10 25 = 1040 := by decide

/-- The step at 92 ms of section 5.11. -/
theorem test_rampStep :
    after (.rampStep 5)
      (line.putHead 5 { runningHead 1 .closed with
        coeffs := coeffs107, tempSet := 1570, ramp := some ⟨62, 100, 30, some (1500, 1850), none⟩ })
      (fun t => ((t.head 5).tempSet, (t.head 5).heaterCode, t.now)) = some (1605, 32035, 92) := by decide

/-! ### Cycles: sections 4.13 and 4.14 -/

/-- The CLOSED edge at 62 ms begins the ramp and records the closure time. -/
theorem test_closedEdge :
    after (.platenClosedEdge 5 false) ((sealing 0 .closing).setNow 62)
      (fun t => ((t.head 5).platen, (t.head 5).run?.map Run.current, (t.head 5).run?.bind Run.closure)) =
        some (.closed, some 1, some 62) := by decide

/-- The end of the CLOSE limit ends the cycle CLOSE_LATE in a release phase. -/
theorem test_closeLimit :
    after (.closeLimitExpiry 5) (sealing 0 .closing)
      (fun t => ((t.head 5).state, (t.head 5).release.map Release.dest, t.now)) = some (.releasing, some .ready, 150) := by
  decide

theorem test_segmentExpiry :
    after (.segmentExpiry 5) (sealing 3 .closed)
      (fun t => ((t.head 5).run?.map Run.current, (t.head 5).platen, (t.head 5).presSet)) =
        some (some 4, .opening, 0) := by decide

/-- The OPEN limit leads to SAFE with PLATEN_STUCK and HEAD_SAFE. -/
theorem test_openLimit :
    after (.openLimitExpiry 5) (sealing 4 .opening) (fun t => ((t.head 5).state, t.causes)) = some (.safe, 0x44) := by
  decide

/-- The OPEN edge of the last segment completes the cycle: READY at standby, the result in the pack. -/
theorem test_openEdge :
    after (.platenOpenEdge 5 false) (sealing 4 .opening)
      (fun t => ((t.head 5).state, (t.head 5).cycle, (t.track.resultAt ⟨52, 4, .sealing⟩).map StationResult.reason)) =
        some (.ready, none, some .complete) := by decide

theorem test_virtualEdge :
    after (.virtualEdgeExpiry 5)
      (line.putHead 5 { runningHead 0 .closing with
        params := { readyHead.params with loopMode := .dry }, virtual := some (.closed, 100) })
      (fun t => ((t.head 5).platen, (t.head 5).virtual, t.now)) = some (.closed, none, 100) := by decide

/-- An INDEX-START during a cycle ends it OVERRUN; the platen is not OPEN. -/
theorem test_indexStart_overrun :
    after .indexStart (sealing 2 .closed)
      (fun t => (t.causes, (t.track.resultAt ⟨52, 4, .sealing⟩).map StationResult.reason, (t.head 5).counters.failed)) =
        some (0x02, some .overrun, 1) := by decide +kernel

theorem test_releaseExpiry :
    after (.releaseOpenLimitExpiry 5) (line.putHead 5 (releasingHead .ready))
      (fun t => ((t.head 5).state, (t.head 5).release, t.causes)) = some (.safe, none, 0x44) := by decide

theorem test_startLine :
    after (.startLineEdge 5) (waiting .line) (fun t => ((t.head 5).state, (t.head 5).presSet)) = some (.running, 350) := by
  decide

theorem test_startDelay :
    after (.startDelayExpiry 5) (waiting .delayed) (fun t => ((t.head 5).state, t.now)) = some (.running, 80) := by
  decide

theorem test_startLimit :
    after (.startLimitExpiry 5) (waiting .line)
      (fun t => ((t.head 5).state, (t.track.resultAt ⟨52, 4, .sealing⟩).map StationResult.reason)) =
        some (.ready, some .startTimeout) := by decide

/-! ### Requests on a head -/

theorem test_headSetup_clamps :
    reply (.headSetup 1 5 ⟨2, 4, 0, 0, 4, 1500, 2500, 301, 500, 6, 1000, 0⟩) base =
      some (some ⟨0x84, 1, [0, 5, 0x01, 0x2C]⟩) := by decide

theorem test_headOnline :
    reply (.headOnline 1 5) (base.putHead 5 { params := { standby := 1500 }, platen := .opened }) =
      some (some ⟨0xA0, 1, [0, 2]⟩) := by decide

theorem test_headOffline :
    after (.headOffline 1 5) (line.putHead 5 readyHead) (fun t => ((t.head 5).state, (t.head 5).heaterCode)) =
      some (.offline, 0) := by decide

theorem test_headHalt :
    after (.headHalt 1 5) (waiting .delayed) (fun t => ((t.head 5).state, (t.status 5).pending.code)) =
      some (.ready, 1) := by decide

theorem test_headCancel :
    after (.headCancel 1 5) (waiting .delayed) (fun t => ((t.head 5).state, (t.status 5).pending)) =
      some (.ready, .empty) := by decide

theorem test_headClear :
    reply (.headClear 1 5) (sealing 2 .closed) = some (some ⟨0xA4, 1, [0, 1]⟩) := by decide

theorem test_headRelease :
    reply (.headRelease 1 5) (line.putHead 5 { readyHead with state := .safe, tempSet := 0 }) =
      some (some ⟨0xA5, 1, [0, 2]⟩) := by decide

theorem test_headEnables_alerts :
    after (.headEnables 1 5 0x04 0) (base.putStatus 5 { changed := 0x04 })
      (fun t => ((t.status 5).pending, (t.status 5).owed, (t.head 5).params.autoReject)) = some (.alert, true, false) := by
  decide

theorem test_headQuery_length :
    (reply (.headQuery 1 5) line).map (fun f => f.map fun g => g.payload.length) = some (some 50) := by decide

theorem test_inject : reply (.inject 1 5 32) (line.putHead 5 readyHead) = some (some ⟨0xC1, 1, [0, 0]⟩) := by
  decide

/-- CYCLE-ONCE is refused WRONG_MODE in RUN (R170). -/
theorem test_cycleOnce :
    reply (.cycleOnce 1 5 ⟨3, 0, 0, 0⟩) (line.putHead 5 readyHead) = some (some ⟨0xC0, 1, [4]⟩) ∧
    after (.cycleOnce 1 5 ⟨3, 0, 0, 0⟩) ((base.setLibrary recipes).putHead 5 readyHead)
      (fun t => ((t.head 5).state, (t.head 5).platen)) = some (.running, .closing) := by decide

/-! ### The track: sections 1.10, 1.11, 2.4 and 2.6 -/

/-- The third entry of section 1.10: a nest without a manifest enters with the next serial number. -/
theorem test_indexDone :
    after .indexDone (base.setTrack { base.track with mode := .run, index := .moving, serial := 3, indexCount := 2 })
      (fun t => ((t.track.nestAt 0).map fun n => (n.serial, n.entryCount, n.noManifest), t.track.serial,
        t.trackStatus.changed)) = some (some (3, 3, true), 4, 0x02) := by decide

theorem test_stall :
    after .stallExpiry (base.setTrack { base.track with index := .moving, stallTimer := some 1000 })
      (fun t => (t.causes, t.trackStatus.changed, t.now)) = some (0x01, 0x10, 1000) := by decide

theorem test_holdRelease :
    reply (.holdRelease 1) (base.setCauseSet 0x41) = some (some ⟨0x95, 1, [0, 0x40]⟩) := by decide

theorem test_trackSetup_inUse :
    reply (.trackSetup 1 ⟨12, 0xFF, 6, 1000, 4, 0⟩)
      (base.putHead 0 { params := { binding := some (.form, 0) } }) = some (some ⟨0x82, 1, [6]⟩) := by decide

theorem test_trackStart_loading : reply (.trackStart 1 0) State.reset = some (some ⟨0x90, 1, [15]⟩) := by decide

theorem test_trackStop :
    reply (.trackStop 1) line = some (some ⟨0x91, 1, [0, 1]⟩) := by decide +kernel

theorem test_step :
    after (.step 1) (base.setTrack { base.track with mode := .test })
      (fun t => (t.track.index, t.track.steps, t.link.reserved)) = some (.moving, [1], [⟨0x42, 1⟩]) := by decide +kernel

theorem test_syntheticIndexDone :
    after .syntheticIndexDone
      ((base.setTrack { base.track with mode := .test, index := .moving, steps := [1], serial := 40 }).setLink
        { base.link with reserved := [⟨0x42, 9⟩] })
      (fun t => (t.track.index, t.link.filled)) = some (.dwell, [⟨0xC2, 9, [0, 0, 40]⟩]) := by decide

theorem test_manifestPost : reply (.manifestPost 1 (Lanes.fill 17)) line = some (some ⟨0x92, 1, [0, 1, 0]⟩) := by
  decide

/-- The first lane that fails is the one reported (R26). -/
theorem test_manifestPost_lane :
    reply (.manifestPost 1 ⟨0, 17, 9, 17, 9, 0, 0, 0⟩) line = some (some ⟨0x92, 1, [8, 0, 2]⟩) := by decide

theorem test_manifestFlush :
    after (.manifestFlush 1) (base.setTrack { base.track with manifests := List.replicate 5 (Lanes.fill 17) })
      (fun t => (t.track.manifests.length, t.trackStatus.changed)) = some (0, 0x20) := by decide

/-- The first verdict of section 2.6. -/
theorem test_verdict : reply (.verdict 1 52 0x04 3) line = some (some ⟨0x94, 1, [0, 1]⟩) := by decide

/-- A verdict after the decision (section 2.6). -/
theorem test_verdict_late :
    reply (.verdict 1 88 0x81 4) (gating .done .window) = some (some ⟨0x94, 1, [13, 2]⟩) := by decide

theorem test_trackQuery_length :
    (reply (.trackQuery 1) line).map (fun f => f.map fun g => g.payload.length) = some (some 68) := by decide

theorem test_nestQuery :
    (reply (.nestQuery 1 52) line).map (fun f => f.map fun g => (g.payload.length, g.payload.take 4)) =
      some (some (195, [0, 6, 0, 52])) := by decide +kernel

/-! ### The gate: sections 7.10 and 7.11 -/

theorem test_gateSetup_badValue :
    reply (.gateSetup 1 ⟨100, 9, 150, 80, 100⟩) base = some (some ⟨0x83, 1, [3]⟩) := by decide

theorem test_punchDelay :
    after .punchDelayExpiry (gating .delay .delay) (fun t => (t.gate.punchOut, t.gate.punchTimer)) =
      some (true, some 160) := by decide

theorem test_punchWidth :
    after .punchWidthExpiry (gating .asserted .delay) (fun t => (t.gate.punchOut, t.gate.activity.map GateActivity.punch)) =
      some (false, some .done) := by decide

/-- The decision at 150 ms: a pack with a reason and a PENDING one are diverted. -/
theorem test_diverterDelay :
    after .diverterDelayExpiry (gating .asserted .delay) (fun t => (t.gate.diverterOut, t.gate.diverterTimer, t.gate.windowTimer)) =
      some (0x44, some 230, some 330) := by decide

theorem test_diverterWidth :
    after .diverterWidthExpiry (gating .done .pulse) (fun t => (t.gate.diverterOut, t.gate.activity.map GateActivity.diverter)) =
      some (0, some .window) := by decide

theorem test_confirmEdge :
    after .rejectConfirmEdge (gating .done .window) (fun t => t.gate.activity.bind GateActivity.confirm) = some (some 3) := by
  decide

/-- Two edges for two lanes agree; the count stands in the record. -/
theorem test_confirmWindow :
    after .confirmWindowExpiry (gating .done .window)
      (fun t => ((t.track.nestAt 11).bind Nest.confirm, t.causes, t.gate.activity.map GateActivity.diverter)) =
        some (some 2, 0, some .done) := by decide

/-- The cut at 1000 ms of section 7.11. -/
theorem test_gateCut :
    after .indexStart (gating .asserted .window)
      (fun t => (t.gate.punchOut, (t.track.nestAt 11).bind Nest.confirm, t.causes, t.trackStatus.changed)) =
        some (false, some 2, 0x10, 0x18) := by decide +kernel

/-! ### Samples: sections 6.5 and 6.7 -/

/-- The thirty-second low sample declares LOW, and the eighth sample that is not low clears it. -/
theorem test_lowRun :
    moveRun false true 32 31 0 = ⟨0, 0, some true⟩ ∧ moveRun true false 32 0 7 = ⟨0, 0, some false⟩ := by decide

/-- The first two counting samples of section 6.7. -/
theorem test_dose :
    ((Run.addDose 10 (some 1875) (Run.addDose 10 (some 1862) (Run.fresh 3 [] 1500 2000 none true))).dose = 7370) ∧
    (Run.addDose 10 (some 2034) (Run.fresh 3 [] 1500 2000 none true)).dose = 5000 := by decide

/-- A fault sample declares SENSOR and sends the head to SAFE. -/
theorem test_sample_sensor :
    after (.sample 5 none false true) (line.putHead 5 readyHead)
      (fun t => ((t.head 5).state, (t.head 5).monitor.live, (t.head 5).monitor.sampleTimer, t.causes)) =
        some (.safe, 0x04, some 20, 0x40) := by decide

theorem test_sample_ready :
    after (.sample 5 (some 1490) false true)
      (line.putHead 5 { readyHead with state := .heating, monitor := { sampleTimer := some 10, ready := 15 } })
      (fun t => (t.head 5).state) = some .ready := by decide

/-! ### Status: sections 8.9 and 8.10 -/

/-- The first take of section 8.10 moves the held PRIMARY up and owes a notice. -/
theorem test_statusTake :
    after (.statusTake 1 11)
      (base.putStatus 11 { pending := .alert, held := some ⟨1, 0x0200, none, none, 1⟩, changed := 0x02, enable := 0x02, owed := true })
      (fun t => t.status 11) = some ⟨.solicited ⟨1, 0x0200, none, none, 1⟩, none, 0, 0x02, true⟩ := by decide

theorem test_trackStatusTake :
    reply (.trackStatusTake 1 0 0) ((base.setTrackStatus ⟨0x12, 0x3F, true⟩).setCauseSet 0x80) =
      some (some ⟨0xA9, 1, [0, 0x12, 0x07]⟩) := by decide

/-! ### Counters: section 6.9 -/

theorem test_countSnapshot :
    after (.countSnapshot 1) (base.putHead 7 { counters := { deviations := 1204 } }) (fun t => (t.head 7).held.deviations) =
      some 1204 := by decide

theorem test_countRead :
    reply (.countRead 1 7) (base.putHead 7 { held := ⟨1204, 3, 5880, 12, 41, 88⟩ }) =
      some (some ⟨0xB1, 1, [0, 7, 0x04, 0xB4, 0, 3, 0, 0, 0x16, 0xF8, 0, 12, 0, 41, 0, 88]⟩) := by decide

theorem test_countZero :
    after (.countZero 1 0 7) (base.putHead 7 { counters := { deviations := 65535 }, monitor := { live := 0x10 } })
      (fun t => ((t.head 7).counters.deviations, (t.head 7).monitor.live, (t.status 7).changed)) = some (0, 0, 0x10) := by
  decide

/-! ### The store: section 10.7 -/

theorem test_coeffCheck : formCheck coeffs107 = 64481 := by decide

theorem test_coeffWrite_offline :
    reply (.coeffWrite 1 5 coeffs107) (base.putHead 5 readyHead) = some (some ⟨0xB9, 1, [5]⟩) := by decide

theorem test_coeffRead_busy :
    reply (.coeffRead 1 9) (storing (.writing 5 coeffs107)) =
      some (some ⟨0xB8, 1, [14, 0, 0, 0, 0, 0, 0, 0, 0, 0, 0]⟩) := by decide

theorem test_storeQuery :
    reply (.storeQuery 1) (base.setStore { base.store with op := .writing 5 coeffs107, lastWrite := some 5 }) =
      some (some ⟨0xBA, 1, [0, 3, 0, 3, 5, 5]⟩) := by decide

theorem test_coeffWriteEnd :
    after .coeffWriteEnd ((storing (.writing 5 coeffs107)).putHead 5 { monitor := { live := 0x20 } })
      (fun t => ((t.head 5).coeffs, (t.head 5).monitor.live, (t.status 5).changed, (t.store.records.get 5).check)) =
        some (coeffs107, 0, 0x20, 64481) := by decide

theorem test_coeffReadEnd :
    after .coeffReadEnd
      (((storing (.reading 5)).setStore { (storing (.reading 5)).store with records := base.store.records.set 5 ⟨coeffs107, 64481⟩ }).setLink
        { base.link with reserved := [⟨0x38, 9⟩] })
      (fun t => t.link.filled) = some [⟨0xB8, 9, [0, 5, 0xFE, 0x64, 0xFF, 0xC6, 0x05, 0xDC, 0, 0x16, 1]⟩] := by
  decide

/-- The sixteenth judgement ends the load: a record of a new part is invalid and UNCAL is live. -/
theorem test_loadRecord :
    after .loadRecordJudged (storing (.loading (List.replicate 15 none)))
      (fun t => (t.store.op, (t.head 15).monitor.live, (t.status 15).changed)) = some (.idle, 0x20, 0x20) := by decide +kernel

/-! ### The link: section 11.7 and R183 to R190 -/

theorem test_frameReceived :
    after .frameReceived (collected ((crc16 [3, 0x10, 7, 1]).extractLsb' 0 8)) (fun t => (t.track.mode, t.link.filled)) =
      some (.test, [⟨0x90, 7, [0]⟩]) := by decide +kernel

theorem test_gap :
    after .receiveGapTimeout (base.setLink { base.link with receiver := .length, lastByte := some 0 })
      (fun t => (t.link.receiver, t.now)) = some (.hunt, 6) := by decide

theorem test_byte :
    after (.byteReceived 0x5A true) (base.setLink { base.link with receiver := .sync, lastByte := some 0 })
      (fun t => t.link.receiver) = some .length := by decide

theorem test_unknownKind : reply (.unknownKindFrame 0x16 9 []) base = some (some ⟨0xFF, 9, [1]⟩) := by decide

theorem test_transmitBegin :
    after (.transmitBegin false) (base.putStatus 3 { owed := true, pending := .alert })
      (fun t => (t.link.sending.map Sending.frame, (t.status 3).owed)) = some (some ⟨0xE0, 0, [3, 2]⟩, false) := by
  decide

theorem test_lastByte :
    after .messageLastByte
      (base.setLink { base.link with filled := [⟨0x81, 1, [0]⟩], sending := some ⟨⟨0x81, 1, [0]⟩, .reply, 1⟩ })
      (fun t => (t.link.filled, t.link.sending)) = some ([], none) := by decide

theorem test_partReset :
    after (.partReset 9) (sealing 2 .closed)
      (fun t => ((t.head 5).state, (t.head 5).platen, t.link.filled, t.track.mode, t.library.formats.length)) =
        some (.offline, .opening, [⟨0x81, 9, [0]⟩], .halted, 1) := by decide

theorem test_deviceReset :
    after (.deviceReset 0x0020 0) (sealing 2 .closed)
      (fun t => ((t.head 5).platen, (t.head 4).platen, t.track.mode, t.library.formats.length)) =
        some (.opened, .unknown, .halted, 0) := by decide

/-! ### The step -/

theorem test_step_takesFront :
    (nextOf (step (base.setPending [.trackStart 7 0, .trackQuery 8]))).map (fun t => (t.track.mode, t.pending)) =
      some (.run, [.trackQuery 8]) := by decide

theorem test_step_idle : (nextOf (step State.reset)).map State.now = some 1 := by decide

theorem test_step_due :
    (nextOf (step (State.reset.setNow 3))).map (fun t => t.store.op) = some (.loading [none]) := by decide

/-! ### Witnesses: the hypotheses of each statement are met, each clause by a state and operands of its own -/

theorem base_takesNow : base.takesNow := by
  unfold State.takesNow; decide

/-- A request finds the buffer empty and a slot free, also with seven slots in use. -/
theorem witness_takesNow :
    base.takesNow ∧ (base.setLink { base.link with filled := List.replicate 7 ⟨0x81, 0, [0]⟩ }).takesNow := by
  unfold State.takesNow; decide

theorem witness_StepTakesFrontCommand :
    (base.setPending [.trackQuery 1]).pending = .trackQuery 1 :: [] := by decide

/-- Nothing due at 0 ms, the first judgement at 3 ms, and with a reply waiting two events. -/
theorem witness_EmptyQueueTakesDueEvent :
    State.reset.pending = [] ∧ State.reset.dueNow = [] ∧
    (State.reset.setNow 3).pending = [] ∧ (State.reset.setNow 3).dueNow = [.loadRecordJudged] ∧
    (let s := (State.reset.setNow 3).setLink { State.reset.link with filled := [⟨0x81, 1, [0]⟩] }
     s.pending = [] ∧ s.dueNow.length = 2) := by decide

/-- At its expiry a timer is due and a millisecond before it is not; a timer of another phase is not; the transmitter has nothing to
begin while host-hold is active. -/
theorem witness_EmptyQueueTakesDueEvent_due :
    let s := gating .done .pulse
    (s.setNow 330).hasDue .confirmWindowExpiry ∧ ¬(s.setNow 329).hasDue .confirmWindowExpiry ∧
    ¬(s.setNow 330).hasDue .diverterDelayExpiry ∧
    ((sealing 3 .closed).setNow 100).hasDue (.segmentExpiry 5) ∧ ¬((sealing 3 .closed).setNow 99).hasDue (.segmentExpiry 5) ∧
    ((waiting .line).setNow 80).hasDue (.startLimitExpiry 5) ∧ ¬((waiting .delayed).setNow 80).hasDue (.startLimitExpiry 5) ∧
    (let t := base.setTrackStatus { owed := true }
     t.hasDue (.transmitBegin false) ∧
       ¬(t.setLines { t.lines with hostHold := true }).hasDue (.transmitBegin false)) ∧
    ¬base.hasDue .indexStart := by
  refine ⟨⟨⟨_, rfl, .inl rfl⟩, 330, rfl, Nat.le_refl _⟩, ?_, ?_, ?_, ?_, ?_, ?_, ⟨?_, ?_⟩, id⟩
  · rintro ⟨-, t, h, l⟩; cases h; exact absurd l (by decide)
  · rintro ⟨⟨a, h, d⟩, -⟩; cases h; cases d
  · exact .inl ⟨_, _, rfl, rfl, rfl, Nat.le_refl _⟩
  · rintro (⟨r, g, h, hg, k, l⟩ | ⟨r, g, h, hg, k, l⟩) <;> cases h <;> exact absurd l (by decide)
  · exact ⟨rfl, rfl, 80, rfl, Nat.le_refl _⟩
  · rintro ⟨-, h, -⟩; cases h
  · exact ⟨rfl, rfl, rfl, .inr (.inr (.inr rfl))⟩
  · rintro ⟨h, -⟩; cases h

/-- The longest PROFILE-PUT that fits a frame. -/
theorem witness_RequestFramesRoundTrip :
    let i := Instr.profilePut 1 3 (List.replicate 31 ⟨2, 0, 0, 0, 1⟩)
    i.wellFormed = true ∧ (encodeFrame i).isSome = true ∧ (encodeFrame i).any (fun f => f.kind ∈ requestKinds) = true := by
  decide

theorem witness_JudgedFramesAreRequests :
    decodeFrame ⟨0x10, 7, [1]⟩ = .request (.trackStart 7 1) ∧ (0x43#8) ∉ requestKinds := by decide

theorem witness_WireFramesAreReceived :
    (List.replicate 250 (0xA5#8)).length ≤ 250 ∧ base.link.receiver = .hunt := by decide +kernel

/-- Each receiver state, the gap's two sides, and both branches of BODY. -/
theorem witness_ByteMovesReceiver :
    let at_ := fun (r : Receiver) (now : Nat) =>
      (base.setLink { base.link with receiver := r, lastByte := some 0 }).setNow now
    let inTime := fun s : State => s.link.receiver.complete = none ∧ s.link.lastByte = some 0 ∧ s.now ≤ 0 + 5
    base.link.receiver.complete = none ∧ base.link.receiver = .hunt ∧
    ((at_ .sync 6).link.receiver.complete = none ∧ (at_ .sync 6).link.lastByte = some 0 ∧ 0 + 5 < (at_ .sync 6).now) ∧
    inTime (at_ .sync 5) ∧ inTime (at_ .length 5) ∧
    (inTime (at_ (.body 2 []) 5) ∧ ([] : List Byte).length + 1 < 2) ∧
    (inTime (at_ (.body 252 (List.replicate 251 0)) 5) ∧ (List.replicate 251 (0 : Byte)).length + 1 = 252) ∧
    inTime (at_ (.check 2 [0x2B, 1] []) 5) ∧ inTime (at_ (.check 2 [0x2B, 1] [7]) 5) := by
  decide +kernel

/-- A collected frame with an agreeing check and with another one; a full set of slots; a frame of each judgement. -/
theorem witness_CollectedFrameIsJudged :
    (collected ((crc16 [3, 0x10, 7, 1]).extractLsb' 0 8)).link.receiver.complete = some (⟨0x10, 7, [1]⟩, true) ∧
    (collected (~~~((crc16 [3, 0x10, 7, 1]).extractLsb' 0 8))).link.receiver.complete = some (⟨0x10, 7, [1]⟩, false) ∧
    (collected ((crc16 [3, 0x10, 7, 1]).extractLsb' 0 8)).takesNow ∧
    decodeFrame ⟨0x10, 7, [1]⟩ = .request (.trackStart 7 1) ∧ decodeFrame ⟨0x16, 7, [1]⟩ = .unknownKind ∧
    decodeFrame ⟨0x10, 7, []⟩ = .badLength ∧
    (let s := base.setLink { fullLink with receiver := .check 3 [0x10, 7, 1] [(crc16 [3, 0x10, 7, 1]).extractLsb' 8 8,
        (crc16 [3, 0x10, 7, 1]).extractLsb' 0 8] }
     s.link.receiver.complete = some (⟨0x10, 7, [1]⟩, true) ∧ 8 ≤ s.link.reserved.length + s.link.filled.length) := by
  unfold State.takesNow; decide +kernel

theorem witness_FramesWaitOrAreAnswered :
    encodeFrame (.trackQuery 1) = some ⟨0x2B, 1, []⟩ ∧
    8 ≤ (base.setLink fullLink).link.reserved.length + (base.setLink fullLink).link.filled.length ∧
    base.takesNow ∧ (0x43#8) ∉ requestKinds := by
  unfold State.takesNow; decide

/-- Each of the four sources, nothing to send, and a busy transmitter. -/
theorem witness_TransmitterChoosesInOrder :
    (base.setLink { base.link with sending := some ⟨⟨0x81, 1, [0]⟩, .reply, 1⟩ }).link.sending.isSome ∧
    base.link.sending = none ∧
    (base.setLink { base.link with filled := [⟨0x81, 1, [0]⟩] }).link.filled = ⟨0x81, 1, [0]⟩ :: [] ∧
    base.link.filled = [] ∧
    (base.setTrack { base.track with outcomes := [nest 1] }).track.outcomes = nest 1 :: [] ∧
    base.track.outcomes = [] ∧
    (let s := base.putStatus 15 { owed := true }
     (s.status 15).owed = true ∧ ∀ h' < (15 : Fin 16), (s.status h').owed = false) ∧
    (∀ h, (base.status h).owed = false) ∧
    (base.setTrackStatus { owed := true }).trackStatus.owed = true ∧ base.trackStatus.owed = false := by decide

/-- Each source with an empty buffer; a full link whose buffer holds a request, a PART-RESET, an unknown kind and a wrong
length; five reports and more. -/
theorem witness_LastByteActsOnSource :
    let sends := fun (src : Source) => base.setLink { base.link with sending := some ⟨⟨0xE2, 0, []⟩, src, 1⟩ }
    let holds := fun (f : Frame) => base.setLink { fullLink with sending := some ⟨⟨0x81, 0, [0]⟩, .reply, 1⟩, buffer := [f, f] }
    (∀ src, (sends src).link.sending = some ⟨⟨0xE2, 0, []⟩, src, 1⟩ ∧ (sends src).link.buffer = []) ∧
    (∀ f, (holds f).link.buffer = [f, f] ∧ (holds f).link.filled ≠ [] ∧
      (holds f).link.reserved.length + (holds f).link.filled.length = 8) ∧
    decodeFrame ⟨0x10, 7, [1]⟩ = .request (.trackStart 7 1) ∧ decodeFrame ⟨0x01, 7, []⟩ = .request (.partReset 7) ∧
    decodeFrame ⟨0x7F, 7, []⟩ = .unknownKind ∧ decodeFrame ⟨0x10, 7, []⟩ = .badLength ∧
    ((sends .report).setTrack { base.track with outcomes := List.replicate 5 (nest 1) }).track.outcomes.length = 5 ∧
    (sends .report).causes &&& 0x80 = 0 ∧
    ((sends .report).setTrack { base.track with outcomes := List.replicate 16 (nest 1) }).track.outcomes.length ≠ 5 := by
  refine ⟨fun src => ⟨rfl, rfl⟩, fun f => ⟨rfl, nofun, rfl⟩, ?_⟩
  decide

/-- A device reset in the middle of a write, and one outside it. -/
theorem witness_DeviceResetSetsEveryBlock :
    (storing (.writing 5 coeffs107)).store.op = .writing 5 coeffs107 ∧ ∀ h c, base.store.op ≠ .writing h c :=
  ⟨rfl, fun _ _ h => by cases h⟩

theorem witness_PartResetSetsEveryBlock :
    (storing (.reading 5)).takesNow ∧ (storing (.reading 5)).store.op = .reading 5 ∧
    base.takesNow ∧ ∀ h, base.store.op ≠ .reading h :=
  ⟨by unfold State.takesNow; decide, rfl, base_takesNow, fun _ h => by cases h⟩

/-- A message in progress from each source, and none. -/
theorem witness_PartResetSetsEveryBlock_sending :
    (∀ src ∈ [Source.reply, .report, .notice, .removed],
      let s := base.setLink { base.link with sending := some ⟨⟨0xE2, 0, []⟩, src, 1⟩ }
      s.takesNow ∧ s.link.sending = some ⟨⟨0xE2, 0, []⟩, src, 1⟩) ∧ base.link.sending = none := by
  unfold State.takesNow; decide

/-- A reply in progress is marked removed and a notice is not (R189, R190). -/
theorem test_partReset_sending :
    (∀ p ∈ [(Source.reply, Source.removed), (.report, .removed), (.notice, .notice)],
      after (.partReset 9) (base.setLink { base.link with sending := some ⟨⟨0xE2, 0, []⟩, p.1, 1⟩ })
        (fun t => t.link.sending.map Sending.source) = some (some p.2)) := by decide

/-- The shortest and the longest track, a value out of range, a mode that refuses, and a head bound to FORM. -/
theorem witness_TrackSetupReplacesConfiguration :
    let good := fun r : TrackSetupReq => 4 ≤ r.length.toNat ∧ r.length.toNat ≤ 24 ∧
      (r.form = 0xFF ∨ r.form.toNat + 3 ≤ r.length.toNat ∧ r.form.toNat < r.sealPos.toNat) ∧
      1 ≤ r.sealPos.toNat ∧ r.sealPos.toNat + 2 ≤ r.length.toNat ∧
      100 ≤ r.stallLimit.toNat ∧ r.stallLimit.toNat ≤ 3000 ∧
      (r.threshold = 0 ∨ r.threshold = 2 ∨ r.threshold = 4 ∨ r.threshold = 8)
    base.takesNow ∧ base.track.mode = .halted ∧ line.takesNow ∧ line.track.mode ≠ .halted ∧
    good ⟨4, 1, 2, 100, 0, 0⟩ ∧ good ⟨24, 0xFF, 22, 3000, 8, 3⟩ ∧ ¬good ⟨24, 0xFF, 23, 3000, 8, 3⟩ ∧
    (let s := base.putHead 0 { params := { binding := some (.form, 7) } }
     s.takesNow ∧ s.track.mode = .halted ∧ ∃ h lane, (s.head h).params.binding = some (.form, lane)) ∧
    ¬∃ h lane, (base.head h).params.binding = some (.form, lane) := by
  unfold State.takesNow; decide

/-- A count at, below and above the threshold, and a threshold OFF (R30). -/
theorem witness_runsLow :
    let at' := fun (n : Nat) (k : Option Nat) =>
      { base.track with manifests := List.replicate n (Lanes.fill 17), config := { base.track.config with threshold := k } }
    (at' 4 (some 4)).runsLow = true ∧ (at' 0 (some 2)).runsLow = true ∧ (at' 5 (some 4)).runsLow = false ∧
    (at' 0 none).runsLow = false := by decide

theorem witness_GateSetupReplacesConfiguration :
    let good := fun r : GateSetupReq => r.punchDelay.toNat ≤ 1000 ∧ 10 ≤ r.punchWidth.toNat ∧ r.punchWidth.toNat ≤ 500 ∧
      r.diverterDelay.toNat ≤ 2000 ∧ 20 ≤ r.diverterWidth.toNat ∧ r.diverterWidth.toNat ≤ 500 ∧
      r.confirmGrace.toNat ≤ 500
    base.takesNow ∧ base.track.mode = .halted ∧ line.takesNow ∧ line.track.mode ≠ .halted ∧
    good ⟨0, 10, 0, 20, 0⟩ ∧ good ⟨1000, 500, 2000, 500, 500⟩ ∧ ¬good ⟨0, 9, 0, 20, 0⟩ := by
  unfold State.takesNow; decide

theorem witness_TrackStartAndStop :
    (∀ l, base.store.op ≠ .loading l) ∧ (∃ l, State.reset.store.op = .loading l) ∧
    base.takesNow ∧ base.track.mode = .halted ∧
    State.reset.takesNow ∧ State.reset.track.mode = .halted ∧
    line.takesNow ∧ line.track.mode ≠ .halted ∧ (sealing 2 .closed).takesNow ∧ ((sealing 2 .closed).head 5).cycle ≠ none := by
  refine ⟨fun l h => ?_, ⟨[], rfl⟩, ?_⟩
  · cases h
  · unfold State.takesNow; decide

/-- No head in SAFE has a cycle: where a head has one and runs it, and where a head is in SAFE. -/
theorem witness_cyclesOutsideSafe :
    (sealing 2 .closed).cyclesOutsideSafe ∧ (sealing 2 .closed).takesNow ∧ (sealing 2 .closed).track.mode ≠ .halted ∧
    (let s := line.putHead 5 { readyHead with state := .safe }
     s.cyclesOutsideSafe ∧ (s.head 5).state = .safe) := by
  unfold State.cyclesOutsideSafe State.takesNow; decide

/-- What a post and a return of a cause do to HOLD_CHANGED: the set becomes non-empty, stays so, and becomes empty (R21). -/
theorem witness_holdFollows :
    let at' := fun (causes changed : Byte) => (base.setCauseSet causes).setTrackStatus ⟨changed, 0, false⟩
    (at' 0 0).holdFollows (at' 4 0x10) ∧ ¬(at' 0 0).holdFollows (at' 4 0) ∧ (at' 2 0).holdFollows (at' 6 0) ∧
    ¬(at' 2 0).holdFollows (at' 6 0x10) ∧ (at' 0x40 0).holdFollows (at' 0 0x10) ∧
    (at' 0 0x10).holdFollows (at' 0 0x10) := by
  unfold State.holdFollows; decide

/-- PLATEN_STUCK joins where it is posted and not elsewhere; a head with hold-on-safe that enters SAFE gives HEAD_SAFE (R18, R19). -/
theorem witness_headPosts :
    let safe := fun causes : Byte =>
      (line.putHead 5 { readyHead with params := { readyHead.params with holdOnSafe := true }, state := .safe }).setCauseSet causes
    State.headPosts 4 5 line (line.setCauseSet 4) ∧ ¬State.headPosts 0 5 line (line.setCauseSet 4) ∧
    State.headPosts 4 5 line (safe 0x44) ∧ ¬State.headPosts 4 5 line (safe 4) ∧ ¬State.headPosts 0 5 line (safe 0x44) ∧
    State.headPosts 0 5 (safe 0x40) line := by
  refine ⟨?_, ?_, ?_, ?_, ?_, ?_⟩ <;> simp only [State.headPosts] <;> decide

/-- An online head with a cycle and a closed platen; each gate phase that is cut. -/
theorem witness_IndexStartMovesIndex :
    line.track.index = .dwell ∧ (line.setTrack { line.track with index := .moving }).track.index = .moving ∧
    (line.head 0).state = .offline ∧ ((sealing 2 .closed).head 5).state ≠ .offline ∧
    ((sealing 2 .closed).head 5).cycle ≠ none ∧ ((sealing 2 .closed).head 5).platen ≠ .opened ∧
    (∀ p ∈ [PunchPhase.delay, .asserted, .done], ∀ d ∈ [DiverterPhase.delay, .pulse, .window, .done],
      (gating p d).gate.activity.map (fun a => (a.punch, a.diverter)) = some (p, d)) := by decide

/-- A line whose gate position is empty and one where it is not; a manifest and none; a queue with room and a full one. -/
theorem witness_IndexDoneShiftsInRun :
    line.track.index = .dwell ∧
    (let s := line.setTrack { line.track with index := .moving }
     s.track.index = .moving ∧ s.track.mode = .run ∧ s.track.config.valid = true ∧ s.track.nestAt 11 = none ∧
       s.track.manifests = []) ∧
    line.track.numbered ∧ arriving.track.numbered ∧ arriving.track.config.valid = true ∧
    (arriving.track.nestAt 11).isSome = true ∧ arriving.track.manifests ≠ [] ∧ arriving.track.outcomes.length = 16 ∧
    arriving.track.index = .moving ∧ arriving.track.mode = .run ∧
    (let s := base.setTrack { base.track with index := .moving }
     s.track.index = .moving ∧ s.track.mode ≠ .run) := by
  refine ⟨by decide, by decide, line_numbered, arriving_numbered, ?_⟩
  decide

/-- Nests at the form station, one position before the seal station and before the gate, and heads of every start source; a lane
without a head. -/
theorem witness_ShiftReachesStationsAndGate :
    arriving.track.config.valid = true ∧ arriving.track.numbered ∧ arriving.bindingsDistinct ∧
    arriving.track.index = .moving ∧ arriving.track.mode = .run ∧
    (let s := arriving.setTrack { arriving.track with mode := .test, steps := [1] }
     s.track.mode = .test ∧ s.track.steps = 1 :: [] ∧ s.track.config.valid = true ∧ s.bindingsDistinct) ∧
    arriving.track.config.position .sealing = some 6 ∧ arriving.track.afterMove 6 = some (nest 53) ∧
    (arriving.track.afterMove 11).isSome = true ∧
    (arriving.head 5).params.binding = some (.sealing, 4) ∧ (arriving.head 5).state = .ready ∧
    (arriving.head 6).params.binding = some (.sealing, 5) ∧ (arriving.head 6).state = .offline ∧
    (arriving.head 0).params.binding = none ∧
    arriving.library.cycleDue .sealing freshPack = some (3, ⟨1500, 2000, 25, 45⟩) ∧
    arriving.library.profile 3 = some sealProfile ∧ (sealProfile[0]?).map Segment.instant = some false := by
  refine ⟨by decide, arriving_numbered, ?_, ?_⟩
  · unfold State.bindingsDistinct; decide
  · unfold State.bindingsDistinct; decide

theorem witness_StepSchedulesIndexDone :
    (base.takesNow ∧ base.track.mode ≠ .test) ∧
    (let s := base.setTrack { base.track with mode := .test }
     s.takesNow ∧ s.track.mode = .test ∧ s.track.index = .dwell) ∧
    (let s := base.setTrack { base.track with mode := .test, index := .moving }
     s.takesNow ∧ s.track.mode = .test ∧ s.track.index = .moving) ∧
    (∀ x ∈ [IndexState.moving, .dwell], ∀ mode ∈ [TrackMode.test, .halted, .run],
      let s := (base.setTrack { base.track with mode := mode, index := x, steps := [1] }).setLink
        { base.link with reserved := [⟨0x42, 9⟩] }
      s.track.steps = [1] ∧ s.link.reserved = [⟨0x42, 9⟩] ∧ s.track.index = x ∧ s.track.mode = mode ∧
        s.track.config.valid = true) ∧
    base.track.numbered := by
  refine ⟨?_, ?_, ?_, by decide, base_numbered⟩ <;> unfold State.takesNow <;> decide

/-- Two STEPs in flight behind a COEFF-READ. -/
def twoSteps : State :=
  (base.setTrack { base.track with mode := .test, index := .moving, steps := [1, 2] }).setLink
    { base.link with reserved := [⟨0x38, 4⟩, ⟨0x42, 9⟩, ⟨0x42, 10⟩] }

theorem witness_StepSchedulesIndexDone_several :
    twoSteps.track.steps = 1 :: [2] ∧ twoSteps.link.reserved = [⟨0x38, 4⟩] ++ ⟨0x42, 9⟩ :: [⟨0x42, 10⟩] ∧
    (∀ r ∈ [(⟨0x38, 4⟩ : Reserved)], r.kind ≠ 0x42) ∧ twoSteps.track.index = .moving ∧ twoSteps.track.mode = .test ∧
    twoSteps.track.config.valid = true := by decide

theorem test_syntheticIndexDone_several :
    after .syntheticIndexDone twoSteps (fun t => (t.track.steps, t.link.reserved, t.link.filled)) =
      some ([2], [⟨0x38, 4⟩, ⟨0x42, 10⟩], [⟨0xC2, 9, [0, 0, 1]⟩]) := by decide

/-- A stall timer that does not run and one that does; a track event that is disabled, one that is the first enabled member of its
set, and one that finds an enabled member there (R159). -/
theorem witness_CausesJoinAndLeave :
    base.track.stallTimer = none ∧
    (base.setTrack { base.track with stallTimer := some 1000 }).track.stallTimer = some 1000 ∧ base.takesNow ∧
    ((⟨0, 0x3D, false⟩ : TrackStatus).post .noManifest).owed = false ∧
    ((⟨0x02, 0x3D, false⟩ : TrackStatus).post .gateCut).owed = true ∧
    ((⟨0x08, 0x3D, false⟩ : TrackStatus).post .holdChanged).owed = false := by
  unfold State.takesNow; decide

/-- A full queue and one with a place left; a lane that passes, one of an unknown code, one its format does not allow. -/
theorem witness_ManifestQueueFillsAndEmpties :
    let passes := fun (codes : Lanes Byte) (lane : Fin 8) => codes.get lane = 0 ∨
      (line.library.format (codes.get lane).toNat).any (fun f => f.laneMask.getLsbD lane.val) = true
    line.takesNow ∧ line.track.manifests.length < 32 ∧
    32 ≤ (line.setTrack { line.track with manifests := List.replicate 32 (Lanes.fill 0) }).track.manifests.length ∧
    (∀ lane, passes (Lanes.fill 17) lane) ∧
    (¬passes ⟨17, 17, 17, 17, 17, 17, 17, 9⟩ 7 ∧ (∀ l < (7 : Fin 8), passes ⟨17, 17, 17, 17, 17, 17, 17, 9⟩ l) ∧
      line.library.format 9 = none) ∧
    (let s := line.setLibrary ⟨[(17, { format17 with laneMask := 0x7F })], [(3, sealProfile)]⟩
     (s.library.format 17).any (fun f => f.laneMask.getLsbD 7) = false ∧ s.library.format 17 ≠ none) := by
  unfold State.takesNow; decide

/-- A nest before and after its decision, an unknown serial number, and both ends of the reason numbers. -/
theorem witness_VerdictJudgesNamedNest :
    line.takesNow ∧ line.track.find 52 = some (6, nest 52) ∧ line.gate.decided 52 = false ∧ line.track.find 53 = none ∧
    (gating .done .window).takesNow ∧ ((gating .done .window).track.find 88).isSome = true ∧
    (gating .done .window).gate.decided 88 = true ∧
    1 ≤ (1#8).toNat ∧ (15#8).toNat ≤ 15 ∧ 15 < (16#8).toNat ∧ (52#16) ≠ 0 ∧ freshPack.verdict = .pending ∧
    freshPack.format ≠ 0 := by
  unfold State.takesNow; decide

theorem witness_HeadNumbersAbove15AreRefused : base.takesNow ∧ 16 ≤ (16#8).toNat := ⟨base_takesNow, by decide⟩

/-- Every head number names a head, 0 and 15 among them. -/
theorem witness_headNumber : (0#8).toNat = (0 : Fin 16).val ∧ (15#8).toNat = (15 : Fin 16).val := by decide

theorem witness_HeadSetupReplacesParameters :
    let inRange := fun (s : State) (r : HeadSetupReq) => decide <|
      r.station.toNat ≤ 2 ∧ (r.station = 0 ∨ r.lane.toNat ≤ 7) ∧ r.source.toNat ≤ 2 ∧ r.loopMode.toNat ≤ 2 ∧
      r.startDelay.toNat ≤ 2000 ∧ 500 ≤ r.ceiling.toNat ∧ r.ceiling.toNat ≤ 3000 ∧ r.standby.toNat ≤ r.ceiling.toNat ∧
      r.settle.toNat ≤ 5000 ∧ 100 ≤ r.openLimit.toNat ∧ r.openLimit.toNat ≤ 3000 ∧
      ¬(r.station = 1 ∧ s.track.config.form = none)
    base.takesNow ∧ (5#8).toNat = (5 : Fin 16).val ∧ (base.head 5).state = .offline ∧
    inRange base ⟨2, 7, 2, 2000, 255, 3000, 3000, 65535, 5000, 7, 3000, 2⟩ ∧
    inRange base ⟨0, 9, 0, 0, 0, 500, 500, 0, 0, 0, 100, 0⟩ ∧
    ¬inRange base ⟨1, 0, 0, 0, 10, 0, 500, 50, 0, 0, 100, 0⟩ ∧
    ¬inRange base ⟨2, 0, 0, 0, 10, 501, 500, 50, 0, 0, 100, 0⟩ ∧
    ((base.putHead 5 readyHead).head 5).state ≠ .offline ∧
    ((base.putHead 0 { params := { binding := some (.sealing, 7) } }).head 0).params.binding = some (.sealing, 7) := by
  unfold State.takesNow; decide

theorem witness_EnablesAndInjectSetFields :
    base.takesNow ∧ (5#8).toNat = (5 : Fin 16).val ∧
    (let s := base.putStatus 5 { changed := 0x20 }
     s.takesNow ∧ (s.status 5).pending = .empty ∧ (s.status 5).changed &&& 0x20 &&& 0x3F ≠ 0) ∧
    (base.status 5).changed &&& 0x20 &&& 0x3F = 0 ∧
    (0#8) = 0 ∧ (255#8) ≠ 0 ∧ (base.head 5).state = .offline ∧ ((base.putHead 5 readyHead).head 5).state ≠ .offline := by
  unfold State.takesNow; decide

theorem witness_HeadOnlineStartsSampling :
    (base.takesNow ∧ (base.head 5).state = .offline ∧ (¬∃ l, base.store.op = .loading l) ∧
      (¬∃ c, base.store.op = .writing 5 c) ∧ (base.head 5).platen ≠ .opened ∧ base.releaseWaits 5) ∧
    ((base.putHead 5 { platen := .opened }).head 5).platen = .opened ∧
    (State.reset.takesNow ∧ (State.reset.head 5).state = .offline ∧ ∃ l, State.reset.store.op = .loading l) ∧
    ((storing (.writing 5 coeffs107)).takesNow ∧ ∃ c, (storing (.writing 5 coeffs107)).store.op = .writing 5 c) ∧
    ((base.putHead 5 readyHead).head 5).state ≠ .offline ∧
    ¬(base.setLines { base.lines with heads := base.lines.heads.set 5 ⟨none, false, true⟩ }).releaseWaits 5 := by
  refine ⟨⟨base_takesNow, rfl, ?_, ?_, by decide, .inr (.inl rfl)⟩, rfl, ⟨?_, rfl, [], rfl⟩, ⟨?_, coeffs107, rfl⟩, by decide, ?_⟩
  · rintro ⟨l, h⟩; cases h
  · rintro ⟨c, h⟩; cases h
  · unfold State.takesNow; decide
  · unfold State.takesNow; decide
  · unfold State.releaseWaits; decide

theorem witness_HeadOfflineStopsHead :
    (sealing 2 .closed).takesNow ∧ ((sealing 2 .closed).head 5).state ≠ .offline ∧ ((sealing 2 .closed).head 5).cycle ≠ none ∧
    (line.putHead 5 readyHead).takesNow ∧ ((line.putHead 5 readyHead).head 5).state ≠ .offline ∧
    ((line.putHead 5 readyHead).head 5).cycle = none ∧ line.takesNow ∧ (line.head 5).state = .offline ∧
    ((sealing 2 .closed).head 5).cycle.map Cycle.origin = some .pack ∧
    ((sealing 2 .closed).head 5).packRef = some ⟨52, 4, .sealing⟩ ∧
    (sealing 2 .closed).track.packOf ⟨52, 4, .sealing⟩ = some freshPack ∧
    (base.putHead 5 (runningHead 2 .closed)).track.packOf ⟨52, 4, .sealing⟩ = none := by
  unfold State.takesNow; decide

theorem witness_AbnormalEndsReturnHead :
    (line.takesNow ∧ (line.head 5).state ≠ .pending ∧ (line.head 5).state ≠ .running) ∧
    ((sealing 2 .closed).takesNow ∧ ((sealing 2 .closed).head 5).state = .running) ∧
    ((waiting .line).takesNow ∧ ((waiting .line).head 5).state = .pending ∧ ((waiting .line).head 5).params.source = .line ∧
      ((waiting .line).head 5).startTimer = some 80 ∧ ((waiting .line).head 5).platen = .opened) ∧
    (((sealing 0 .closing).head 5).state = .running ∧ ((sealing 0 .closing).head 5).run? = some (runAt 0 0) ∧
      (runAt 0 0).segments[(runAt 0 0).current]?.map Segment.kind = some .close) := by
  unfold State.takesNow; decide

/-- What an abnormal end asks of the pack: a cycle on a pack whose nest is on the track, with the platen open or not. -/
theorem witness_endedAbnormally :
    ((sealing 2 .closed).head 5).platen ≠ .opened ∧ (sealing 2 .closed).releaseWaits 5 ∧
    ((sealing 2 .closed).head 5).cycle = some ⟨.pack, some (runAt 2 0)⟩ ∧
    ((sealing 2 .closed).head 5).packRef = some ⟨52, 4, .sealing⟩ ∧
    ((sealing 2 .closed).track.find 52).isSome = true ∧ ((waiting .line).head 5).platen = .opened ∧
    (sealing 2 .closed).track.packOf ⟨52, 4, .sealing⟩ = some freshPack ∧ freshPack.format ≠ 0 ∧
    (let s := (sealing 2 .closed).setLines
       { line.lines with heads := line.lines.heads.set 5 ⟨some 1850, false, true⟩ }
     (s.head 5).platen ≠ .opened ∧ ¬s.releaseWaits 5) := by
  unfold State.releaseWaits; decide

/-- What the end of a cycle writes (R82, R196): a low dose, with LOW_TEMP where auto-reject is on, and with DRY_RUN in DRY; a
high one; and a cycle that has not started. -/
theorem witness_endWritten :
    let x := fun (dose : Nat) (auto : Bool) (mode : LoopMode) =>
      { runningHead 4 .closed with
        params := { readyHead.params with autoReject := auto, loopMode := mode }
        cycle := some ⟨.pack, some { runAt 4 0 with dose := dose, lowSeen := true, closure := some 90 }⟩ }
    (x 240000 true .normal).endedMask .doseLow .sealing = 0x2020 ∧ (x 240000 false .dry).endedMask .doseLow .form = 0x20008 ∧
    (x 460000 false .normal).endedMask .doseHigh .sealing = 0x40 ∧
    (x 460000 false .normal).endedResult 5 .doseHigh = ⟨5, .doseHigh, some 46, some 90, false, false, false, true, false⟩ ∧
    (pendingHead .line).endedMask .startTimeout .sealing = 0x1000 ∧
    (pendingHead .line).endedResult 5 .startTimeout = ⟨5, .startTimeout, none, none, false, false, false, false, false⟩ := by
  decide

theorem witness_OpenLimitsPostPlatenStuck :
    (((sealing 4 .opening).head 5).state = .running ∧ ((sealing 4 .opening).head 5).run? = some (runAt 4 0) ∧
      (runAt 4 0).segments[(runAt 4 0).current]?.map Segment.kind = some .openUp) ∧
    ((line.putHead 5 (releasingHead .ready)).head 5).release = some ⟨1000, .ready, true⟩ := by decide

theorem witness_HeadClearDiscardsStatus :
    (line.takesNow ∧ (line.head 5).state = .offline) ∧
    ((sealing 2 .closed).takesNow ∧ ((sealing 2 .closed).head 5).state ≠ .offline ∧ ((sealing 2 .closed).head 5).cycle ≠ none) ∧
    (let s := line.putHead 5 { readyHead with state := .safe }
     s.takesNow ∧ (s.head 5).cycle = none ∧ (s.head 5).state = .safe) ∧
    (let s := line.putHead 5 (releasingHead .ready)
     s.takesNow ∧ (s.head 5).cycle = none ∧ (s.head 5).state ≠ .safe ∧ (s.head 5).release = some ⟨1000, .ready, true⟩) ∧
    (let s := line.putHead 5 readyHead
     s.takesNow ∧ (s.head 5).cycle = none ∧ (s.head 5).release = none ∧ (s.head 5).platen = .opened) ∧
    (let s := line.putHead 5 { readyHead with platen := .closed }
     s.takesNow ∧ (s.head 5).release = none ∧ (s.head 5).platen ≠ .opened ∧ s.releaseWaits 5) := by
  unfold State.takesNow State.releaseWaits; decide

theorem witness_HeadReleaseLeavesSafe :
    (line.takesNow ∧ (line.head 5).state ≠ .safe) ∧
    (let s := line.putHead 5 { readyHead with state := .safe, monitor := { live := 0x04 } }
     s.takesNow ∧ (s.head 5).monitor.live.getLsbD 2 = true) ∧
    (let s := line.putHead 5 { readyHead with state := .safe }
     s.takesNow ∧ ¬((s.head 5).state ≠ .safe ∨ (s.head 5).monitor.live.getLsbD 1 = true ∨
       (s.head 5).monitor.live.getLsbD 2 = true) ∧ (s.head 5).release = none ∧ (s.head 5).platen = .opened ∧
       ∀ h' ≠ (5 : Fin 16), ¬((s.head h').params.holdOnSafe = true ∧ (s.head h').state = .safe)) ∧
    (let s := line.putHead 5 { releasingHead .safe with state := .safe }
     s.takesNow ∧ (s.head 5).release = some ⟨1000, .safe, true⟩) ∧
    (let s := line.putHead 5 { readyHead with state := .safe, platen := .closed }
     s.takesNow ∧ (s.head 5).release = none ∧ (s.head 5).platen ≠ .opened ∧ s.releaseWaits 5) := by
  unfold State.takesNow State.releaseWaits; decide

/-- A pending cycle whose profile is stored, and one whose format was dropped. -/
theorem witness_PendingCycleStarts :
    ¬((line.head 5).state = .pending ∧ (line.head 5).params.source = .line) ∧
    (∀ src ∈ [StartSource.line, .delayed],
      ((waiting src).head 5).state = .pending ∧ ((waiting src).head 5).params.source = src ∧
      ((waiting src).head 5).packRef = some ⟨52, 4, .sealing⟩ ∧
      (waiting src).track.packOf ⟨52, 4, .sealing⟩ = some freshPack ∧ ((waiting src).head 5).startTimer = some 80 ∧
      (waiting src).library.format freshPack.format = some format17 ∧
      (waiting src).library.profile format17.sealProfile = some sealProfile ∧
      (sealProfile[0]?).map Segment.instant = some false) ∧
    ((waiting .line).setLibrary ⟨[], [(3, sealProfile)]⟩).library.format freshPack.format = none := by decide

/-- A head in DRY and one that is not; a virtual edge of each kind; CLOSING with its segment, and OPENING with a release phase
and with its segment. -/
theorem witness_PlatenEdgesAreTaken :
    (∀ e ∈ [VirtualEdge.closed, .opened],
      ((line.putHead 5 { readyHead with virtual := some (e, 100) }).head 5).virtual = some (e, 100)) ∧
    ((line.putHead 5 { readyHead with params := { readyHead.params with loopMode := .dry } }).head 5).params.loopMode = .dry ∧
    ((sealing 0 .closing).head 5).params.loopMode ≠ .dry ∧ ((sealing 0 .closing).head 5).platen = .closing ∧
    ((sealing 0 .closing).head 5).plainSegment .close (runAt 0 0) ⟨.close, none, some 350, 150, false, false, false, false⟩ ∧
    ((line.putHead 5 (releasingHead .ready)).head 5).platen = .opening ∧
    ((line.putHead 5 (releasingHead .ready)).head 5).release = some ⟨1000, .ready, true⟩ ∧
    ((sealing 4 .opening).head 5).release = none ∧
    ((sealing 4 .opening).head 5).plainSegment .openUp (runAt 4 0) ⟨.openUp, none, none, 150, false, false, false, false⟩ := by
  unfold Head.plainSegment; decide

theorem witness_SegmentExpiryGoesOn :
    ((sealing 3 .closed).head 5).plainSegment .hold (runAt 3 0)
      ⟨.hold, some 1500, none, 100, false, false, true, false⟩ ∧
    ((sealing 1 .closed).head 5).plainSegment .ramp (runAt 1 0) ⟨.ramp, some 1850, none, 100, false, false, false, true⟩ ∧
    ((runAt 1 0).segments[(runAt 1 0).current + 1]?).map Segment.instant = some false := by
  unfold Head.plainSegment; decide

/-- The segments that `Head.runsSegment` tells apart: a RAMP with a target of each output, one with a target above the ceiling and
one without a target; a CLOSE and an OPEN of a head in DRY, the OPEN with an OPEN edge due, a CLOSED edge due, and none. -/
theorem witness_runsSegment :
    let ramp : Segment := ⟨.ramp, some 2501, some 350, 100, false, false, false, false⟩
    let held : Segment := ⟨.ramp, none, none, 100, false, false, false, false⟩
    let dry : Head := { readyHead with params := { readyHead.params with loopMode := .dry } }
    (ramp.kind = .ramp ∧ ramp.temperature ≠ none ∧ ramp.temperature.map (fun v => min v readyHead.params.ceiling) = some 2500) ∧
    (held.kind = .ramp ∧ held.temperature = none ∧ held.pressure = none) ∧
    (sealProfile[0]?).map Segment.kind = some .close ∧ (sealProfile[4]?).map Segment.kind = some .openUp ∧
    dry.virtualAtOpening 7 = some (.opened, 107) ∧
    ({ dry with virtual := some (.closed, 50) } : Head).virtualAtOpening 7 = some (.opened, 107) ∧
    ({ dry with virtual := some (.opened, 50) } : Head).virtualAtOpening 7 = some (.opened, 50) ∧
    readyHead.virtualAtOpening 7 = none := by decide

/-- A HOLD and a RAMP of duration 0 with NOTIFY between segments that take time: the expiry of the first passes both in its act. -/
def hurried : Run :=
  { Run.fresh 3
      [⟨.hold, some 1500, none, 100, false, false, false, false⟩, ⟨.hold, some 1600, none, 0, false, false, true, false⟩,
       ⟨.ramp, some 1700, some 200, 0, false, false, true, false⟩, ⟨.hold, none, none, 50, false, false, true, false⟩]
      0 4000 none false with
    segDue := 100 }

theorem witness_passes :
    let x : Head := { readyHead with state := .running, cycle := some ⟨.once, some hurried⟩ }
    x.plainSegment .hold hurried ⟨.hold, some 1500, none, 100, false, false, false, false⟩ ∧
    (∀ n ∈ [1, 2], ∀ g, hurried.segments[n]? = some g → g.atOnce ∧ g.notify = true) ∧
    ∀ g, hurried.segments[3]? = some g → ¬g.atOnce := by
  unfold Head.plainSegment Segment.atOnce hurried
  refine ⟨by decide, ?_, ?_⟩
  · intro n hn g hg
    rcases List.mem_pair.1 hn with rfl | rfl <;> cases hg <;> decide
  · intro g hg
    cases hg; decide

/-- The targets of both are left standing, and each NOTIFY is posted (R76, R100, R150). -/
theorem test_segmentsOfDuration0 :
    after (.segmentExpiry 5) (line.putHead 5 { readyHead with state := .running, cycle := some ⟨.once, some hurried⟩ })
      (fun t => ((t.head 5).run?.map Run.current, (t.head 5).tempSet, (t.head 5).presSet,
        (t.status 5).pending)) =
      some (some 3, 1700, 200, .solicited ⟨4, 0, none, some 3, 3⟩) := by decide

/-- The last segment of a cycle may be a HOLD or a RAMP, and its expiry then completes the cycle. -/
theorem witness_lastSegment :
    let r : Run := Run.fresh 3 [⟨.hold, some 1500, none, 100, false, false, false, false⟩] 0 4000 none false
    ({ readyHead with state := .running, cycle := some ⟨.once, some r⟩ } : Head).plainSegment .hold r
      ⟨.hold, some 1500, none, 100, false, false, false, false⟩ ∧ r.segments.length = r.current + 1 := by
  unfold Head.plainSegment; decide

/-- The dose hold of the seal profile with a dose below the window that reseals, one that may not, one within and one above; the
RESEAL_POINT is its second segment, and a profile may end with its dose hold. -/
theorem witness_LastDoseSegmentIsJudged :
    let hold : Segment := ⟨.hold, some 1850, some 350, 600, true, true, false, false⟩
    let at' := fun r : Run => { runningHead 2 .closed with cycle := some ⟨.pack, some r⟩ }
    (∀ d ∈ [0, 249999, 250000, 459999, 460000], (at' { runAt 2 0 with dose := d }).lastDoseHold { runAt 2 0 with dose := d } hold) ∧
    (runAt 2 0).window = some (25, 45) ∧ (runAt 2 0).resealAllowed = true ∧ (runAt 2 0).resealUsed = false ∧
    (runAt 2 0).resealsAt 1 ⟨.ramp, some 1850, none, 100, false, false, false, true⟩ ∧
    ((runAt 2 0).segments[3]?).map Segment.instant = some false ∧
    (let r := Run.fresh 3 [hold] 0 4000 none false
     (at' r).lastDoseHold r hold ∧ r.segments.length = r.current + 1) := by
  unfold Head.lastDoseHold Run.resealsAt
  refine ⟨by decide, by decide, by decide, by decide, ⟨by decide, by decide, ?_⟩, by decide, by decide⟩
  intro q hq g hg
  obtain rfl : q = 0 := by omega
  cases hg; rfl

theorem witness_RampStepMovesSetpoints :
    let p : Ramp := ⟨62, 100, 90, some (1500, 1850), some (350, 0)⟩
    let s := line.putHead 5 { runningHead 1 .closed with ramp := some p }
    (s.head 5).state = .running ∧ (s.head 5).ramp = some p ∧ p.next < p.duration := by decide

theorem witness_CycleOnceStarts :
    let s := (base.setLibrary recipes).putHead 5 readyHead
    s.takesNow ∧ s.track.mode ≠ .run ∧ (s.head 5).state = .ready ∧ (s.head 5).params.loopMode ≠ .monitor ∧
    1 ≤ (24#8).toNat ∧ (24#8).toNat ≤ 24 ∧ s.library.profile 24 = none ∧ s.library.profile 3 = some sealProfile ∧
    (sealProfile[0]?).map Segment.instant = some false ∧ (25#16).toNat ≤ (45#16).toNat ∧ line.takesNow ∧
    line.track.mode = .run ∧ ¬((line.head 5).state = .ready) := by
  unfold State.takesNow; decide

/-- A status of each of the four forms a solicited event meets. -/
theorem witness_SolicitedEventsMerge :
    let c : Solicited := ⟨4, 0, none, some 3, 255⟩
    ({} : HeadStatus).pending = .empty ∧ ({ pending := .solicited c } : HeadStatus).pending = .solicited c ∧
    ({ pending := .alert } : HeadStatus).held = none ∧ ({ pending := .alert, held := some c } : HeadStatus).held = some c := by
  decide

/-- A condition change at a status: none, one that is not enabled, one that alerts, one behind an enabled member of the set, and one
behind a solicited event (R153, R154). -/
theorem witness_joinedBy :
    let c : Solicited := ⟨4, 0, none, some 3, 255⟩
    ({ enable := 0x20 } : HeadStatus).joinedBy 0 = { enable := 0x20 } ∧
    ({ enable := 0 } : HeadStatus).joinedBy 0x20 = { changed := 0x20, enable := 0 } ∧
    (({ enable := 0x20 } : HeadStatus).joinedBy 0x20).pending = .alert ∧
    (({ enable := 0x20 } : HeadStatus).joinedBy 0x20).owed = true ∧
    (({ enable := 0x10, pending := .solicited c } : HeadStatus).joinedBy 0x10).pending = .solicited c := by decide

theorem witness_StatusTakeDrainsStatus :
    base.takesNow ∧ (11#8).toNat = (11 : Fin 16).val ∧
    ((base.putStatus 11 { pending := .alert, held := some ⟨1, 0x0200, none, none, 1⟩ }).status 11).held =
      some ⟨1, 0x0200, none, none, 1⟩ ∧
    (let y := (base.putStatus 11 { changed := 0x20, enable := 0x20 }).status 11
     y.held = none ∧ y.pending ≠ .alert ∧ y.changed &&& y.enable ≠ 0) ∧
    (base.status 11).held = none ∧ (base.status 11).changed &&& (base.status 11).enable = 0 ∧
    (∀ p ∈ [PendingStatus.empty, .alert,
        .solicited ⟨5, 0x0100, some ⟨.pack, some 52, some 4, (runningHead 2 .closed).endedResult 5 .halted⟩, some 3, 2⟩],
      ((base.putStatus 11 { pending := p }).status 11).pending = p) := by
  unfold State.takesNow; decide

theorem witness_TrackStatusTakeEmptiesSet : base.takesNow := base_takesNow

theorem witness_QueriesOnlyReply :
    line.takesNow ∧ (15#8).toNat = (15 : Fin 16).val ∧ (52#16) ≠ 0 ∧ line.track.find 53 = none ∧
    line.track.find 52 = some (6, nest 52) ∧ line.store.op = .idle ∧ line.store.lastWrite = none ∧
    (base.setStore { base.store with lastWrite := some 15 }).store.lastWrite = some 15 ∧
    (storing (.reading 15)).takesNow ∧ (storing (.reading 15)).store.op = .reading 15 ∧
    (storing (.writing 0 coeffs107)).takesNow ∧ (storing (.writing 0 coeffs107)).store.op = .writing 0 coeffs107 ∧
    State.reset.takesNow ∧ State.reset.store.op = .loading [] ∧ State.reset.store.lastWrite = none := by
  unfold State.takesNow; decide

/-- The layouts written out from R196 and R202: a station result, a pack with a verdict, and the cycle of a
running head. -/
theorem witness_QueriesOnlyReply_layouts :
    StationResult.layout (some ⟨5, .doseHigh, some 46, some 90, true, false, true, false, false⟩) =
      [5, 4, 0xE5, 0, 46, 0, 90] ∧
    StationResult.layout none = [0, 0, 0, 0, 0, 0, 0] ∧
    ({ freshPack with verdict := .bad 3, reasons := 0x20008, diverted := true } : Pack).layout 6 =
      [6, 17, 2, 3, 1, 0, 2, 0, 8] ++ List.replicate 14 0 ∧
    (nest 0x0134).layout.take 9 = [1, 0x34, 0, 0, 1, 0x34, 0, 0, 0] ∧ (nest 52).layout.length = 193 ∧
    (runningHead 2 .closed).cycleLayout = [0, 0, 52, 4, 2, 2, 0, 0] ∧
    (runningHead 2 .closed).queryFlags = 6 ∧ readyHead.queryFlags = 0 ∧ (readyHead.layout 5).length = 49 ∧
    readyHead.cycleLayout = List.replicate 8 0 ∧ line.trackLayout.length = 67 ∧
    (line.trackLayout.drop 15).take 14 = [0, 0, 0, 0, 0, 0, 0, 0, 0, 0, 0, 0, 0, 52] := by decide +kernel

theorem witness_CountersAreHeldReadAndZeroed_held :
    base.takesNow ∧ 16 ≤ (16#8).toNat ∧ (15#8).toNat = (15 : Fin 16).val := ⟨base_takesNow, by decide, by decide⟩

/-- Deviations at 65535 and below it; one head named, and all heads. -/
theorem witness_CountersAreHeldReadAndZeroed_zeroed :
    base.takesNow ∧ (1#8).getLsbD 0 = true ∧ (0#8).getLsbD 0 = false ∧ (15#8).toNat = (15 : Fin 16).val ∧
    16 ≤ (16#8).toNat ∧ (base.head 15).counters.deviations ≠ 65535 ∧
    ((base.putHead 15 { counters := { deviations := 65535 } }).head 15).counters.deviations = 65535 := by
  unfold State.takesNow; decide

/-- A format that is added, replaced, refused for its values, for a profile not stored and for want of room; a code to drop
that is free, on the track, in the queue, and not stored. -/
theorem witness_FormatTableChangesOneCode :
    let good := fun r : FormatReq =>
      let dose := fun d : DoseFields =>
        d.base.toNat ≤ 3000 ∧ d.base.toNat < d.cap.toNat ∧ d.cap.toNat ≤ 4000 ∧ d.windowMin.toNat ≤ d.windowMax.toNat
      1 ≤ r.code.toNat ∧ r.code.toNat ≤ 250 ∧ r.laneMask ≠ 0 ∧ 1 ≤ r.sealProfile.toNat ∧ r.sealProfile.toNat ≤ 24 ∧
        dose r.sealDose ∧ (r.flags.getLsbD 0 = true → 1 ≤ r.formProfile.toNat ∧ r.formProfile.toNat ≤ 24 ∧ dose r.formDose)
    line.takesNow ∧ good ⟨250, 0xFF, 7, 24, 3, ⟨3000, 4000, 0, 65535⟩, ⟨0, 1, 45, 45⟩⟩ ∧
    good ⟨1, 1, 0, 0, 3, ⟨0, 1, 0, 0⟩, ⟨0, 0, 0, 0⟩⟩ ∧ ¬good ⟨251, 0xFF, 0, 0, 3, ⟨0, 1, 0, 0⟩, ⟨0, 0, 0, 0⟩⟩ ∧
    line.library.profile 3 ≠ none ∧ line.library.profile 24 = none ∧ line.library.format 17 ≠ none ∧
    line.library.format 250 = none ∧ line.library.formats.length < 32 ∧
    (let l : Library := ⟨List.replicate 32 (17, format17), []⟩
     l.format 250 = none ∧ ¬l.formats.length < 32) ∧
    (∃ n, some n ∈ line.track.slots ∧ ∃ lane, (n.packs.get lane).format = 17) ∧
    (∃ m ∈ (line.setTrack { line.track with manifests := [Lanes.fill 17] }).track.manifests, ∃ lane, m.get lane = 17) ∧
    (¬∃ m ∈ base.track.manifests, ∃ lane, m.get lane = 17) ∧ ∀ o ∈ base.track.slots, o = none := by
  refine ⟨by unfold State.takesNow; decide, by decide, by decide, by decide, by decide,
    by decide, by decide, by decide, by decide, by decide,
    ⟨nest 52, by decide, 0, by decide⟩, by decide, by decide, by decide⟩

/-- Records at the ends of each range, refused and not; an absent target is not examined. -/
theorem witness_ProfileChecksAreComplete_records :
    segmentOf ⟨0, 0, 0, 0, 0⟩ = none ∧ segmentOf ⟨5, 0, 0, 0, 0⟩ = none ∧ segmentOf ⟨2, 0x10, 3001, 0, 0⟩ = none ∧
    segmentOf ⟨2, 0x20, 0, 801, 0⟩ = none ∧
    segmentOf ⟨1, 0x30, 3000, 800, 150⟩ = some ⟨.close, some 3000, some 800, 150, false, false, false, false⟩ ∧
    segmentOf ⟨4, 0x0F, 3001, 801, 65535⟩ = some ⟨.openUp, none, none, 65535, true, true, true, true⟩ := by decide

/-- A profile for each number that PROFILE_INVALID carries (R57, R58): an OPEN as segment 0, a CLOSE as segment 1 without an OPEN, a
CLOSE of 49 ms, one HOLD of 10001 ms behind one that passes, four HOLDs of 10000 ms, and one of duration 0. -/
theorem witness_ProfileChecksAreComplete_numbers :
    let hold := fun n : Nat => (⟨.hold, none, none, n, false, false, false, false⟩ : Segment)
    let close := fun n : Nat => (⟨.close, none, none, n, false, false, false, false⟩ : Segment)
    let up : Segment := ⟨.openUp, none, none, 50, false, false, false, false⟩
    profileFault [up] = some 0 ∧ profileFault [hold 5, close 50] = some 1 ∧
    profileFault [close 49, up] = some 0 ∧ profileFault [hold 10000, hold 10001] = some 1 ∧
    profileFault [hold 10000, hold 10000, hold 10000] = none ∧
    profileFault (List.replicate 4 (hold 10000)) = some 255 ∧ profileFault [hold 0] = some 255 ∧
    profileFault [hold 10001, up] = some 1 := by decide

/-- An id, segments and a store for each outcome: accepted at exactly the room there is, refused one beyond it, refused for its
structure and for its values; an id to drop that a format names, one that none names, one not stored. -/
theorem witness_ProfileStoreChangesOneId :
    line.takesNow ∧ 1 ≤ (24#8).toNat ∧ (24#8).toNat ≤ 24 ∧ ¬(25#8).toNat ≤ 24 ∧
    [SegmentReq.mk 2 0 0 0 10000].map segmentOf = [some ⟨.hold, none, none, 10000, false, false, false, false⟩] ∧
    profileFault [⟨.hold, none, none, 10000, false, false, false, false⟩] = none ∧
    profileFault [⟨.hold, none, none, 10001, false, false, false, false⟩] = some 0 ∧
    segmentOf ⟨5, 0, 0, 0, 0⟩ = none ∧ segmentOf ⟨2, 0x10, 3001, 0, 0⟩ = none ∧
    ((⟨[], [(1, List.replicate 192 ⟨.hold, none, none, 1, false, false, false, false⟩)]⟩ : Library).profiles.map
      fun x => x.2.length).sum = 192 ∧
    line.library.profile 3 ≠ none ∧ line.library.profile 4 = none ∧
    (∃ x ∈ line.library.formats, x.2.sealProfile = 3) ∧ line.library.bounded ∧
    ((⟨[], [(3, sealProfile)]⟩ : Library).profile 3 ≠ none ∧ (⟨[], [(3, sealProfile)]⟩ : Library).formats = []) := by
  unfold State.takesNow Library.bounded; decide +kernel

/-- A store that is IDLE, busy, reading and writing; a head that is OFFLINE and one that is not. -/
theorem witness_CoeffReadReportsRecord :
    base.takesNow ∧ (15#8).toNat = (15 : Fin 16).val ∧ base.store.op = .idle ∧ State.reset.takesNow ∧
    State.reset.store.op ≠ .idle ∧
    (let s := (storing (.reading 15)).setLink { base.link with reserved := [⟨0x38, 9⟩] }
     s.store.op = .reading 15 ∧ s.link.reserved = [] ++ ⟨0x38, 9⟩ :: []) ∧
    (let s := (storing (.reading 15)).setLink { base.link with reserved := [⟨0x42, 8⟩, ⟨0x38, 9⟩, ⟨0x42, 10⟩] }
     s.store.op = .reading 15 ∧ s.link.reserved = [⟨0x42, 8⟩] ++ ⟨0x38, 9⟩ :: [⟨0x42, 10⟩] ∧
       ∀ r ∈ [(⟨0x42, 8⟩ : Reserved)], r.kind ≠ 0x38) := by
  unfold State.takesNow; decide

theorem witness_CoeffWriteStoresRecord :
    base.takesNow ∧ (15#8).toNat = (15 : Fin 16).val ∧ base.store.op = .idle ∧ (base.head 15).state = .offline ∧
    ((base.putHead 15 readyHead).head 15).state ≠ .offline ∧ State.reset.store.op ≠ .idle ∧
    (storing (.writing 15 coeffs107)).store.op = .writing 15 coeffs107 ∧
    (base.head 15).monitor.live.getLsbD 5 = false ∧
    (({ live := 0x20 } : Monitor).live.getLsbD 5 = true) := by
  unfold State.takesNow; decide

/-- The fifteenth record and the sixteenth, with a valid record before it and without. -/
theorem witness_LoadJudgesRecords :
    (storing (.loading (List.replicate 14 none))).store.op = .loading (List.replicate 14 none) ∧
    (List.replicate 14 (none : Option CoeffItems)).length = (14 : Fin 16).val ∧ (14 : Fin 16).val < 15 ∧
    (storing (.loading (some coeffs107 :: List.replicate 14 none))).store.op =
      .loading (some coeffs107 :: List.replicate 14 none) ∧
    (some coeffs107 :: List.replicate 14 none).length = (15 : Fin 16).val := by decide

theorem witness_CorrectedCodeIsRounded : (0 : Nat) = 0 ∧ (3000 : Nat) ≠ 0 := by decide

/-- A running timer at an online head and none; a reading above the ceiling and band, one in the standby window, and none. -/
theorem witness_SampleJudgesReading :
    (line.head 5).monitor.sampleTimer = none ∧
    ((line.putHead 5 readyHead).head 5).monitor.sampleTimer = some 10 ∧
    ((line.putHead 5 readyHead).head 5).state ≠ .offline ∧ readyHead.params.loopMode ≠ .dry ∧
    (readyHead.params.ceiling + readyHead.params.band < 2551 ∧ readyHead.monitor.live.getLsbD 1 = false ∧
      readyHead.monitor.highRun < 3 ∧ ({ readyHead.monitor with highRun := 3 } : Monitor).highRun = 3) ∧
    readyHead.monitor.live.getLsbD 2 = false ∧
    (let x : Head := { readyHead with state := .heating, monitor := { readyHead.monitor with ready := 15 } }
     x.state = .heating ∧ x.params.standby ≤ 1450 + x.params.band ∧ 1550 ≤ x.params.standby + x.params.band ∧
     x.monitor.ready = 15) ∧
    (let x := runningHead 2 .closed
     x.state = .running ∧ x.platen = .closed ∧ x.run? = some (runAt 2 0) ∧
     ((runAt 2 0).segments[(runAt 2 0).current]?).map Segment.dose = some true) := by decide

/-- The window is active 500 ms after a change of the setpoint and not at 499, nor in SAFE: 1450 and 1550 are in it, 1449 is low and
1551 high; 2550 is no ceiling sample; an injected sample is low wherever its reading lies. -/
theorem witness_SampleJudgesReading_window :
    let x : Head := { readyHead with tempChanged := some 0 }
    (x.windowHolds 500 ∧ ¬x.windowHolds 499 ∧ ¬({ x with state := .safe } : Head).windowHolds 500) ∧
    (x.readsLow 500 1449 ∧ ¬x.readsLow 500 1450 ∧ x.readsHigh 500 1551 ∧ ¬x.readsHigh 500 1550) ∧
    (¬x.readsHigh 0 2550 ∧ x.readsHigh 0 2551) ∧
    ({ x with monitor := { x.monitor with inject := 1 } } : Head).readsLow 0 1500 := by
  simp [Head.windowHolds, Head.readsLow, Head.readsHigh, readyHead, Head.run?]

/-- One sample short of a declaration or of a clearing, and at it: LOW at 32 and, extended, at 512; HIGH at 4; both clear at 8. -/
theorem witness_SampleJudgesReading_runs :
    (∀ p ∈ [(32, 30), (512, 510), (4, 2)],
      runsMoved True p.1 false p.2 0 false (p.2 + 1) 0 ∧ runsMoved True p.1 false (p.2 + 1) 0 true 0 0) ∧
    runsMoved False 32 false 31 0 false 0 0 ∧
    runsMoved False 32 true 0 6 true 0 7 ∧ runsMoved False 32 true 0 7 false 0 0 ∧ runsMoved True 32 true 0 7 true 0 0 := by
  simp [runsMoved]

/-- A sample that declares COUNT_FULL, one that counts, and what is declared at the end of a sample in each state it is taken in. -/
theorem witness_SampleJudgesReading_taken :
    ({ deviations := 65534 } : Counters).deviations ≠ 65535 ∧ min 65535 (65534 + 1) = 65535 ∧
    (runningHead 2 .closed).dosesNow ∧ ¬(runningHead 2 .opening).dosesNow ∧ ¬(runningHead 1 .closed).dosesNow ∧
    (∀ i ∈ [1, 2, 3], (0#8).getLsbD i = false ∧ (BitVec.ofNat 8 (2 ^ i)).getLsbD i = true) ∧
    (∀ h ∈ [readyHead, runningHead 2 .closed, releasingHead .ready], h.state ≠ .safe ∧ h.state ≠ .offline) ∧
    (runningHead 2 .closed).state = .running ∧ readyHead.state ≠ .running := by
  simp only [Head.dosesNow, exists_and_left]
  refine ⟨by decide, by decide, ⟨rfl, rfl, _, rfl, _, rfl, rfl⟩, fun h => absurd h.2.1 (by decide), ?_, by decide, by decide, by decide, by decide⟩
  rintro ⟨-, -, r, hr, g, hg, hd⟩
  cases hr; cases hg; exact absurd hd (by decide)

theorem witness_PunchStrikesAndEdgesCount_punch :
    (∀ p ∈ [PunchPhase.delay, .asserted], (gating p .delay).gate.activity = some ⟨88, p, .delay, none, none⟩ ∧
      (gating p .delay).gate.punchTimer = some 100) := by decide

theorem witness_DecisionDivertsRejectedPacks :
    (gating .done .delay).gate.activity = some ⟨88, .done, .delay, none, none⟩ ∧
    (gating .done .delay).gate.diverterTimer = some 150 ∧ ((gating .done .delay).track.find 88).isSome = true ∧
    (gating .done .pulse).gate.activity = some ⟨88, .done, .pulse, some 0x44, some 2⟩ ∧
    (gating .done .pulse).gate.diverterTimer = some 150 ∧ ((gating .done .pulse).track.find 88).isSome = true := by
  decide

theorem witness_PunchStrikesAndEdgesCount_edge :
    (∀ d ∈ [DiverterPhase.pulse, .window], (gating .done d).gate.activity.any (fun a => a.diverter == d) = true) ∧
    (gating .done .delay).gate.activity.any (fun a => a.diverter != .pulse && a.diverter != .window) = true ∧
    base.gate.activity = none := by decide

/-- A count that agrees with the number of diverted lanes, and one that does not. -/
theorem witness_ConfirmWindowComparesCounts :
    (∀ d ∈ [DiverterPhase.pulse, .window], (gating .done d).gate.activity = some ⟨88, .done, d, some 0x44, some 2⟩ ∧
      (gating .done d).gate.windowTimer = some 330 ∧ ((gating .done d).track.find 88).isSome = true) ∧
    ((List.range 8).filter fun i => (0x44#8).getLsbD i).length = 2 ∧
    ((List.range 8).filter fun i => (0x45#8).getLsbD i).length ≠ 2 ∧
    (gating .done .window).causes = 0 ∧ ((gating .done .window).setCauseSet 0x08).causes ≠ 0 := by decide

/-- A mismatch with no cause before it, and with one: GATE_MISMATCH joins, and HOLD_CHANGED in the first only (R21, R143). -/
theorem test_confirmWindow_mismatch :
    let s := (gating .done .window).setGate
      { (gating .done .window).gate with activity := some ⟨88, .done, .window, some 0x44, some 1⟩ }
    after .confirmWindowExpiry s (fun t => (t.causes, t.trackStatus.changed)) = some (0x08, 0x14) ∧
    after .confirmWindowExpiry (s.setCauseSet 0x01) (fun t => (t.causes, t.trackStatus.changed)) = some (0x09, 0x04) := by
  decide

/-- The invariants hold after reset, which steps. -/
theorem witness_StepKeepsBounds :
    State.reset.queuesBounded ∧ State.reset.library.bounded ∧ State.reset.track.shaped ∧ (nextOf (step State.reset)).isSome = true := by
  refine ⟨?_, ?_, ?_, by decide⟩
  · unfold State.queuesBounded; decide
  · unfold Library.bounded; decide
  · unfold Track.shaped; decide

theorem witness_StepKeepsSerials :
    line.track.shaped ∧ line.track.numbered ∧ (nextOf (step line)).isSome = true ∧ line.track.nestAt 6 = some (nest 52) := by
  refine ⟨?_, line_numbered, by decide, by decide⟩
  unfold Track.shaped; decide

theorem witness_StepKeepsHeadsCoherent :
    base.everyHead Head.coherent ∧ base.everyHead Head.presentsSafely ∧ base.storeServesOffline ∧
      (nextOf (step base)).isSome = true := by
  refine ⟨?_, ?_, ?_, by decide⟩
  · intro h; rw [show base.head h = {} by revert h; decide]; simp [Head.coherent, Head.run?]
  · unfold State.everyHead Head.presentsSafely; decide
  · exact ⟨fun _ h => (nomatch (show StoreOp.idle = _ from h)), fun _ _ h => (nomatch (show StoreOp.idle = _ from h))⟩

/-- A READY head at 1500 presents the code of its setpoint, and one in DRY, in SAFE or OFFLINE presents 0. -/
theorem witness_StepKeepsHeadsCoherent_presents :
    readyHead.presentsSafely ∧ readyHead.heaterCode = 30000 ∧ readyHead.coherent ∧
    ({ readyHead with params := { readyHead.params with loopMode := .dry }, heaterCode := 0 } : Head).presentsSafely ∧
    ({ readyHead with state := .safe, tempSet := 0, heaterCode := 0 } : Head).presentsSafely ∧
    (∀ op ∈ [StoreOp.loading [], .writing 5 coeffs107], (storing op).storeServesOffline) := by
  have off : ∀ op h, ((storing op).head h).state = .offline := fun op h => by
    show (State.reset.head h).state = .offline; revert h; decide
  refine ⟨?_, rfl, ?_, ?_, ?_, fun op _ => ⟨fun _ _ => off op, fun h _ _ => off op h⟩⟩
  · unfold Head.presentsSafely; decide
  · simp [Head.coherent, readyHead, Head.run?]
  · unfold Head.presentsSafely; decide
  · unfold Head.presentsSafely; decide

theorem witness_StepKeepsCauseAndBindings :
    base.headSafeFollows ∧ base.bindingsDistinct ∧ (nextOf (step base)).isSome = true := by
  refine ⟨?_, ?_, by decide⟩
  · unfold State.headSafeFollows; decide
  · unfold State.bindingsDistinct; decide

end Sys2Proof.Tests
end

