-- ==== Sys2Proof/Proofs/HeadMoves.lean ====
section
/-! PROOFS. What one act of the device can do, seen as moves of the track, the cause set, the heads and the library: the moves an
invariant has to survive, and that every command is made of them. -/

namespace Sys2Proof.Machine

/-! ### Heads leave HEAD_SAFE to its evaluation (R19) -/

/-- Whether a head has posted HEAD_SAFE as an effect of its own, which none does. -/
def HeadCtx.postsHeadSafe (x : HeadCtx) : Prop := HeadEffect.cause .headSafe ∈ x.out

section PostsHeadSafe

variable (x : HeadCtx)

theorem HeadCtx.postsHeadSafe_congr {x y : HeadCtx} (h : y.out = x.out) : y.postsHeadSafe ↔ x.postsHeadSafe := by
  simp [HeadCtx.postsHeadSafe, h]

@[simp] theorem HeadCtx.mapHead_postsHeadSafe (f : Head → Head) : (x.mapHead f).postsHeadSafe ↔ x.postsHeadSafe := Iff.rfl
@[simp] theorem HeadCtx.post_postsHeadSafe (e : SolicitedEvent) : (x.post e).postsHeadSafe ↔ x.postsHeadSafe := Iff.rfl
@[simp] theorem HeadCtx.setCond_postsHeadSafe (c : Cond) (on : Bool) : (x.setCond c on).postsHeadSafe ↔ x.postsHeadSafe := Iff.rfl

theorem HeadCtx.emit_postsHeadSafe {e : HeadEffect} (he : e ≠ .cause .headSafe) : (x.emit e).postsHeadSafe ↔ x.postsHeadSafe := by
  simp [HeadCtx.postsHeadSafe, Ne.symm he]

@[simp] theorem HeadCtx.writeEnd_postsHeadSafe (r : EndReason) : (x.writeEnd r).postsHeadSafe ↔ x.postsHeadSafe := by
  unfold HeadCtx.writeEnd
  split
  · exact x.emit_postsHeadSafe (by simp)
  · rfl

@[simp] theorem HeadCtx.finish_postsHeadSafe (r : EndReason) (p : Bool) : (x.finish r p).postsHeadSafe ↔ x.postsHeadSafe := by
  simp only [HeadCtx.finish]; split <;> simp

@[simp] theorem HeadCtx.confirm_postsHeadSafe (r : Release) : (x.confirm r).postsHeadSafe ↔ x.postsHeadSafe :=
  HeadCtx.postsHeadSafe_congr (x.confirm_out r)

@[simp] theorem HeadCtx.beginRelease_postsHeadSafe (d : ReleaseDest) (o : Bool) :
    (x.beginRelease d o).postsHeadSafe ↔ x.postsHeadSafe :=
  HeadCtx.postsHeadSafe_congr (x.beginRelease_out d o)

@[simp] theorem HeadCtx.abnormal_postsHeadSafe (r : EndReason) (d : ReleaseDest) (p : Bool) :
    (x.abnormal r d p).postsHeadSafe ↔ x.postsHeadSafe := by
  simp only [HeadCtx.abnormal]; split <;> simp

@[simp] theorem HeadCtx.enterSafe_postsHeadSafe (r : EndReason) : (x.enterSafe r).postsHeadSafe ↔ x.postsHeadSafe := by
  unfold HeadCtx.enterSafe; (repeat' split) <;> simp

@[simp] theorem HeadCtx.beginSegment_postsHeadSafe (n : Nat) (g : Segment) :
    (x.beginSegment n g).postsHeadSafe ↔ x.postsHeadSafe :=
  HeadCtx.postsHeadSafe_congr (x.beginSegment_out n g)

@[simp] theorem HeadCtx.endSegment_postsHeadSafe (r : Run) : (x.endSegment r).2.postsHeadSafe ↔ x.postsHeadSafe := by
  simp only [HeadCtx.endSegment]; (repeat' split) <;> simp

@[simp] theorem HeadCtx.complete_postsHeadSafe : x.complete.postsHeadSafe ↔ x.postsHeadSafe := by
  simp only [HeadCtx.complete]; split <;> simp

@[simp] theorem HeadCtx.runFrom_postsHeadSafe (fuel n : Nat) : (x.runFrom fuel n).postsHeadSafe ↔ x.postsHeadSafe := by
  induction fuel generalizing n x with
  | zero => rfl
  | succ fuel ih => simp only [HeadCtx.runFrom]; (repeat' split) <;> simp [ih]

@[simp] theorem HeadCtx.advance_postsHeadSafe : x.advance.postsHeadSafe ↔ x.postsHeadSafe := by
  unfold HeadCtx.advance; split <;> simp

@[simp] theorem HeadCtx.launch_postsHeadSafe (o : Origin) (r : Run) : (x.launch o r).postsHeadSafe ↔ x.postsHeadSafe := by
  simp [HeadCtx.launch]

@[simp] theorem HeadCtx.dropPending_postsHeadSafe : x.dropPending.postsHeadSafe ↔ x.postsHeadSafe := Iff.rfl

@[simp] theorem HeadCtx.startPack_postsHeadSafe (l : Library) (c : Option Nat) :
    (x.startPack l c).postsHeadSafe ↔ x.postsHeadSafe := by
  unfold HeadCtx.startPack; (repeat' split) <;> simp

@[simp] theorem HeadCtx.choose_postsHeadSafe (l : Library) (r : PackRef) (c : Nat) :
    (x.choose l r c).postsHeadSafe ↔ x.postsHeadSafe := by
  simp only [HeadCtx.choose]; (repeat' split) <;> simp

@[simp] theorem HeadCtx.select_postsHeadSafe (l : Library) (r : PackRef) (p : Pack) :
    (x.select l r p).postsHeadSafe ↔ x.postsHeadSafe := by
  unfold HeadCtx.select; (repeat' split) <;> simp [HeadCtx.emit_postsHeadSafe]

@[simp] theorem HeadCtx.closedEdge_postsHeadSafe : x.closedEdge.postsHeadSafe ↔ x.postsHeadSafe := by
  unfold HeadCtx.closedEdge; (repeat' split) <;> simp

@[simp] theorem HeadCtx.openEdge_postsHeadSafe : x.openEdge.postsHeadSafe ↔ x.postsHeadSafe := by
  unfold HeadCtx.openEdge; (repeat' split) <;> simp

@[simp] theorem HeadCtx.indexStart_postsHeadSafe : x.indexStart.postsHeadSafe ↔ x.postsHeadSafe := by
  simp only [HeadCtx.indexStart]; (repeat' split) <;> simp [HeadCtx.emit_postsHeadSafe]

@[simp] theorem HeadCtx.sample_postsHeadSafe (port : Option Nat) : (x.sample port).postsHeadSafe ↔ x.postsHeadSafe := by
  have low (k : SampleClass) (x : HeadCtx) : (x.moveLow k).postsHeadSafe ↔ x.postsHeadSafe := by
    simp only [HeadCtx.moveLow, HeadCtx.settleCond]; (repeat' split) <;> simp
  have high (k : SampleClass) (x : HeadCtx) : (x.moveHigh k).postsHeadSafe ↔ x.postsHeadSafe := by
    simp only [HeadCtx.moveHigh, HeadCtx.settleCond]; (repeat' split) <;> simp
  have sensor (k : SampleClass) (x : HeadCtx) : (x.moveSensor k).postsHeadSafe ↔ x.postsHeadSafe := by
    unfold HeadCtx.moveSensor; split <;> simp
  have platen (x : HeadCtx) : x.movePlatenCond.postsHeadSafe ↔ x.postsHeadSafe := by
    simp only [HeadCtx.movePlatenCond]; split <;> simp
  have count (k : SampleClass) (x : HeadCtx) : (x.countSample k).postsHeadSafe ↔ x.postsHeadSafe := by
    simp only [HeadCtx.countSample]; split <;> simp
  have seen (x : HeadCtx) : x.markLowSeen.postsHeadSafe ↔ x.postsHeadSafe := by
    unfold HeadCtx.markLowSeen; split <;> simp
  have ready (m : Option Nat) (x : HeadCtx) : (x.moveReady m).postsHeadSafe ↔ x.postsHeadSafe := by
    simp only [HeadCtx.moveReady]; split <;> simp
  have declared (b : Head) (x : HeadCtx) : (x.takeDeclared b).postsHeadSafe ↔ x.postsHeadSafe := by
    simp only [HeadCtx.takeDeclared]; (repeat' split) <;> simp
  simp only [HeadCtx.sample, declared, ready, seen, count, platen, sensor, high, low, HeadCtx.mapHead_postsHeadSafe]

end PostsHeadSafe

/-- An act of a head that leaves its binding and hold-on-safe as they are, and HEAD_SAFE to its evaluation (R19, R66). -/
def HeadCtx.plain (f : HeadCtx → HeadCtx) : Prop :=
  ∀ x, (f x).head.params.binding = x.head.params.binding ∧ (f x).head.params.holdOnSafe = x.head.params.holdOnSafe ∧
    ((f x).postsHeadSafe ↔ x.postsHeadSafe)

theorem HeadCtx.plain_of {f : HeadCtx → HeadCtx} (hp : ∀ x, (f x).head.params = x.head.params)
    (ho : ∀ x, (f x).postsHeadSafe ↔ x.postsHeadSafe) : HeadCtx.plain f :=
  fun x => ⟨by rw [hp], by rw [hp], ho x⟩

section Plain

theorem HeadCtx.abnormal_plain (r : EndReason) (d : ReleaseDest) (p : Bool) : HeadCtx.plain (HeadCtx.abnormal r d p) :=
  HeadCtx.plain_of (by simp) (by simp)
theorem HeadCtx.startPack_plain (l : Library) (c : Option Nat) : HeadCtx.plain (HeadCtx.startPack l c) :=
  HeadCtx.plain_of (by simp) (by simp)
theorem HeadCtx.indexStart_plain : HeadCtx.plain HeadCtx.indexStart := HeadCtx.plain_of (by simp) (by simp)
theorem HeadCtx.trackStop_plain : HeadCtx.plain HeadCtx.trackStop :=
  HeadCtx.plain_of (by simp) (fun x => by unfold HeadCtx.trackStop; split <;> simp)
theorem HeadCtx.online_plain : HeadCtx.plain HeadCtx.online :=
  HeadCtx.plain_of (by simp) (fun x => by simp only [HeadCtx.online]; split <;> simp)
theorem HeadCtx.offline_plain : HeadCtx.plain HeadCtx.offline :=
  HeadCtx.plain_of (by simp) (fun x => by simp only [HeadCtx.offline]; (repeat' split) <;> simp)
theorem HeadCtx.clear_plain : HeadCtx.plain HeadCtx.clear :=
  HeadCtx.plain_of (by simp) (fun x => by
    refine (HeadCtx.postsHeadSafe_congr (x := ite (x.head.cycle.isSome = true) _ (ite (x.head.state = .safe) _ _)) rfl).trans ?_
    (repeat' split) <;> simp)
theorem HeadCtx.releaseSafe_plain : HeadCtx.plain HeadCtx.releaseSafe :=
  HeadCtx.plain_of (by simp) (fun x => by unfold HeadCtx.releaseSafe; (repeat' split) <;> simp)
theorem HeadCtx.releaseExpiry_plain : HeadCtx.plain HeadCtx.releaseExpiry :=
  HeadCtx.plain_of (by simp) (fun x => by simp [HeadCtx.releaseExpiry, HeadCtx.emit_postsHeadSafe])
theorem HeadCtx.openLate_plain : HeadCtx.plain HeadCtx.openLate :=
  HeadCtx.plain_of (by simp) (fun x => by simp [HeadCtx.openLate, HeadCtx.emit_postsHeadSafe])
theorem HeadCtx.segmentExpiry_plain : HeadCtx.plain HeadCtx.segmentExpiry :=
  HeadCtx.plain_of (by simp) (fun x => by simp only [HeadCtx.segmentExpiry]; split <;> simp)
theorem HeadCtx.rampStep_plain (p : Ramp) : HeadCtx.plain (HeadCtx.rampStep p) :=
  HeadCtx.plain_of (by simp) (by simp [HeadCtx.rampStep])
theorem HeadCtx.sampleAt_plain (t : Nat) (r : Option Nat) : HeadCtx.plain (HeadCtx.sampleAt t r) :=
  HeadCtx.plain_of (by simp [HeadCtx.sampleAt, Head.nextSample]) (by simp [HeadCtx.sampleAt])
theorem HeadCtx.zeroCounters_plain : HeadCtx.plain HeadCtx.zeroCounters :=
  HeadCtx.plain_of (by simp) (fun x => by simp only [HeadCtx.zeroCounters]; split <;> simp)
theorem HeadCtx.enables_plain (m g : Byte) : HeadCtx.plain (HeadCtx.enables m g) := fun _ => ⟨rfl, rfl, Iff.rfl⟩
theorem HeadCtx.once_plain (r : CycleOnceReq) (gs : List Segment) : HeadCtx.plain (HeadCtx.once r gs) :=
  HeadCtx.plain_of (by simp [HeadCtx.once]) (by simp [HeadCtx.once])
theorem HeadCtx.loadCoeffs_plain (i : Option CoeffItems) : HeadCtx.plain (HeadCtx.loadCoeffs i) :=
  fun x => by cases i <;> exact ⟨rfl, rfl, Iff.rfl⟩
theorem HeadCtx.writeCoeffs_plain (c : CoeffItems) : HeadCtx.plain (HeadCtx.writeCoeffs c) :=
  fun x => by simp only [HeadCtx.writeCoeffs]; split <;> exact ⟨rfl, rfl, Iff.rfl⟩
theorem HeadCtx.physicalEdge_plain {f : HeadCtx → HeadCtx} (hf : HeadCtx.plain f) : HeadCtx.plain (HeadCtx.physicalEdge f) :=
  fun x => by unfold HeadCtx.physicalEdge; split; exacts [⟨rfl, rfl, Iff.rfl⟩, hf x]
theorem HeadCtx.closedEdge_plain : HeadCtx.plain HeadCtx.closedEdge := HeadCtx.plain_of (by simp) (by simp)
theorem HeadCtx.openEdge_plain : HeadCtx.plain HeadCtx.openEdge := HeadCtx.plain_of (by simp) (by simp)
theorem HeadCtx.virtualEdge_plain (e : VirtualEdge) : HeadCtx.plain (HeadCtx.virtualEdge e) := by
  cases e
  · exact HeadCtx.plain_of (by simp [HeadCtx.virtualEdge]) (by simp [HeadCtx.virtualEdge])
  · exact HeadCtx.plain_of (by simp [HeadCtx.virtualEdge]) (by simp [HeadCtx.virtualEdge])
/-- A head's act on a nest at a station. -/
theorem HeadCtx.select_plain (l : Library) (st : Station) (n : Nest) :
    HeadCtx.plain fun x =>
      match x.head.boundLane st with
      | some lane => x.select l ⟨n.serial, lane, st⟩ (n.packs.get lane)
      | none => x :=
  HeadCtx.plain_of (fun x => by split <;> simp) (fun x => by split <;> simp)

end Plain

end Sys2Proof.Machine
end

