-- ==== Sys2Proof/Proofs/Moves.lean ====
section
/-! PROOFS. The moves of the track, and the moves of the whole state that one act is made of. -/

namespace Sys2Proof.Machine

/-! ### What an act can do to the track -/

/-- One change of the track (R1 to R12, R15, R25, R41): its clocks run, it leaves HALTED, nests are written, manifests are posted or
taken, a report is made or sent, the nests move up and one enters, it stops, or it is configured. -/
inductive Track.Change (t : Track) : Track → Prop
  | clocks (index : IndexState) (stall : Option Nat) (steps : List Nat) :
      Track.Change t { t with index := index, stallTimer := stall, steps := steps }
  | start (m : TrackMode) (h : t.mode = .halted) : Track.Change t { t with mode := m }
  | writes (f : Nest → Nest) (h : ∀ n, (f n).serial = n.serial) : Track.Change t { t with slots := t.slots.map (Option.map f) }
  | manifests (l : List (Lanes Nat)) (h : l.length ≤ t.manifests.length ∨ l.length ≤ 32) :
      Track.Change t { t with manifests := l }
  | report (n : Nest) : Track.Change t (t.report n)
  | sent : Track.Change t { t with outcomes := t.outcomes.tail }
  | enters (n : Nest) (h : t.mode ≠ .halted) (hn : n.serial = t.serial) :
      Track.Change t
        { t.move with
          slots := t.move.slots.set 0 (some n)
          serial := nextSerial t.serial
          manifests := t.manifests.tail }
  | stop : Track.Change t { t with slots := List.replicate t.config.length none, mode := .halted }
  | configure (c : TrackConfig) (hc : c.valid = true) (h : t.mode = .halted) : Track.Change t (t.configure c)

/-- The bounds of the queues of the track (R25, R41, R43). -/
def Track.queued (t : Track) : Prop :=
  t.manifests.length ≤ 32 ∧ t.outcomes.length ≤ 16 ∧ t.lost ≤ 255

theorem Track.shaped_length {t : Track} (h : t.shaped) : 4 ≤ t.slots.length ∧ t.slots.length ≤ 24 := by
  obtain ⟨hv, hl, -⟩ := h
  simp only [TrackConfig.valid, within, Bool.and_eq_true, decide_eq_true_eq] at hv
  omega

theorem Track.nestAt_lt {t : Track} {p : Nat} {n : Nest} (h : t.nestAt p = some n) : p < t.slots.length := by
  unfold Track.nestAt at h
  by_contra hp
  rw [List.getElem?_eq_none (by omega)] at h
  cases h

theorem Track.nestAt_empty {t : Track} (h : ∀ o ∈ t.slots, o = none) (p : Nat) : t.nestAt p = none := by
  unfold Track.nestAt
  rcases e : t.slots[p]? with _ | o
  · rfl
  · rw [h o (List.mem_of_getElem? e)]; rfl

theorem Track.numbered_of_empty {t u : Track} (hs : u.serial = t.serial) (h : ∀ o ∈ u.slots, o = none) (hn : t.numbered) :
    u.numbered := by
  obtain ⟨h1, h2, -⟩ := hn
  exact ⟨hs ▸ h1, hs ▸ h2, fun p n e => by rw [Track.nestAt_empty h] at e; cases e⟩

/-- The outcome queue and the lost-report count after a report (R41, R43). -/
theorem Track.report_queued (n : Nest) (t : Track) (h : t.queued) : (t.report n).queued := by
  obtain ⟨hm, ho, hl⟩ := h
  unfold Track.report
  split
  · rename_i room
    simp only [Config.outcomeRoom] at room
    exact ⟨hm, by simp; omega, by simp⟩
  · exact ⟨hm, ho, by simp⟩

theorem Track.report_slots (n : Nest) (t : Track) :
    (t.report n).slots = t.slots ∧ (t.report n).serial = t.serial ∧ (t.report n).config = t.config ∧ (t.report n).mode = t.mode := by
  unfold Track.report; split <;> exact ⟨rfl, rfl, rfl, rfl⟩

theorem Track.Change.queued {t u : Track} (c : Track.Change t u) (h : t.queued) : u.queued := by
  obtain ⟨hm, ho, hl⟩ := h
  cases c with
  | clocks | start | writes | stop | configure => exact ⟨hm, ho, hl⟩
  | manifests l h => exact ⟨by dsimp only; omega, ho, hl⟩
  | report n => exact t.report_queued n ⟨hm, ho, hl⟩
  | sent => exact ⟨hm, by simp; omega, hl⟩
  | enters n => exact ⟨by simp; omega, ho, hl⟩

theorem Track.Change.shaped {t u : Track} (c : Track.Change t u) (h : t.shaped) : u.shaped := by
  have ⟨hv, hl, he⟩ := h
  cases c with
  | clocks | manifests | sent => exact ⟨hv, hl, he⟩
  | start m hm => exact ⟨hv, hl, fun _ => he hm⟩
  | writes f _ =>
    refine ⟨hv, by simpa using hl, fun hm o ho => ?_⟩
    obtain ⟨o', ho', rfl⟩ := List.mem_map.1 ho
    rw [he hm o' ho']; rfl
  | report n =>
    obtain ⟨e1, -, e3, e4⟩ := t.report_slots n
    exact ⟨by rw [e3]; exact hv, by rw [e1, e3]; exact hl, by rw [e1, e4]; exact he⟩
  | enters n hm _ =>
    refine ⟨hv, ?_, fun e => absurd e hm⟩
    simp only [Track.move, List.length_set, List.length_take, List.length_cons]
    omega
  | stop => exact ⟨hv, by simp, fun _ o ho => List.eq_of_mem_replicate ho⟩
  | configure c hc hm => exact ⟨hc, by simp [Track.configure], fun _ o ho => List.eq_of_mem_replicate ho⟩

/-- The nests that move up and the one that enters carry the numbers that the advanced counter asks for (R11). -/
theorem Track.numbered_enters {t : Track} (n : Nest) (hs : t.shaped) (h : t.numbered) (hn : n.serial = t.serial) :
    Track.numbered
      { t.move with
        slots := t.move.slots.set 0 (some n)
        serial := nextSerial t.serial
        manifests := t.manifests.tail } := by
  obtain ⟨h1, h2, h3⟩ := h
  have ⟨l4, l24⟩ := Track.shaped_length hs
  have hl : 1 ≤ t.config.length := by rw [← hs.2.1]; omega
  refine ⟨?_, ?_, fun p m e => ?_⟩
  · unfold nextSerial; dsimp only; split <;> omega
  · unfold nextSerial; dsimp only; split <;> omega
  have e' := (t.nestAt_moved hl n p).symm.trans e
  rcases p with _ | q
  · cases e'
    unfold nextSerial
    dsimp only
    split <;> omega
  · dsimp only at e'
    split at e'
    · have hq := Track.nestAt_lt e'
      rw [h3 q m e']
      unfold nextSerial
      dsimp only
      split <;> omega
    · cases e'

theorem Track.Change.numbered {t u : Track} (c : Track.Change t u) (hs : t.shaped) (h : t.numbered) : u.numbered := by
  cases c with
  | clocks | start | manifests | sent => exact h
  | writes f hf =>
    obtain ⟨h1, h2, h3⟩ := h
    refine ⟨h1, h2, fun p n e => ?_⟩
    have en : (t.nestAt p).map f = some n := by
      rw [← e]; simp only [Track.nestAt, List.getElem?_map]; rcases t.slots[p]? with _ | _ | _ <;> rfl
    obtain ⟨m, em, rfl⟩ := Option.map_eq_some_iff.1 en
    rw [hf]; exact h3 p m em
  | report n =>
    obtain ⟨e1, e2, -, -⟩ := t.report_slots n
    unfold Track.numbered Track.nestAt
    rw [e1, e2]; exact h
  | enters n _ hn => exact Track.numbered_enters n hs h hn
  | stop => exact Track.numbered_of_empty (t := t) rfl (fun o ho => List.eq_of_mem_replicate ho) h
  | configure c _ _ => exact Track.numbered_of_empty (t := t) rfl (fun o ho => List.eq_of_mem_replicate ho) h

theorem Track.Change.updateNest (t : Track) (serial : Nat) (f : Nest → Nest) (h : ∀ n, (f n).serial = n.serial) :
    Track.Change t (t.updateNest serial f) :=
  .writes _ fun n => by split; exacts [h n, rfl]

/-! ### What an act can do to the library -/

/-- One change of the library: its tables keep their bounds (R47, R54). -/
def Library.change (l m : Library) : Prop := l.bounded → m.bounded

/-! ### What an act can do to the state -/

/-- Whether two states agree on what the moves speak of: the track, the heads, the library, the link and HEAD_SAFE. -/
def State.agrees (s t : State) : Prop :=
  t.track = s.track ∧ t.heads = s.heads ∧ t.library = s.library ∧ t.link = s.link ∧
    BitSet.has t.causes Cause.headSafe.bit = BitSet.has s.causes Cause.headSafe.bit

/-- One move of an act. -/
inductive State.Move (s : State) : State → Prop
  | rest (t : State) (h : s.agrees t) : State.Move s t
  | track (k : Track) (h : Track.Change s.track k) : State.Move s (s.setTrack k)
  | library (l : Library) (h : s.library.change l) : State.Move s (s.setLibrary l)
  | head (h : Fin 16) (f : HeadCtx → HeadCtx) (hf : HeadCtx.plain f) : State.Move s (s.actHead h f)
  | records (x : Bank Head) (h : ∀ i, (x.get i).params = (s.head i).params ∧ (x.get i).state = (s.head i).state) :
      State.Move s (s.setHeads x)
  | setup (h : Fin 16) (p : HeadParams) (off : (s.head h).state = .offline) (free : s.boundElsewhere h p.binding = false) :
      State.Move s (s.putHead h { s.head h with params := p })
  | softReset : State.Move s s.softReset
  | deviceReset (a b : BitVec 16) : State.Move s (s.deviceReset a b)

/-- The moves of an act in order. -/
def State.Moves : State → State → Prop := Relation.ReflTransGen State.Move

theorem State.Move.moves {s t : State} (m : s.Move t) : s.Moves t := Relation.ReflTransGen.single m

theorem State.Moves.refl (s : State) : s.Moves s := Relation.ReflTransGen.refl

theorem State.Moves.trans {s t u : State} (a : s.Moves t) (b : t.Moves u) : s.Moves u := Relation.ReflTransGen.trans a b

theorem State.Moves.of_agrees {s t : State} (h : s.agrees t) : s.Moves t := (State.Move.rest t h).moves

theorem State.Moves.of_change {s : State} {k : Track} (h : Track.Change s.track k) : s.Moves (s.setTrack k) :=
  (State.Move.track k h).moves

theorem State.Moves.of_head {s : State} (h : Fin 16) {f : HeadCtx → HeadCtx} (hf : HeadCtx.plain f) : s.Moves (s.actHead h f) :=
  (State.Move.head h f hf).moves

/-- A property that every move keeps is kept by the moves of an act. -/
theorem State.Moves.keeps {P : State → Prop} (hP : ∀ s t : State, P s → s.Move t → P t) {s t : State} (m : s.Moves t) (h : P s) :
    P t := by
  induction m with
  | refl => exact h
  | tail _ m ih => exact hP _ _ ih m

end Sys2Proof.Machine
end

