-- ==== Sys2Proof/Proofs/TrackMoves.lean ====
section
/-! PROOFS. The operations of the track, the gate and the store as moves. -/

namespace Sys2Proof.Machine

variable {s : State}

/-! ### Events, causes and the manifest threshold -/

theorem State.postTrack_moves (e : TrackEvent) : s.Moves (s.postTrack e) :=
  .of_agrees ⟨rfl, rfl, rfl, rfl, rfl⟩

theorem State.changeCauses_moves {x : Byte} (h : BitSet.has x Cause.headSafe.bit = BitSet.has s.causes Cause.headSafe.bit) :
    s.Moves (s.changeCauses x) :=
  .of_agrees ⟨by simp, by simp, by simp, by simp, by rw [State.changeCauses_causes]; exact h⟩

theorem State.postCause_moves {c : Cause} (h : c ≠ .headSafe) : s.Moves (s.postCause c) :=
  State.changeCauses_moves (by cases c <;> simp_all [BitSet.add, BitSet.has, Cause.bit])

theorem State.dropCause_moves {c : Cause} (h : c ≠ .headSafe) : s.Moves (s.dropCause c) :=
  State.changeCauses_moves (by cases c <;> simp_all [BitSet.remove, BitSet.has, Cause.bit])

theorem State.crossManifest_moves {k : Track} (h : Track.Change s.track k) : s.Moves (s.crossManifest k) := by
  unfold State.crossManifest
  dsimp only
  split
  · exact .of_change h
  · exact (State.Moves.of_change h).trans (State.postTrack_moves _)

theorem State.actHeads_moves {f : Fin 16 → HeadCtx → HeadCtx} (hf : ∀ h, HeadCtx.plain (f h)) (l : List (Fin 16)) :
    s.Moves (s.actHeads f l) := by
  induction l generalizing s with
  | nil => exact .refl s
  | cons h rest ih => exact (State.Moves.of_head h (hf h)).trans ih

/-! ### The gate -/

theorem State.setGate_moves (g : Gate) : s.Moves (s.setGate g) := .of_agrees ⟨rfl, rfl, rfl, rfl, rfl⟩

theorem State.updateNest_moves {serial : Nat} {f : Nest → Nest} (h : ∀ n, (f n).serial = n.serial) :
    s.Moves (s.setTrack (s.track.updateNest serial f)) :=
  .of_change (.updateNest s.track serial f h)

theorem State.divert_moves : s.Moves s.divert := by
  unfold State.divert
  split
  · exact .refl s
  · exact (State.updateNest_moves (f := Nest.decide s.track.config.verdictRequired) fun _ => rfl).trans (State.setGate_moves _)

theorem State.gateArrival_moves (n : Nest) : s.Moves (s.gateArrival n) := by
  have some_gate (g : Gate) : s.Moves (if s.gate.config.punchDelay = 0 then (s.setGate g).setGate ((s.setGate g).gate.strike s.now) else s.setGate g) := by
    split <;> exact .of_agrees ⟨rfl, rfl, rfl, rfl, rfl⟩
  unfold State.gateArrival
  split
  · exact State.setGate_moves _
  · dsimp only
    split
    · exact (some_gate _).trans State.divert_moves
    · exact some_gate _

theorem State.windowEnd_moves (a : GateActivity) : s.Moves (s.windowEnd a) := by
  have close := (State.updateNest_moves (s := s) (serial := a.serial) (f := fun n => { n with confirm := some (a.confirm.getD 0) })
    fun _ => rfl).trans (State.setGate_moves (s.gate.closeWindow .done))
  unfold State.windowEnd
  dsimp only
  split
  · exact close
  · exact close.trans ((State.postCause_moves (by simp)).trans (State.postTrack_moves _))

theorem State.endWindow_moves : s.Moves s.endWindow := by
  unfold State.endWindow
  split
  · exact .refl s
  · exact State.windowEnd_moves _

theorem State.gateIndexStart_moves : s.Moves s.gateIndexStart := by
  have cutDiverter (a : GateActivity) (u : State) : u.Moves
      (if a.diverter = .delay then u.setGate u.gate.cutDelay
       else if a.windowOpen then
         (u.setTrack (u.track.putConfirm a.serial (a.confirm.getD 0))).setGate (u.gate.closeWindow .cut)
       else u) := by
    split
    · exact State.setGate_moves _
    · split
      · exact (State.updateNest_moves (f := fun n => { n with confirm := some (a.confirm.getD 0) }) fun _ => rfl).trans
          (State.setGate_moves _)
      · exact .refl u
  have cutPunch (a : GateActivity) : s.Moves (if a.punchBusy then s.setGate s.gate.cutPunch else s) := by
    split
    · exact State.setGate_moves _
    · exact .refl s
  unfold State.gateIndexStart
  split
  · exact .refl s
  · rename_i a _
    split
    · exact (cutPunch a).trans ((cutDiverter a _).trans ((State.postCause_moves (by simp)).trans (State.postTrack_moves _)))
    · exact .refl s

/-! ### The shift -/

theorem State.discharge_moves (n : Nest) : s.Moves (s.discharge n) := by
  unfold State.discharge
  dsimp only
  split
  · exact (State.Moves.of_change (.report n)).trans (State.postCause_moves (by simp))
  · exact .of_change (.report n)

theorem dischargeAll_moves (l : List Nest) : s.Moves (dischargeAll l s) := by
  induction l generalizing s with
  | nil => exact .refl s
  | cons n rest ih => exact (State.discharge_moves n).trans ih

theorem State.withNestAt_moves {p : Nat} {f : Nest → State → State} (h : ∀ n, s.Moves (f n s)) : s.Moves (s.withNestAt p f) := by
  unfold State.withNestAt
  split
  · exact h _
  · exact .refl s

theorem State.stationArrival_moves (st : Station) (n : Nest) : s.Moves (s.stationArrival st n) := by
  refine State.Moves.trans ?_ (State.updateNest_moves fun _ => rfl)
  exact State.actHeads_moves (fun _ => HeadCtx.select_plain s.library st n) _

theorem State.arrivals_moves : s.Moves s.arrivals := by
  have form : s.Moves s.formArrival := by
    unfold State.formArrival
    split
    · exact State.withNestAt_moves fun n => State.stationArrival_moves .form n
    · exact .refl s
  exact form.trans ((State.withNestAt_moves fun n => State.stationArrival_moves .sealing n).trans
    (State.withNestAt_moves fun n => State.gateArrival_moves n))

/-- The movement and the entry change the track as one, and the rest of the entry posts. -/
theorem State.move_entry_moves (h : s.track.mode ≠ .halted) : s.Moves (s.setTrack s.track.move).entry := by
  have enters := Track.Change.enters (t := s.track)
    (Nest.entering s.track.serial ((s.setTrack s.track.move).track.indexCount) s.track.manifests.isEmpty
      (s.track.manifests.head?.getD (Lanes.fill 0))) h rfl
  refine (State.Moves.of_change enters).trans (.of_agrees ⟨?_, by simp, by simp, by simp, ?_⟩)
  · rw [State.entry_track]; rfl
  · rw [State.entry_causes]; split <;> simp [BitSet.has, Cause.bit]

theorem State.discharge_mode (n : Nest) : (s.discharge n).track.mode = s.track.mode := by
  rw [State.discharge_eq, State.changeCauses_track]; exact (s.track.report_slots n).2.2.2

theorem State.shift_moves (h : s.track.mode ≠ .halted) : s.Moves s.shift := by
  have out : s.Moves (s.withNestAt (s.track.config.length - 1) State.discharge) :=
    State.withNestAt_moves fun n => State.discharge_moves n
  have mode : (s.withNestAt (s.track.config.length - 1) State.discharge).track.mode ≠ .halted := by
    unfold State.withNestAt
    split
    · rw [State.discharge_mode]; exact h
    · exact h
  exact out.trans ((State.move_entry_moves mode).trans State.arrivals_moves)

/-! ### The index and TRACK-STOP -/

theorem State.takeIndexStart_moves : s.Moves s.takeIndexStart := by
  have first : s.Moves s.trackIndexStart := by
    unfold State.trackIndexStart
    split
    · exact State.postTrack_moves _
    · exact .of_change (.clocks _ _ _)
  exact first.trans ((State.actHeads_moves (fun _ => HeadCtx.indexStart_plain) _).trans State.gateIndexStart_moves)

theorem State.takeIndexDone_moves {m : TrackMode} (hm : m ≠ .halted) : s.Moves (s.takeIndexDone m).1 := by
  unfold State.takeIndexDone
  split
  · exact State.postTrack_moves _
  · have back : s.Moves (s.setTrack { s.track with index := .dwell, stallTimer := none }) := .of_change (.clocks _ _ s.track.steps)
    dsimp only
    split
    · rename_i e
      exact back.trans (State.shift_moves (by simpa [e] using hm))
    · exact back

theorem State.stopTrack_moves : s.Moves s.stopTrack := by
  have clock : s.Moves (s.setTrack { s.track with stallTimer := none }) := .of_change (.clocks s.track.index _ s.track.steps)
  exact clock.trans ((dischargeAll_moves _).trans ((State.Moves.of_change .stop).trans
    ((State.actHeads_moves (fun _ => HeadCtx.trackStop_plain) _).trans (State.setGate_moves _))))

theorem State.removeReport_moves : s.Moves s.removeReport := by
  have sent : s.Moves (s.setTrack { s.track with outcomes := s.track.outcomes.tail }) := .of_change .sent
  unfold State.removeReport
  dsimp only
  split
  · exact sent.trans (State.dropCause_moves (by simp))
  · exact sent

/-! ### The store -/

theorem State.setStore_moves (x : Store) : s.Moves (s.setStore x) := .of_agrees ⟨rfl, rfl, rfl, rfl, rfl⟩

theorem State.judgeRecord_moves (judged : List (Option CoeffItems)) (due : Nat) : s.Moves (s.judgeRecord judged due) := by
  unfold State.judgeRecord
  split
  · exact (State.setStore_moves _).trans (State.actHeads_moves (fun h => HeadCtx.loadCoeffs_plain _) _)
  · exact State.setStore_moves _

theorem State.endWrite_moves (h : Fin 16) (c : CoeffItems) : s.Moves (s.endWrite h c) :=
  (State.setStore_moves _).trans (.of_head h (HeadCtx.writeCoeffs_plain c))

end Sys2Proof.Machine
end

