-- ==== Sys2Proof/Proofs/RequestMoves.lean ====
section
/-! PROOFS. The tables of the library, and every request as moves. -/

namespace Sys2Proof.Machine

/-! ### Tables kept by rising key (R47, R54) -/

section Tables

variable {α : Type}

theorem lookupKey_lt {k : Nat} {l : List (Nat × α)} (h : ∀ x ∈ l, k < x.1) : lookupKey k l = none := by
  induction l with
  | nil => rfl
  | cons x rest ih =>
    have hx : x.1 ≠ k := Nat.ne_of_gt (h x (by simp))
    simp only [lookupKey, hx, if_false]
    exact ih fun y hy => h y (by simp [hy])

/-- The keys of a table after a record is stored: those before, and its own. -/
theorem mem_insertKey {k : Nat} {a : α} {l : List (Nat × α)} {x : Nat × α} (h : x ∈ insertKey k a l) : x = (k, a) ∨ x ∈ l := by
  induction l with
  | nil => simpa [insertKey] using h
  | cons y rest ih =>
    simp only [insertKey] at h
    split at h
    · simpa using h
    · split at h
      · rcases List.mem_cons.1 h with h | h
        · exact .inl h
        · exact .inr (by simp [h])
      · rcases List.mem_cons.1 h with rfl | h
        · exact .inr (by simp)
        · exact (ih h).imp id fun h => by simp [h]

theorem insertKey_rising (k : Nat) (a : α) {l : List (Nat × α)} (h : (l.map Prod.fst).Pairwise (· < ·)) :
    ((insertKey k a l).map Prod.fst).Pairwise (· < ·) := by
  induction l with
  | nil => simp [insertKey]
  | cons y rest ih =>
    simp only [List.map_cons, List.pairwise_cons, List.mem_map] at h
    obtain ⟨hy, hr⟩ := h
    simp only [insertKey]
    split
    · rename_i lt
      simp only [List.map_cons, List.pairwise_cons, List.mem_cons, List.mem_map]
      refine ⟨?_, hy, hr⟩
      rintro b (rfl | hb)
      · exact lt
      · exact lt.trans (hy b hb)
    · split
      · rename_i e
        simp only [List.map_cons, List.pairwise_cons, List.mem_map, e]
        exact ⟨hy, hr⟩
      · rename_i h1 h2
        simp only [List.map_cons, List.pairwise_cons, List.mem_map]
        refine ⟨?_, ih hr⟩
        rintro _ ⟨x, hx, rfl⟩
        rcases mem_insertKey hx with rfl | hx
        · dsimp only; omega
        · exact hy _ ⟨x, hx, rfl⟩

/-- What a table weighs after a record is stored: the record that was there leaves, and the new one joins. -/
theorem insertKey_weight (w : α → Nat) (k : Nat) (a : α) {l : List (Nat × α)} (h : (l.map Prod.fst).Pairwise (· < ·)) :
    ((insertKey k a l).map fun x => w x.2).sum + ((lookupKey k l).map w).getD 0 = (l.map fun x => w x.2).sum + w a := by
  induction l with
  | nil => simp [insertKey, lookupKey]
  | cons y rest ih =>
    simp only [List.map_cons, List.pairwise_cons, List.mem_map] at h
    obtain ⟨hy, hr⟩ := h
    by_cases lt : k < y.1
    · have out : lookupKey k (y :: rest) = none := lookupKey_lt fun x hx => by
        rcases List.mem_cons.1 hx with rfl | hx
        · exact lt
        · exact lt.trans (hy _ ⟨x, hx, rfl⟩)
      simp only [insertKey, lt, if_true, out, List.map_cons, List.sum_cons, Option.map_none, Option.getD_none]
      omega
    · by_cases e : k = y.1
      · simp only [insertKey, lookupKey, e, lt_irrefl, if_false, if_true, List.map_cons, List.sum_cons, Option.map_some,
          Option.getD_some]
        omega
      · have := ih hr
        simp only [insertKey, lookupKey, lt, e, Ne.symm e, if_false, List.map_cons, List.sum_cons]
        omega

theorem insertKey_length (k : Nat) (a : α) {l : List (Nat × α)} (h : (l.map Prod.fst).Pairwise (· < ·)) :
    (insertKey k a l).length + (if (lookupKey k l).isSome then 1 else 0) = l.length + 1 := by
  have := insertKey_weight (fun _ => 1) k a h
  rcases e : lookupKey k l with _ | b <;> simpa [e] using this

theorem eraseKey_rising (k : Nat) {l : List (Nat × α)} (h : (l.map Prod.fst).Pairwise (· < ·)) :
    ((eraseKey k l).map Prod.fst).Pairwise (· < ·) :=
  h.sublist (List.filter_sublist.map _)

theorem eraseKey_weight_le (w : α → Nat) (k : Nat) (l : List (Nat × α)) :
    ((eraseKey k l).map fun x => w x.2).sum ≤ (l.map fun x => w x.2).sum :=
  (List.filter_sublist.map _).sum_le_sum (by simp)

end Tables

section Requests

variable {s : State}

theorem Library.change_putFormat {l : Library} {k : Nat} {f : Format}
    (room : (l.format k).isSome = true ∨ l.formats.length < Config.formatRoom) :
    l.change { l with formats := insertKey k f l.formats } := by
  rintro ⟨h1, h2, h3, h4⟩
  refine ⟨?_, insertKey_rising k f h2, h3, h4⟩
  have len := insertKey_length k f h2
  unfold Library.format at room
  simp only [Config.formatRoom] at room
  dsimp only
  split at len
  · omega
  · have := room.resolve_left (by assumption)
    omega

theorem Library.change_dropFormat (l : Library) (k : Nat) : l.change { l with formats := eraseKey k l.formats } := by
  rintro ⟨h1, h2, h3, h4⟩
  exact ⟨(List.length_filter_le ..).trans h1, eraseKey_rising k h2, h3, h4⟩

theorem Library.change_putProfile {l : Library} {k : Nat} {gs : List Segment} (room : gs.length ≤ l.free + l.held k) :
    l.change { l with profiles := insertKey k gs l.profiles } := by
  rintro ⟨h1, h2, h3, h4⟩
  refine ⟨h1, h2, ?_, insertKey_rising k gs h4⟩
  have weight := insertKey_weight List.length k gs h4
  have held : l.held k = ((lookupKey k l.profiles).map List.length).getD 0 := by
    unfold Library.held Library.profile; split <;> simp_all
  simp only [Library.free, Library.used, Config.segmentPool, held] at room
  dsimp only
  omega

theorem Library.change_dropProfile (l : Library) (k : Nat) : l.change { l with profiles := eraseKey k l.profiles } := by
  rintro ⟨h1, h2, h3, h4⟩
  exact ⟨h1, h2, (eraseKey_weight_le List.length k _).trans h3, eraseKey_rising k h4⟩

/-! ### Requests of the track -/

theorem actTrackSetup_moves (r : TrackSetupReq) : s.Moves (actTrackSetup r s).1 := by
  simp only [actTrackSetup]
  split
  · exact .refl s
  split
  · exact .refl s
  split
  · exact .refl s
  · rename_i halted valid _
    exact State.crossManifest_moves (.configure _ (by simpa using valid) (not_not.1 halted))

theorem actGateSetup_moves (r : GateSetupReq) : s.Moves (actGateSetup r s).1 := by
  simp only [actGateSetup]
  split
  · exact .refl s
  split
  · exact .refl s
  · exact State.setGate_moves _

theorem actTrackStart_moves (g : Byte) : s.Moves (actTrackStart g s).1 := by
  unfold actTrackStart
  split
  · exact .refl s
  split
  · exact .refl s
  · rename_i halted _
    exact .of_change (.start _ (not_not.1 halted))

theorem actTrackStop_moves : s.Moves (actTrackStop s).1 := by
  unfold actTrackStop
  split
  · exact .refl s
  · exact State.stopTrack_moves

theorem actStep_moves : s.Moves (actStep s).1 := by
  simp only [actStep]
  split
  · exact .refl s
  split
  · exact .refl s
  · exact State.takeIndexStart_moves.trans
      (.of_change (.clocks s.takeIndexStart.track.index s.takeIndexStart.track.stallTimer _))

theorem actManifestPost_moves (c : Lanes Byte) : s.Moves (actManifestPost c s).1 := by
  simp only [actManifestPost]
  split
  · exact .refl s
  split
  · exact .refl s
  · rename_i room _ _
    simp only [Config.manifestRoom] at room
    exact State.crossManifest_moves (.manifests _ (.inr (by simp; omega)))

theorem actManifestFlush_moves : s.Moves (actManifestFlush s).1 :=
  State.crossManifest_moves (.manifests [] (.inr (by simp)))

theorem actVerdict_moves (n : Half) (m r : Byte) : s.Moves (actVerdict n m r s).1 := by
  simp only [actVerdict]
  split
  · exact .refl s
  split
  · exact .refl s
  · exact State.updateNest_moves fun _ => rfl

theorem actHoldRelease_moves : s.Moves (actHoldRelease s).1 :=
  State.changeCauses_moves (by simp [BitSet.has, liveCauses, Cause.bit])

/-! ### Requests of the library and the store -/

theorem actFormatPut_moves (r : FormatReq) : s.Moves (actFormatPut r s).1 := by
  simp only [actFormatPut]
  split
  · exact .refl s
  split
  · exact .refl s
  split
  · exact .refl s
  · rename_i full
    refine (State.Move.library _ (Library.change_putFormat ?_)).moves
    simp only [Bool.and_eq_true, Bool.not_eq_true', decide_eq_true_eq, not_and, not_le] at full
    rcases h : (s.library.format r.code.toNat).isSome with _ | _
    · exact .inr (full h)
    · exact .inl rfl

theorem actFormatDrop_moves (c : Byte) : s.Moves (actFormatDrop c s).1 := by
  simp only [actFormatDrop]
  split
  · exact .refl s
  split
  · exact .refl s
  split
  · exact .refl s
  · exact (State.Move.library _ (Library.change_dropFormat _ _)).moves

theorem actProfilePut_moves (id : Byte) (gs : List SegmentReq) : s.Moves (actProfilePut id gs s).1 := by
  simp only [actProfilePut]
  split
  · exact .refl s
  split
  · exact .refl s
  split
  · exact .refl s
  split
  · exact .refl s
  · rename_i room
    exact (State.Move.library _ (Library.change_putProfile (not_lt.1 room))).moves

theorem actProfileDrop_moves (id : Byte) : s.Moves (actProfileDrop id s).1 := by
  simp only [actProfileDrop]
  split
  · exact .refl s
  split
  · exact .refl s
  split
  · exact .refl s
  · exact (State.Move.library _ (Library.change_dropProfile _ _)).moves

theorem actCoeffRead_moves (h : Byte) : s.Moves (actCoeffRead h s).1 := by
  unfold actCoeffRead
  split
  · exact .refl s
  split
  · exact .refl s
  · exact State.setStore_moves _

theorem actCoeffWrite_moves (h : Byte) (c : CoeffItems) : s.Moves (actCoeffWrite h c s).1 := by
  unfold actCoeffWrite
  split
  · exact .refl s
  split
  · exact .refl s
  split
  · exact .refl s
  · exact State.setStore_moves _

/-! ### Requests of the heads -/

theorem actHeadSetup_moves (h : Byte) (r : HeadSetupReq) : s.Moves (actHeadSetup h r s).1 := by
  unfold actHeadSetup
  split
  · exact .refl s
  split
  · exact .refl s
  split
  · exact .refl s
  split
  · exact .refl s
  split
  · exact .refl s
  · rename_i i _ off _ p _ _ free
    exact (State.Move.setup i p (not_not.1 off) (by simpa using free)).moves

theorem actHeadEnables_moves (h m g : Byte) : s.Moves (actHeadEnables h m g s).1 := by
  unfold actHeadEnables
  split
  · exact .refl s
  · exact .of_head _ (HeadCtx.enables_plain m g)

theorem actHeadOnline_moves (h : Byte) : s.Moves (actHeadOnline h s).1 := by
  simp only [actHeadOnline]
  split
  · exact .refl s
  split
  · exact .refl s
  split
  · exact .refl s
  split
  · exact .refl s
  · exact .of_head _ HeadCtx.online_plain

theorem actHeadOffline_moves (h : Byte) : s.Moves (actHeadOffline h s).1 := by
  unfold actHeadOffline
  split
  · exact .refl s
  · exact .of_head _ HeadCtx.offline_plain

theorem actHeadHalt_moves (h : Byte) : s.Moves (actHeadHalt h s).1 := by
  unfold actHeadHalt
  split
  · exact .refl s
  split
  · exact .of_head _ (HeadCtx.abnormal_plain _ _ _)
  · exact .refl s

theorem actHeadCancel_moves (h : Byte) : s.Moves (actHeadCancel h s).1 := by
  unfold actHeadCancel
  split
  · exact .refl s
  split
  · exact .of_head _ (HeadCtx.abnormal_plain _ _ _)
  · exact .refl s

theorem actHeadClear_moves (h : Byte) : s.Moves (actHeadClear h s).1 := by
  simp only [actHeadClear]
  split
  · exact .refl s
  split
  · exact .refl s
  · exact .of_head _ HeadCtx.clear_plain

theorem actHeadRelease_moves (h : Byte) : s.Moves (actHeadRelease h s).1 := by
  simp only [actHeadRelease]
  split
  · exact .refl s
  split
  · exact .refl s
  · exact .of_head _ HeadCtx.releaseSafe_plain

theorem actStatusTake_moves (h : Byte) : s.Moves (actStatusTake h s).1 := by
  unfold actStatusTake
  split
  · exact .refl s
  · exact .of_agrees ⟨rfl, rfl, rfl, rfl, rfl⟩

theorem actHeadQuery_moves (h : Byte) : s.Moves (actHeadQuery h s).1 := by
  unfold actHeadQuery
  split <;> exact .refl s

theorem actNestQuery_moves (n : Half) : s.Moves (actNestQuery n s).1 := by
  unfold actNestQuery
  split
  · exact .refl s
  · split <;> exact .refl s

theorem actCountRead_moves (h : Byte) : s.Moves (actCountRead h s).1 := by
  unfold actCountRead
  split <;> exact .refl s

theorem actCountSnapshot_moves : s.Moves (actCountSnapshot s).1 :=
  (State.Move.records _ fun i => by simp [Head.snapshot, State.head]).moves

theorem actCountZero_moves (g h : Byte) : s.Moves (actCountZero g h s).1 := by
  simp only [actCountZero, answered]
  split
  · dsimp only
    exact State.actHeads_moves (fun _ => HeadCtx.zeroCounters_plain) allHeads
  split
  · exact .refl s
  · exact .of_head _ HeadCtx.zeroCounters_plain

theorem actCycleOnce_moves (h : Byte) (r : CycleOnceReq) : s.Moves (actCycleOnce h r s).1 := by
  unfold actCycleOnce
  split
  · exact .refl s
  split
  · exact .refl s
  split
  · exact .refl s
  split
  · exact .refl s
  split
  · exact .refl s
  · exact .of_head _ (HeadCtx.once_plain _ _)

theorem actInject_moves (h n : Byte) : s.Moves (actInject h n s).1 := by
  unfold actInject
  split
  · exact .refl s
  split
  · exact .refl s
  split
  · exact .refl s
  · rename_i i _ _ _
    refine (State.Move.records _ fun j => ?_).moves
    rw [Bank.get_set]
    split
    · subst_vars; exact ⟨rfl, rfl⟩
    · exact ⟨rfl, rfl⟩

/-- Every request is made of moves. -/
theorem requestAct_moves (i : Instr) (s : State) : s.Moves (requestAct i s).1 := by
  cases i with
  | partReset => exact (State.Move.softReset).moves
  | trackSetup _ r => exact actTrackSetup_moves r
  | gateSetup _ r => exact actGateSetup_moves r
  | headSetup _ h r => exact actHeadSetup_moves h r
  | headEnables _ h m g => exact actHeadEnables_moves h m g
  | formatPut _ r => exact actFormatPut_moves r
  | formatDrop _ c => exact actFormatDrop_moves c
  | profilePut _ id gs => exact actProfilePut_moves id gs
  | profileDrop _ id => exact actProfileDrop_moves id
  | trackStart _ g => exact actTrackStart_moves g
  | trackStop => exact actTrackStop_moves
  | manifestPost _ c => exact actManifestPost_moves c
  | manifestFlush => exact actManifestFlush_moves
  | verdict _ n m r => exact actVerdict_moves n m r
  | holdRelease => exact actHoldRelease_moves
  | headOnline _ h => exact actHeadOnline_moves h
  | headOffline _ h => exact actHeadOffline_moves h
  | headHalt _ h => exact actHeadHalt_moves h
  | headCancel _ h => exact actHeadCancel_moves h
  | headClear _ h => exact actHeadClear_moves h
  | headRelease _ h => exact actHeadRelease_moves h
  | statusTake _ h => exact actStatusTake_moves h
  | trackStatusTake => exact .of_agrees ⟨rfl, rfl, rfl, rfl, rfl⟩
  | headQuery _ h => exact actHeadQuery_moves h
  | nestQuery _ n => exact actNestQuery_moves n
  | countSnapshot => exact actCountSnapshot_moves
  | countRead _ h => exact actCountRead_moves h
  | countZero _ g h => exact actCountZero_moves g h
  | coeffRead _ h => exact actCoeffRead_moves h
  | coeffWrite _ h c => exact actCoeffWrite_moves h c
  | cycleOnce _ h r => exact actCycleOnce_moves h r
  | inject _ h n => exact actInject_moves h n
  | step => exact actStep_moves
  | _ => exact .refl s

end Requests

end Sys2Proof.Machine
end

