-- ==== Sys2Proof/Proofs/CommandMoves.lean ====
section
/-! PROOFS. The link between acts, and every command as moves: what holds across moves and across the link's own changes holds across
a step. -/

namespace Sys2Proof.Machine

variable {s t : State}

/-! ### The link across an act (R185, R187, R190) -/

/-- The link with nothing in its buffer and its slots, as a reset leaves it. -/
def Link.cleared (k : Link) : Prop := k.buffer = [] ∧ k.reserved = [] ∧ k.filled = []

/-- The bounds of the receive buffer and the reply slots (R185, R187). -/
def Link.held (k : Link) : Prop := k.buffer.length ≤ 4 ∧ k.slotsUsed ≤ 8

/-- The bounds, and that a frame waits only while no slot is free (R185). -/
def Link.sound (k : Link) : Prop := k.held ∧ (k.buffer ≠ [] → k.slotsUsed = 8)

theorem Link.cleared_slotsUsed {k : Link} (h : k.cleared) : k.slotsUsed = 0 := by
  simp [Link.slotsUsed, h.2.1, h.2.2]

theorem Link.cleared_sound {k : Link} (h : k.cleared) : k.sound :=
  ⟨⟨by simp [h.1], by simp [Link.cleared_slotsUsed h]⟩, fun no => absurd h.1 no⟩

theorem Link.slotFree_iff (k : Link) : k.slotFree = true ↔ k.slotsUsed < 8 := decide_eq_true_iff

theorem State.Move.link (m : s.Move t) : t.link = s.link ∨ t.link.cleared := by
  cases m with
  | rest t h => exact .inl h.2.2.2.1
  | track | library | records | setup => exact .inl rfl
  | head h f _ => exact .inl (by simp)
  | softReset | deviceReset => exact .inr ⟨rfl, rfl, rfl⟩

/-- An act leaves the link as it was, or cleared where it is a reset. -/
theorem State.Moves.link (m : s.Moves t) : t.link = s.link ∨ t.link.cleared := by
  induction m with
  | refl => exact .inl rfl
  | tail _ m ih =>
    rcases m.link with e | c
    · rw [e]; exact ih
    · exact .inr c

/-! ### Moves and changes of the link (log entry 1) -/

/-- One turn of a command: a move, or a change of the link. -/
inductive State.Turn (s : State) : State → Prop
  | move (t : State) (h : s.Move t) : State.Turn s t
  | link (k : Link) : State.Turn s (s.setLink k)

/-- The turns of a command in order. -/
def State.Course : State → State → Prop := Relation.ReflTransGen State.Turn

theorem State.Moves.course (m : s.Moves t) : s.Course t :=
  Relation.ReflTransGen.mono (fun _ _ => State.Turn.move _) _ _ m

theorem State.Course.of_link (k : Link) : s.Course (s.setLink k) := Relation.ReflTransGen.single (State.Turn.link k)

theorem State.Course.mapLink (f : Link → Link) : s.Course (s.mapLink f) := .of_link (f s.link)

theorem State.Course.trans {u : State} (a : s.Course t) (b : t.Course u) : s.Course u := Relation.ReflTransGen.trans a b

/-- A property that moves and changes of the link keep is kept by a command. -/
theorem State.Course.keeps {P : State → Prop} (hm : ∀ s t : State, P s → s.Move t → P t) (hl : ∀ s k, P s → P (State.setLink s k))
    (m : s.Course t) (h : P s) : P t := by
  induction m with
  | refl => exact h
  | tail _ m ih =>
    cases m with
    | move _ m => exact hm _ _ ih m
    | link k => exact hl _ k ih

/-- A command's way through the device: moves and changes of the link, the link sound at its end. -/
def State.Passes (s t : State) : Prop := s.Course t ∧ (s.link.sound → t.link.sound)

theorem State.Moves.passes (m : s.Moves t) : s.Passes t :=
  ⟨m.course, fun h => m.link.elim (fun e => e ▸ h) Link.cleared_sound⟩

theorem State.Passes.refl (s : State) : s.Passes s := (State.Moves.refl s).passes

theorem State.Passes.trans {u : State} (a : s.Passes t) (b : t.Passes u) : s.Passes u :=
  ⟨a.1.trans b.1, fun h => b.2 (a.2 h)⟩

theorem State.Passes.mapLink {f : Link → Link} (h : s.link.sound → (f s.link).sound) : s.Passes (s.mapLink f) :=
  ⟨.mapLink f, h⟩

/-! ### Frames taken (R185, R186) -/

theorem State.take_course {kind tag : Byte} {act : State → State × Option Answer} (h : s.Moves (act s).1) :
    s.Course (s.take kind tag act) := by
  unfold State.take
  split
  all_goals
    rename_i e
    rw [e] at h
    exact h.course.trans (.mapLink _)

/-- A request taken uses one slot. -/
theorem State.take_held {kind tag : Byte} {act : State → State × Option Answer} (h : s.Moves (act s).1)
    (hb : s.link.buffer.length ≤ 4) (hu : s.link.slotsUsed < 8) :
    (s.take kind tag act).link.held ∧ (s.take kind tag act).link.buffer.length ≤ s.link.buffer.length := by
  have one : ∀ u : State, s.Moves u → u.link.buffer.length ≤ s.link.buffer.length ∧ u.link.slotsUsed < 8 := fun u m => by
    rcases m.link with e | c
    · rw [e]; exact ⟨le_rfl, hu⟩
    · exact ⟨by simp [c.1], by simp [Link.cleared_slotsUsed c]⟩
  unfold State.take
  split
  all_goals
    rename_i e
    rw [e] at h
    obtain ⟨ob, ou⟩ := one _ h
    simp only [Link.slotsUsed] at ou
    refine ⟨⟨ob.trans hb, ?_⟩, ob⟩
    simp only [State.mapLink_link, Link.fill, Link.reserve, Link.slotsUsed, List.length_append, List.length_singleton]
    omega

theorem State.takeFrame_course (f : Frame) : s.Course (s.takeFrame f) := by
  unfold State.takeFrame
  split
  · exact .mapLink _
  · exact .mapLink _
  · exact State.take_course (requestAct_moves _ s)

theorem State.takeFrame_held (f : Frame) (hb : s.link.buffer.length ≤ 4) (hu : s.link.slotsUsed < 8) :
    (s.takeFrame f).link.held ∧ (s.takeFrame f).link.buffer.length ≤ s.link.buffer.length := by
  have refusal : ∀ a : Frame, (s.mapLink (Link.fill a)).link.held ∧
      (s.mapLink (Link.fill a)).link.buffer.length ≤ s.link.buffer.length := fun a => by
    refine ⟨⟨hb, ?_⟩, le_rfl⟩
    simp only [Link.slotsUsed] at hu
    simp only [State.mapLink_link, Link.fill, Link.slotsUsed, List.length_append, List.length_singleton]
    omega
  unfold State.takeFrame
  split
  · exact refusal _
  · exact refusal _
  · exact State.take_held (requestAct_moves _ s) hb hu

theorem State.takeFrames_course (n : Nat) (s : State) : s.Course (s.takeFrames n) := by
  induction n generalizing s with
  | zero => exact (State.Moves.refl s).course
  | succ n ih =>
    unfold State.takeFrames
    split
    · exact (State.Moves.refl s).course
    · split
      · exact (State.Course.mapLink _).trans ((State.takeFrame_course _).trans (ih _))
      · exact (State.Moves.refl s).course

/-- Frames taken while a slot is free: in the end the buffer is empty or no slot is free (R185). -/
theorem State.takeFrames_sound (n : Nat) (s : State) (h : s.link.held) (hn : s.link.buffer.length ≤ n) :
    (s.takeFrames n).link.sound := by
  induction n generalizing s with
  | zero => exact ⟨h, fun no => absurd (List.length_eq_zero_iff.1 (Nat.le_zero.1 hn)) no⟩
  | succ n ih =>
    unfold State.takeFrames
    split
    · rename_i e
      exact ⟨h, fun no => absurd e no⟩
    · rename_i f rest e
      obtain ⟨hb, hu⟩ := h
      rw [e] at hb hn
      split
      · rename_i free
        rw [Link.slotFree_iff] at free
        have ⟨held, short⟩ := State.takeFrame_held (s := s.mapLink fun k => { k with buffer := rest }) f
          (by simp at hb ⊢; omega) free
        exact ih _ held (short.trans (by simpa using hn))
      · rename_i full
        rw [Link.slotFree_iff] at full
        exact ⟨⟨by rw [e]; exact hb, hu⟩, fun _ => by omega⟩

theorem State.resumeTaking_sound (h : s.link.held) : s.resumeTaking.link.sound :=
  State.takeFrames_sound _ s h le_rfl

theorem Link.push_held {k : Link} (f : Frame) (h : k.held) : (k.push f).held := by
  obtain ⟨hb, hu⟩ := h
  unfold Link.push
  split
  · rename_i room
    simp only [Config.rxRoom] at room
    exact ⟨by simp; omega, hu⟩
  · exact ⟨hb, hu⟩

theorem State.offerFrame_passes (f : Frame) : s.Passes (s.offerFrame f) :=
  ⟨(State.Course.mapLink _).trans (State.takeFrames_course _ _), fun h => State.resumeTaking_sound (Link.push_held f h.1)⟩

theorem State.request_passes (i : Instr) {act : State → State × Option Answer} (h : s.Moves (act s).1) :
    s.Passes (s.request i act) := by
  unfold State.request
  split
  · exact .refl s
  · split
    · rename_i now
      rw [Bool.and_eq_true, List.isEmpty_iff, Link.slotFree_iff] at now
      obtain ⟨he, hu⟩ := now
      refine ⟨State.take_course h, fun _ => ?_⟩
      obtain ⟨held, short⟩ := State.take_held (kind := ‹Frame›.kind) (tag := ‹Frame›.tag) h (by simp [he]) hu
      exact ⟨held, fun no => absurd (List.length_eq_zero_iff.1 (Nat.le_zero.1 (by simpa [he] using short))) no⟩
    · exact State.offerFrame_passes _

/-! ### Events -/

theorem State.setReceiver_passes (now : Nat) (r : Receiver) : s.Passes (s.mapLink (Link.setReceiver now r)) :=
  .mapLink id

theorem State.judgeFrame_passes : s.Passes s.judgeFrame := by
  unfold State.judgeFrame
  split
  · exact .refl s
  · dsimp only
    split
    · exact (State.setReceiver_passes _ _).trans (State.offerFrame_passes _)
    · exact State.setReceiver_passes _ _

/-- A reserved slot filled: as many slots are in use as before (R186). -/
theorem Link.complete_sound {k : Link} (kind : Byte) (a : Answer) (h : k.sound) : (k.complete kind a).sound := by
  unfold Link.complete
  split
  · rename_i r found
    have mem := List.mem_of_find?_eq_some found
    have used : ({ k with reserved := k.reserved.erase r }.fill ⟨replyKind kind, r.tag, a.payload⟩).slotsUsed = k.slotsUsed := by
      have := List.length_pos_of_mem mem
      simp only [Link.slotsUsed, Link.fill, List.length_append, List.length_singleton, List.length_erase_of_mem mem]
      omega
    exact ⟨⟨h.1.1, by rw [used]; exact h.1.2⟩, fun no => by rw [used]; exact h.2 no⟩
  · exact h

theorem State.advanceTo_moves (n : Nat) : s.Moves (s.advanceTo n) := .of_agrees ⟨rfl, rfl, rfl, rfl, rfl⟩

theorem State.setLines_moves (l : Lines) : s.Moves (s.setLines l) := .of_agrees ⟨rfl, rfl, rfl, rfl, rfl⟩

theorem State.setDraws_moves (n : Nat) : s.Moves (s.setDraws n) := .of_agrees ⟨rfl, rfl, rfl, rfl, rfl⟩

theorem State.setPending_moves (l : List Instr) : s.Moves (s.setPending l) := .of_agrees ⟨rfl, rfl, rfl, rfl, rfl⟩

theorem State.expire_moves {due : Option Nat} {f : State → State} (h : ∀ u : State, u.Moves (f u)) : s.Moves (s.expire due f) := by
  unfold State.expire
  split
  · exact .refl s
  · exact (State.advanceTo_moves _).trans (h _)

theorem State.expireHead_moves (h : Fin 16) {due : Option Nat} {f : HeadCtx → HeadCtx} (hf : HeadCtx.plain f) :
    s.Moves (s.expireHead h due f) :=
  State.expire_moves fun _ => .of_head h hf

theorem State.mapGate_moves (f : Nat → Gate → Gate) : s.Moves (s.mapGate f) := State.setGate_moves _

theorem State.nextMessage_agrees {f : Frame} {src : Source} (h : s.nextMessage = some (f, src, t)) : s.agrees t := by
  unfold State.nextMessage at h
  split at h
  · cases h; exact ⟨rfl, rfl, rfl, rfl, rfl⟩
  · cases h; exact ⟨rfl, rfl, rfl, rfl, rfl⟩
  · cases h; exact ⟨rfl, rfl, rfl, rfl, rfl⟩
  · split at h
    · cases h; exact ⟨rfl, rfl, rfl, rfl, rfl⟩
    · cases h

theorem State.beginMessage_passes : s.Passes s.beginMessage := by
  unfold State.beginMessage
  split
  · split
    · rename_i e
      exact (State.Moves.of_agrees (State.nextMessage_agrees e)).passes.trans (.mapLink id)
    · exact .refl s
  · exact .refl s

theorem State.endMessage_course (src : Source) : s.Course (s.endMessage src) := by
  unfold State.endMessage
  dsimp only
  split
  · exact (State.Course.mapLink _).trans (.mapLink _)
  · exact (State.Course.mapLink _).trans State.removeReport_moves.course
  · exact .mapLink _
  · exact .mapLink _

theorem State.endMessage_held (src : Source) (h : s.link.held) : (s.endMessage src).link.held := by
  obtain ⟨hb, hu⟩ := h
  simp only [Link.slotsUsed] at hu
  unfold State.endMessage
  dsimp only
  split
  · refine ⟨hb, ?_⟩
    simp only [State.mapLink_link, Link.slotsUsed, List.length_tail]
    omega
  · rcases (State.removeReport_moves (s := s.mapLink fun k => { k with sending := none })).link with e | c
    · rw [e]; exact ⟨hb, hu⟩
    · exact (Link.cleared_sound c).1
  · exact ⟨hb, hu⟩
  · exact ⟨hb, hu⟩

theorem execMessageLastByte_passes (h : execMessageLastByte s = .next t) : s.Passes t := by
  unfold execMessageLastByte at h
  split at h
  · cases h; exact .refl s
  · cases h
    exact ⟨(State.advanceTo_moves _).course.trans ((State.endMessage_course _).trans (State.takeFrames_course _ _)),
      fun k => State.resumeTaking_sound (State.endMessage_held _ k.1)⟩

theorem execSyntheticIndexDone_passes (h : execSyntheticIndexDone s = .next t) : s.Passes t := by
  unfold execSyntheticIndexDone at h
  split at h
  · cases h; exact .refl s
  · cases h
    exact (State.advanceTo_moves _).passes.trans ((State.Moves.of_change (.clocks _ _ _)).passes.trans
      ((State.takeIndexDone_moves (by decide)).passes.trans (.mapLink (Link.complete_sound _ _))))

theorem execCoeffReadEnd_passes (h : execCoeffReadEnd s = .next t) : s.Passes t := by
  unfold execCoeffReadEnd at h
  split at h
  · cases h
    exact (State.advanceTo_moves _).passes.trans ((State.setStore_moves _).passes.trans (.mapLink (Link.complete_sound _ _)))
  all_goals
    cases h
    exact .refl s

theorem State.stall_moves : s.Moves ((s.setTrack { s.track with stallTimer := none }).postCause .indexStall) :=
  (State.Moves.of_change (.clocks s.track.index _ s.track.steps)).trans (State.postCause_moves (by simp))

theorem State.startPending_moves (h : Fin 16) : s.Moves (s.startPending h) := .of_head h (HeadCtx.startPack_plain _ _)

theorem execSample_moves {h : Fin 16} {r : Option Nat} {c o : Bool} (e : execSample h r c o s = .next t) : s.Moves t := by
  simp only [execSample] at e
  split at e
  · cases e; exact State.setLines_moves _
  · cases e
    exact (State.setLines_moves _).trans ((State.advanceTo_moves _).trans (.of_head h (HeadCtx.sampleAt_plain _ _)))

theorem execRampStep_moves {h : Fin 16} (e : execRampStep h s = .next t) : s.Moves t := by
  unfold execRampStep at e
  split at e
  · cases e; exact .refl s
  · cases e; exact State.expireHead_moves h (HeadCtx.rampStep_plain _)

theorem execVirtualEdgeExpiry_moves {h : Fin 16} (e : execVirtualEdgeExpiry h s = .next t) : s.Moves t := by
  unfold execVirtualEdgeExpiry at e
  split at e
  · cases e; exact .refl s
  · cases e; exact (State.advanceTo_moves _).trans (.of_head h (HeadCtx.virtualEdge_plain _))

theorem execStartLineEdge_moves {h : Fin 16} (e : execStartLineEdge h s = .next t) : s.Moves t := by
  unfold execStartLineEdge at e
  cases e
  split
  · exact State.startPending_moves h
  · exact .refl s

theorem execRejectConfirmEdge_moves (e : execRejectConfirmEdge s = .next t) : s.Moves t := by
  unfold execRejectConfirmEdge at e
  cases e
  split
  · exact State.setGate_moves _
  · exact .refl s

theorem execLoadRecordJudged_moves (e : execLoadRecordJudged s = .next t) : s.Moves t := by
  unfold execLoadRecordJudged at e
  split at e
  · cases e; exact (State.advanceTo_moves _).trans (State.judgeRecord_moves _ _)
  all_goals
    cases e
    exact .refl s

theorem execCoeffWriteEnd_moves (e : execCoeffWriteEnd s = .next t) : s.Moves t := by
  unfold execCoeffWriteEnd at e
  split at e
  · cases e; exact (State.advanceTo_moves _).trans (State.endWrite_moves _ _)
  all_goals
    cases e
    exact .refl s

/-- A request is taken at once or offered to the buffer, and acted on by the block that owns it. -/
theorem exec_request_passes (i : Instr) (h : exec i s = .next (s.request i (requestAct i))) (e : exec i s = .next t) : s.Passes t := by
  rw [h] at e
  cases e
  exact State.request_passes i (requestAct_moves i s)

/-- Every command is made of moves and of changes of the link that keep it sound. -/
theorem exec_passes (i : Instr) (s t : State) (e : exec i s = .next t) : s.Passes t := by
  cases i with
  | deviceReset a b => cases e; exact (State.Move.deviceReset a b).moves.passes
  | frameReceived => cases e; exact State.judgeFrame_passes
  | receiveGapTimeout =>
    cases e
    unfold State.expire
    split
    · exact .refl s
    · exact (State.advanceTo_moves _).passes.trans (State.setReceiver_passes _ _)
  | unknownKindFrame => cases e; exact State.offerFrame_passes _
  | syntheticIndexDone => exact execSyntheticIndexDone_passes e
  | indexStart => exact Host.Outcome.next.inj e ▸ (State.takeIndexStart_moves (s := s)).passes
  | indexDone => cases e; exact (State.takeIndexDone_moves (by decide)).passes
  | stallExpiry => cases e; exact (State.expire_moves fun _ => State.stall_moves).passes
  | platenClosedEdge h o =>
    cases e
    exact ((State.setLines_moves _).trans (.of_head h (HeadCtx.physicalEdge_plain HeadCtx.closedEdge_plain))).passes
  | platenOpenEdge h c =>
    cases e
    exact ((State.setLines_moves _).trans (.of_head h (HeadCtx.physicalEdge_plain HeadCtx.openEdge_plain))).passes
  | startLineEdge h => exact (execStartLineEdge_moves e).passes
  | startDelayExpiry h => cases e; exact (State.expire_moves fun _ => State.startPending_moves h).passes
  | startLimitExpiry h => cases e; exact (State.expireHead_moves h (HeadCtx.abnormal_plain _ _ _)).passes
  | segmentExpiry h => cases e; exact (State.expireHead_moves h HeadCtx.segmentExpiry_plain).passes
  | closeLimitExpiry h => cases e; exact (State.expireHead_moves h (HeadCtx.abnormal_plain _ _ _)).passes
  | openLimitExpiry h => cases e; exact (State.expireHead_moves h HeadCtx.openLate_plain).passes
  | rampStep h => exact (execRampStep_moves e).passes
  | releaseOpenLimitExpiry h => cases e; exact (State.expireHead_moves h HeadCtx.releaseExpiry_plain).passes
  | sample h r c o => exact (execSample_moves e).passes
  | virtualEdgeExpiry h => exact (execVirtualEdgeExpiry_moves e).passes
  | rejectConfirmEdge => exact (execRejectConfirmEdge_moves e).passes
  | punchDelayExpiry => cases e; exact (State.expire_moves fun _ => State.mapGate_moves _).passes
  | punchWidthExpiry => cases e; exact (State.expire_moves fun _ => State.mapGate_moves _).passes
  | diverterDelayExpiry => cases e; exact (State.expire_moves fun _ => State.divert_moves).passes
  | diverterWidthExpiry => cases e; exact (State.expire_moves fun _ => State.mapGate_moves _).passes
  | confirmWindowExpiry => cases e; exact (State.expire_moves fun _ => State.endWindow_moves).passes
  | loadRecordJudged => exact (execLoadRecordJudged_moves e).passes
  | coeffReadEnd => exact execCoeffReadEnd_passes e
  | coeffWriteEnd => exact (execCoeffWriteEnd_moves e).passes
  | transmitBegin b => cases e; exact (State.setLines_moves _).passes.trans State.beginMessage_passes
  | messageLastByte => exact execMessageLastByte_passes e
  | byteReceived b g => cases e; exact State.judgeFrame_passes.trans (.mapLink id)
  | _ => exact exec_request_passes _ rfl e

theorem State.idle_passes (e : s.idle = .next t) : s.Passes t := by
  unfold State.idle at e
  split at e
  · cases e; exact (State.advanceTo_moves _).passes
  · exact exec_passes _ _ _ e
  · exact (State.setDraws_moves _).passes.trans (exec_passes _ _ _ e)

/-- Every step is made of moves and of changes of the link that keep it sound. -/
theorem step_passes (e : step s = .next t) : s.Passes t := by
  unfold step at e
  split at e
  · exact (State.setPending_moves _).passes.trans (exec_passes _ _ _ e)
  · exact State.idle_passes e

end Sys2Proof.Machine
end

