-- ==== Sys2Proof/Proofs/Invariants.lean ====
section
/-! PROOFS. What every step keeps: the bounds, the shape and the numbering of the track, HEAD_SAFE and the bindings; and that the
state after reset has it. -/

namespace Sys2Proof.Machine

variable {s t : State}

/-! ### The track (R1, R11, R25, R41, R43) -/

/-- What an act's moves make of the track: changes of it, or one of the two resets. -/
theorem State.Move.track_changes (m : s.Move t) :
    Relation.ReflTransGen Track.Change s.track t.track ∨ t.track = s.track.softReset ∨ t.track = {} := by
  cases m with
  | rest t h => exact .inl (h.1 ▸ .refl)
  | track k h => exact .inl (.single h)
  | library | records | setup => exact .inl .refl
  | head h f _ =>
    left
    rw [State.actHead_track, applyEffects_track]
    have writes (l : List HeadEffect) (u : Track) :
        Relation.ReflTransGen Track.Change u (l.foldl (fun t e => e.onTrack t) u) := by
      induction l generalizing u with
      | nil => exact .refl
      | cons e l ih =>
        refine .trans ?_ (ih _)
        cases e with
        | result | reasons => exact .single (.updateNest _ _ _ fun _ => rfl)
        | cause => exact .refl
    exact writes _ _
  | softReset => exact .inr (.inl rfl)
  | deviceReset => exact .inr (.inr rfl)

/-- A property of the track that its changes and the resets keep is kept by every move. -/
theorem State.Move.track_keeps {P : Track → Prop} (hc : ∀ a b : Track, P a → Track.Change a b → P b)
    (hr : ∀ a : Track, P a → P a.softReset) (hd : P {}) (m : s.Move t) (h : P s.track) : P t.track := by
  have chain (a b : Track) (c : Relation.ReflTransGen Track.Change a b) (h : P a) : P b := by
    induction c with
    | refl => exact h
    | tail _ c ih => exact hc _ _ ih c
  rcases m.track_changes with c | e | e
  · exact chain _ _ c h
  · exact e ▸ hr _ h
  · exact e ▸ hd

theorem Track.queued_reset : Track.queued {} := ⟨by decide, by decide, by decide⟩

theorem Track.shaped_reset : Track.shaped {} := ⟨by decide, by decide, by decide⟩

theorem Track.numbered_reset : Track.numbered {} :=
  ⟨by decide, by decide, fun p n e => by rw [Track.nestAt_empty (by decide)] at e; cases e⟩

theorem Track.softReset_shaped {a : Track} (h : a.shaped) : a.softReset.shaped :=
  ⟨h.1, by simp [Track.softReset], fun _ _ ho => List.eq_of_mem_replicate ho⟩

theorem Track.softReset_numbered (a : Track) : a.softReset.numbered :=
  Track.numbered_of_empty (t := {}) rfl (fun _ ho => List.eq_of_mem_replicate ho) Track.numbered_reset

theorem State.Move.queued (m : s.Move t) : s.track.queued → t.track.queued :=
  m.track_keeps (fun _ _ h c => c.queued h) (fun _ _ => Track.queued_reset) Track.queued_reset

theorem State.Move.shaped (m : s.Move t) : s.track.shaped → t.track.shaped :=
  m.track_keeps (fun _ _ h c => c.shaped h) (fun _ h => Track.softReset_shaped h) Track.shaped_reset

theorem State.Move.numbered (m : s.Move t) : s.track.shaped ∧ s.track.numbered → t.track.shaped ∧ t.track.numbered :=
  m.track_keeps (P := fun a => a.shaped ∧ a.numbered) (fun _ _ h c => ⟨c.shaped h.1, c.numbered h.1 h.2⟩)
    (fun a h => ⟨Track.softReset_shaped h.1, a.softReset_numbered⟩) ⟨Track.shaped_reset, Track.numbered_reset⟩

/-! ### The library (R47, R54) -/

theorem Library.bounded_reset : Library.bounded ⟨[], []⟩ := ⟨by decide, by decide, by decide, by decide⟩

theorem State.Move.bounded (m : s.Move t) (h : s.library.bounded) : t.library.bounded := by
  cases m with
  | rest t e => rw [e.2.2.1]; exact h
  | track | records | setup | softReset => exact h
  | head i f _ => rw [State.actHead_library]; exact h
  | library l c => exact c h
  | deviceReset => exact Library.bounded_reset

/-! ### HEAD_SAFE and the bindings (R19, R66) -/

theorem effectsCauses_headSafe (l : List HeadEffect) :
    BitSet.has (effectsCauses l) Cause.headSafe.bit = true ↔ HeadEffect.cause .headSafe ∈ l := by
  induction l with
  | nil => simp [effectsCauses, BitSet.has]
  | cons e l ih =>
    cases e with
    | result | reasons => simpa [effectsCauses] using ih
    | cause c =>
      simp only [effectsCauses, BitSet.has, BitVec.getLsbD_or, Bool.or_eq_true, List.mem_cons, HeadEffect.cause.injEq] at ih ⊢
      rw [ih]
      cases c <;> simp [Cause.bit]

/-- HEAD_SAFE across an act of a head: evaluated where the head has entered or left SAFE, and as it was where it has not. -/
theorem State.actHead_headSafeFollows (i : Fin 16) {f : HeadCtx → HeadCtx} (hf : HeadCtx.plain f) (h : s.headSafeFollows) :
    (s.actHead i f).headSafeFollows := by
  obtain ⟨-, hold, posts⟩ := hf (s.ctx i)
  have quiet : BitSet.has (effectsCauses (f (s.ctx i)).out) Cause.headSafe.bit = false := by
    rw [Bool.eq_false_iff, ne_eq, effectsCauses_headSafe]
    exact fun m => by simpa [HeadCtx.postsHeadSafe, State.ctx] using posts.1 m
  rcases s.actHead_eq i f with ⟨e, same⟩ | ⟨e, -⟩
  · have j := (applyEffects_joins (f (s.ctx i)).out (s.withHead i (f (s.ctx i)).head (f (s.ctx i)).status)).1
    have bit : BitSet.has (s.causes ||| effectsCauses (f (s.ctx i)).out) Cause.headSafe.bit =
        BitSet.has s.causes Cause.headSafe.bit := by
      simp only [BitSet.has, BitVec.getLsbD_or] at quiet ⊢
      simp [quiet]
    have causes : (s.actHead i f).causes = s.causes ||| effectsCauses (f (s.ctx i)).out := by rw [e]; exact j
    unfold State.headSafeFollows at h ⊢
    rw [causes, bit, h]
    refine exists_congr fun k => ?_
    by_cases ek : k = i
    · subst ek
      rw [State.actHead_head_self, hold, same]
      rfl
    · rw [(s.actHead_of_ne f ek).1]
  · rw [e]
    generalize applyEffects (f (s.ctx i)).out _ = u
    exact (State.evalHeadSafe_causes u).2.trans (exists_congr fun k => by simp [State.head])

theorem State.Move.headSafe (m : s.Move t) (h : s.headSafeFollows) : t.headSafeFollows := by
  have heads (u : State) (e : BitSet.has u.causes Cause.headSafe.bit = BitSet.has s.causes Cause.headSafe.bit)
      (k : ∀ i, (u.head i).params.holdOnSafe = true ∧ (u.head i).state = .safe ↔
        (s.head i).params.holdOnSafe = true ∧ (s.head i).state = .safe) : u.headSafeFollows := by
    unfold State.headSafeFollows at h ⊢
    rw [e, h]
    exact exists_congr fun i => (k i).symm
  have none (u : State) (e : u.causes = 0) (k : ∀ i, (u.head i).state = .offline) : u.headSafeFollows := by
    unfold State.headSafeFollows
    simp [e, k, BitSet.has]
  cases m with
  | rest t e => exact heads t e.2.2.2.2 fun i => by simp [State.head, e.2.1]
  | track | library => exact h
  | head i f hf => exact State.actHead_headSafeFollows i hf h
  | records x k => exact heads _ rfl fun i => by simp [State.head, (k i).1, (k i).2]
  | setup i p off _ =>
    refine heads _ rfl fun j => ?_
    by_cases e : j = i
    · subst e; simp [off]
    · simp [State.putHead_head_of_ne _ e]
  | softReset => exact none _ rfl fun i => by simp [State.head, State.softReset, Head.softReset]
  | deviceReset a b => exact none _ rfl fun i => by simp [State.head, State.deviceReset, Head.deviceReset]

theorem State.boundElsewhere_eq_false {i : Fin 16} {b : Option (Station × Fin 8)} (h : s.boundElsewhere i b = false)
    (hb : b.isSome = true) {j : Fin 16} (ne : j ≠ i) : (s.head j).params.binding ≠ b := by
  intro e
  have : s.boundElsewhere i b = true := by
    simp only [State.boundElsewhere, hb, Bool.true_and, List.any_eq_true]
    exact ⟨j, mem_allHeads j, by simp [ne, e]⟩
  rw [this] at h
  cases h

theorem State.Move.bindings (m : s.Move t) (h : s.bindingsDistinct) : t.bindingsDistinct := by
  have heads (u : State) (k : ∀ i, (u.head i).params.binding = (s.head i).params.binding) : u.bindingsDistinct :=
    fun i j => by rw [k, k]; exact h i j
  cases m with
  | rest t e => exact heads t fun i => by simp [State.head, e.2.1]
  | track | library => exact h
  | head i f hf =>
    refine heads _ fun j => ?_
    by_cases e : j = i
    · subst e; rw [State.actHead_head_self]; exact (hf _).1
    · rw [(s.actHead_of_ne f e).1]
  | records x k => exact heads _ fun i => by simp [State.head, (k i).1]
  | setup i p _ free =>
    intro j k hj e
    by_cases ej : j = i
    · by_cases ek : k = i
      · rw [ej, ek]
      · subst ej
        rw [State.putHead_head_self] at hj e
        rw [State.putHead_head_of_ne _ ek] at e
        exact absurd e.symm (State.boundElsewhere_eq_false free hj ek)
    · rw [State.putHead_head_of_ne _ ej] at hj e
      by_cases ek : k = i
      · subst ek
        rw [State.putHead_head_self] at e
        exact absurd e (State.boundElsewhere_eq_false free (e ▸ hj) ej)
      · rw [State.putHead_head_of_ne _ ek] at e
        exact h j k hj e
  | softReset => exact heads _ fun i => by simp [State.head, State.softReset, Head.softReset]
  | deviceReset a b => exact fun i j hi _ => by simp [State.head, State.deviceReset, Head.deviceReset] at hi

/-! ### Every step -/

theorem State.queuesBounded_iff (s : State) : s.queuesBounded ↔ s.track.queued ∧ s.link.sound := by
  unfold State.queuesBounded Track.queued Link.sound Link.held Link.slotsUsed
  tauto

/-- A property that moves keep and that does not look at the link is kept by every step. -/
theorem step_keeps {P : State → Prop} (hm : ∀ s t : State, P s → s.Move t → P t) (hl : ∀ s k, P s → P (State.setLink s k))
    (h : P s) (e : step s = .next t) : P t :=
  (step_passes e).1.keeps hm hl h

/-- Nests in distinct positions of a numbered track carry distinct serial numbers (R1, R11). -/
theorem Track.serial_inj {t : Track} (hs : t.shaped) (hn : t.numbered) {p q : Nat} {n m : Nest} (hp : t.nestAt p = some n)
    (hq : t.nestAt q = some m) (e : n.serial = m.serial) : p = q := by
  have ⟨_, l24⟩ := Track.shaped_length hs
  have p24 := Track.nestAt_lt hp
  have q24 := Track.nestAt_lt hq
  obtain ⟨h1, h2, h3⟩ := hn
  have := h3 p n hp
  have := h3 q m hq
  omega

end Sys2Proof.Machine

open Sys2Proof.Machine

/-- Settles O56: every move keeps the bounds of the track and the library and the track's shape, and every command leaves the link
sound. -/
theorem stepKeepsBounds : Obligations.StepKeepsBounds := by
  intro s t bounds library shaped e
  rw [State.queuesBounded_iff] at bounds ⊢
  exact ⟨⟨step_keeps (P := fun s => s.track.queued) (fun _ _ h m => m.queued h) (fun _ _ h => h) bounds.1 e,
      (step_passes e).2 bounds.2⟩,
    step_keeps (P := fun s => s.library.bounded) (fun _ _ h m => m.bounded h) (fun _ _ h => h) library e,
    step_keeps (P := fun s => s.track.shaped) (fun _ _ h m => m.shaped h) (fun _ _ h => h) shaped e⟩

/-- Settles O57: every move keeps a track that is shaped numbered by its entries, and the numbers of such a track are distinct. -/
theorem stepKeepsSerials : Obligations.StepKeepsSerials :=
  ⟨fun _ _ shaped numbered e =>
    (step_keeps (P := fun s => s.track.shaped ∧ s.track.numbered) (fun _ _ h m => m.numbered h) (fun _ _ h => h)
      ⟨shaped, numbered⟩ e).2,
    fun _ shaped numbered _ _ _ _ hp hq e => Track.serial_inj shaped numbered hp hq e⟩

/-- Settles O59: HEAD_SAFE moves only with the heads, and a binding is given only where no other head holds it. -/
theorem stepKeepsCauseAndBindings : Obligations.StepKeepsCauseAndBindings :=
  fun _ _ follows distinct e =>
    ⟨step_keeps (P := State.headSafeFollows) (fun _ _ h m => m.headSafe h) (fun _ _ h => h) follows e,
      step_keeps (P := State.bindingsDistinct) (fun _ _ h m => m.bindings h) (fun _ _ h => h) distinct e⟩

/-- Settles O60: the blocks of the reset state, one by one. -/
theorem resetIsSound : Obligations.ResetIsSound := by
  have head (h : Fin 16) : State.reset.head h = {} := Sys2Proof.Bank.get_fill h _
  refine ⟨?_, Library.bounded_reset, Track.shaped_reset, Track.numbered_reset, fun h => ?_, fun h => ?_, ?_, ?_, ?_⟩
  · unfold State.queuesBounded; decide
  · rw [head]; unfold Head.coherent; decide
  · rw [head]; unfold Head.presentsSafely; decide
  · exact ⟨fun _ _ h => by rw [head], fun _ _ e => by cases e⟩
  · unfold State.headSafeFollows; simp [head]; decide
  · intro i j hi; rw [head] at hi; cases hi
end

