-- ==== Sys2Proof/Proofs/Resets.lean ====
section
/-! PROOFS. The two resets, block by block (R23, R190). -/

namespace Sys2Proof.Machine

/-- A record interrupted in its write fails its check (R180). -/
theorem StoreRecord.interrupted_invalid (draw : Nat) (old : StoreRecord) (new : CoeffItems) :
    (old.interrupted draw new).valid = false := by
  have next (a b : Half) : (if a = b then a + 1 else a) ≠ b := by
    split
    · subst_vars; intro h; bv_omega
    · assumption
  simp only [StoreRecord.valid, StoreRecord.interrupted, beq_eq_false_iff_ne]
  exact next _ _

/-- The records after a device reset, where one was being written (R180). -/
theorem Store.recordsAfterReset_writing {t : Store} {draw : Nat} {h : Fin 16} {c : CoeffItems} (e : t.op = .writing h c) :
    ((t.recordsAfterReset draw).get h).valid = false ∧ ∀ h' ≠ h, (t.recordsAfterReset draw).get h' = t.records.get h' := by
  simp only [Store.recordsAfterReset, e]
  refine ⟨by rw [Bank.get_modify, if_pos rfl]; exact StoreRecord.interrupted_invalid .., fun h' ne => ?_⟩
  rw [Bank.get_modify, if_neg ne]

theorem Store.recordsAfterReset_of_not_writing {t : Store} {draw : Nat} (no : ∀ h c, t.op ≠ .writing h c) :
    t.recordsAfterReset draw = t.records := by
  unfold Store.recordsAfterReset
  split
  · exact absurd ‹_› (no _ _)
  all_goals rfl

theorem Store.softReset_reading {t : Store} {h : Fin 16} (e : t.op = .reading h) : t.softReset = { t with op := .idle } := by
  simp only [Store.softReset, e]

theorem Store.softReset_of_not_reading {t : Store} (no : ∀ h, t.op ≠ .reading h) : t.softReset = t := by
  unfold Store.softReset
  split
  · exact absurd ‹_› (no _)
  all_goals rfl

theorem Store.softReset_records (t : Store) : t.softReset.records = t.records ∧ t.softReset.lastWrite = t.lastWrite := by
  unfold Store.softReset
  split <;> exact ⟨rfl, rfl⟩

/-- CLOSING and CLOSED become OPENING (R71). -/
theorem PlatenState.retract_eq (p : PlatenState) :
    p.retract = if p = .closing ∨ p = .closed then .opening else p := by
  cases p <;> rfl

/-- A head after a soft reset (R95, R109, R134, R173). -/
theorem Head.softReset_eq (x : Head) :
    x.softReset =
      { params := x.params, coeffs := x.coeffs
        platen := if x.platen = .closing ∨ x.platen = .closed then .opening else x.platen
        monitor := { live := x.monitor.live &&& 0x20 } } := by
  rw [← PlatenState.retract_eq]; rfl

end Sys2Proof.Machine

open Sys2Proof.Machine

/-- Settles O13, block by block. -/
theorem deviceResetSetsEveryBlock : Obligations.DeviceResetSetsEveryBlock := by
  intro s opens closeds
  refine ⟨_, rfl, rfl, rfl, rfl, rfl, rfl, rfl, rfl, rfl, rfl, fun h c e => Store.recordsAfterReset_writing e,
    Store.recordsAfterReset_of_not_writing, fun h => ?_⟩
  have head : (s.deviceReset opens closeds).head h = Head.deviceReset (opens.getLsbD h.val) := by
    simp [State.head, State.deviceReset, Lines.setPlatens, BitSet.has]
  rw [head]
  exact ⟨Sys2Proof.Bank.get_fill h _, rfl, rfl, rfl⟩

/-- Settles O14, block by block: the act is the soft reset, and its reply fills the one slot in use. -/
theorem partResetSetsEveryBlock : Obligations.PartResetSetsEveryBlock := by
  intro s tag now
  have kind : s.softReset.link.sending = s.link.sending.map fun m =>
      { m with source := match m.source with | .notice => .notice | .reply | .report | .removed => .removed } := by
    simp only [State.softReset, Link.softReset]
    congr 1
    funext m
    rcases m with ⟨f, src, due⟩
    cases src <;> rfl
  refine ⟨_, exec_answered (.partReset tag) now s.softReset (.ok []) rfl, ?_, rfl, rfl, rfl, rfl, rfl,
    s.store.softReset_records.1, s.store.softReset_records.2, fun h e => ?_, Store.softReset_of_not_reading, rfl, rfl, fun h => ?_⟩
  · exact congrArg (Link.mk .hunt none [] [] [⟨0x81, tag, [0]⟩]) kind
  · exact congrArg Store.op (Store.softReset_reading e)
  · have head : s.softReset.head h = (s.head h).softReset := by simp [State.head, State.softReset]
    exact ⟨by simp [State.status, State.withReply, State.softReset, HeadStatus.softReset],
      head.trans (Head.softReset_eq _)⟩
end

