-- ==== Sys2Proof/Proofs/Causes.lean ====
section
/-! PROOFS. Line-hold causes, the stall timer, HOLD-RELEASE, TRACK-SETUP and the confirm window. -/

namespace Sys2Proof.Machine

variable {s : State}

/-! ### The cause set (R18, R21) -/

/-- A change of the cause set, written out: the set, and HOLD_CHANGED where the output changes level (R21). -/
theorem State.changeCauses_eq (x : Byte) :
    s.changeCauses x =
      (s.setCauseSet x).setTrackStatus
        (if (x = 0 ↔ s.causes = 0) then s.trackStatus else s.trackStatus.post .holdChanged) := by
  apply State.ext <;> simp [State.changeCauses_causes, State.changeCauses_trackStatus]

theorem or_twoPow_ne_zero (x : Byte) {i : Nat} (hi : i < 8) : x ||| BitVec.twoPow 8 i ≠ 0 := by
  intro e
  have := congrArg (fun b : Byte => b.getLsbD i) e
  simp [hi] at this

theorem Cause.bit_lt (c : Cause) : c.bit < 8 := by cases c <;> decide

/-- A cause made present: HOLD_CHANGED exactly where the set was empty (R18, R21). -/
theorem State.postCause_eq (c : Cause) :
    s.postCause c =
      (s.setCauseSet (s.causes ||| BitVec.twoPow 8 c.bit)).setTrackStatus
        (if s.causes = 0 then s.trackStatus.post .holdChanged else s.trackStatus) := by
  have ne := or_twoPow_ne_zero s.causes c.bit_lt
  rw [State.postCause, BitSet.add, State.changeCauses_eq]
  congr 1
  simp only [ne, false_iff]
  split <;> simp_all

/-- The track events in the bits of R198 (R158). -/
theorem TrackStatus.post_eq (e : TrackEvent) (u : TrackStatus) :
    u.post e =
      { u with
        changed := u.changed ||| BitVec.twoPow 8 e.bit
        owed := u.owed || decide (u.changed &&& u.enable = 0 ∧ BitVec.twoPow 8 e.bit &&& u.enable ≠ 0) } := by
  have member : BitSet.has u.enable e.bit = decide (BitVec.twoPow 8 e.bit &&& u.enable ≠ 0) := by
    have nz : BitVec.twoPow 8 e.bit ≠ 0#8 := by cases e <;> decide
    rw [BitVec.and_comm, BitVec.and_twoPow, BitSet.has]
    cases u.enable.getLsbD e.bit <;> simp [nz]
  have both (p q : Prop) [Decidable p] [Decidable q] : (decide q && decide p) = decide (p ∧ q) := by
    by_cases p <;> by_cases q <;> simp [*]
  simp only [TrackStatus.post, BitSet.add, member, ← both]
  rfl

/-! ### The manifest threshold (R30) -/

theorem Track.runsLow_eq (t : Track) : t.runsLow = t.manifestLow := rfl

/-- The track replaced, and MANIFEST_LOW posted where its presence changes (R30). -/
theorem State.crossManifest_eq (t : Track) :
    s.crossManifest t =
      if t.runsLow = s.track.runsLow then s.setTrack t
      else (s.setTrack t).setTrackStatus (s.trackStatus.post .manifestLow) := rfl

/-! ### TRACK-SETUP (R2) -/

/-- The value check of R2 on the bytes of the request. -/
theorem trackConfigOf_valid (r : TrackSetupReq) :
    (trackConfigOf r).valid = true ↔
      4 ≤ r.length.toNat ∧ r.length.toNat ≤ 24 ∧
      (r.form = 0xFF ∨ r.form.toNat + 3 ≤ r.length.toNat ∧ r.form.toNat < r.sealPos.toNat) ∧
      1 ≤ r.sealPos.toNat ∧ r.sealPos.toNat + 2 ≤ r.length.toNat ∧
      100 ≤ r.stallLimit.toNat ∧ r.stallLimit.toNat ≤ 3000 ∧
      (r.threshold = 0 ∨ r.threshold = 2 ∨ r.threshold = 4 ∨ r.threshold = 8) := by
  have byte (b c : Byte) : b = c ↔ b.toNat = c.toNat := BitVec.toNat_inj.symm
  have form : (match formPosition r.form with
      | none => true
      | some f => decide (f + 3 ≤ r.length.toNat) && decide (f < r.sealPos.toNat)) = true ↔
      (r.form = 0xFF ∨ r.form.toNat + 3 ≤ r.length.toNat ∧ r.form.toNat < r.sealPos.toNat) := by
    unfold formPosition
    rw [byte r.form 0xFF]
    by_cases h : r.form.toNat = 255 <;> simp [h]
  have low : (match manifestThreshold r.threshold with
      | none => true
      | some k => k == 2 || k == 4 || k == 8) = true ↔
      (r.threshold = 0 ∨ r.threshold = 2 ∨ r.threshold = 4 ∨ r.threshold = 8) := by
    unfold manifestThreshold
    rw [byte r.threshold 0, byte r.threshold 2, byte r.threshold 4, byte r.threshold 8]
    by_cases h : r.threshold.toNat = 0 <;> simp [h, or_assoc]
  unfold TrackConfig.valid
  simp only [Bool.and_eq_true, within, decide_eq_true_eq]
  exact ⟨fun ⟨⟨⟨⟨a, b⟩, c⟩, d⟩, e⟩ => ⟨a.1, a.2, form.1 b, c.1, c.2, d.1, d.2, low.1 e⟩,
    fun ⟨a, a', b, c, c', d, d', e⟩ => ⟨⟨⟨⟨⟨a, a'⟩, form.2 b⟩, ⟨c, c'⟩⟩, ⟨d, d'⟩⟩, low.2 e⟩⟩

theorem trackConfigOf_eq (r : TrackSetupReq) :
    trackConfigOf r =
      ⟨r.length.toNat, if r.form = 0xFF then none else some r.form.toNat, r.sealPos.toNat, r.stallLimit.toNat,
       if r.threshold = 0 then none else some r.threshold.toNat, r.flags.getLsbD 0, r.flags.getLsbD 1⟩ := by
  have form : r.form.toNat = 255 ↔ r.form = 0xFF := by rw [← BitVec.toNat_inj]; rfl
  have low : r.threshold.toNat = 0 ↔ r.threshold = 0 := by rw [← BitVec.toNat_inj]; rfl
  simp only [trackConfigOf, formPosition, manifestThreshold, form, low]
  rfl

theorem State.anyBound_iff (st : Station) : s.anyBound st = true ↔ ∃ h lane, (s.head h).params.binding = some (st, lane) := by
  rw [State.anyBound, Bank.any_toList]
  refine exists_congr fun h => ?_
  unfold Head.boundLane State.head
  rcases (s.heads.get h).params.binding with _ | ⟨st', lane⟩
  · simp
  · dsimp only
    split
    · simp [*]
    · simp [*]

/-! ### The confirm window (R143) -/

theorem laneCount_eq (lanes : Byte) : laneCount lanes = ((List.range 8).filter fun i => lanes.getLsbD i).length := by
  rw [← List.countP_eq_length_filter]
  rfl

end Sys2Proof.Machine

open Sys2Proof Sys2Proof.Machine

/-- Settles O15, by the refusals in their order. -/
theorem trackSetupReplacesConfiguration : Obligations.TrackSetupReplacesConfiguration := by
  intro s tag r now good formBound config track
  have valid : (trackConfigOf r).valid = true ↔ good := trackConfigOf_valid r
  have config_eq : trackConfigOf r = config := trackConfigOf_eq r
  have inUse : ((trackConfigOf r).form.isNone && s.anyBound .form) = true ↔ r.form = 0xFF ∧ formBound := by
    rw [config_eq, Bool.and_eq_true, State.anyBound_iff]
    by_cases h : r.form = 0xFF <;> simp [config, h, formBound]
  have act : actTrackSetup r s =
      if s.track.mode ≠ .halted then answered (.refuse .wrongMode 0) s
      else if ¬good then answered (.refuse .badValue 0) s
      else if r.form = 0xFF ∧ formBound then answered (.refuse .inUse 0) s
      else answered (.ok []) (s.crossManifest track) := by
    have vb : ((!(trackConfigOf r).valid) = true) ↔ ¬good := by rw [← valid]; simp
    simp only [actTrackSetup, vb, inUse]
    rw [config_eq]
    rfl
  refine ⟨fun mode => ?_, fun mode bad => ?_, fun mode ok form bound => ?_, fun mode ok free => ?_⟩
  · exact exec_answered (.trackSetup tag r) now s (.refuse .wrongMode 0) (act.trans (if_pos mode))
  · exact exec_answered (.trackSetup tag r) now s (.refuse .badValue 0) (by
      show actTrackSetup r s = _
      rw [act, if_neg (not_not.2 mode), if_pos bad]; rfl)
  · exact exec_answered (.trackSetup tag r) now s (.refuse .inUse 0) (by
      show actTrackSetup r s = _
      rw [act, if_neg (not_not.2 mode), if_neg (not_not.2 ok), if_pos ⟨form, bound⟩]; rfl)
  · exact exec_answered (.trackSetup tag r) now (s.crossManifest track) (.ok []) (by
      show actTrackSetup r s = _
      rw [act, if_neg (not_not.2 mode), if_neg (not_not.2 ok), if_neg free]; rfl)

/-- Settles O22: a posted cause joins, a changed set posts HOLD_CHANGED where the output changes level. -/
theorem causesJoinAndLeave : Obligations.CausesJoinAndLeave := by
  intro s
  refine ⟨fun idle => ?_, fun due running => ?_, fun e u => ?_, fun tag now => ?_⟩
  · exact congrArg Host.Outcome.next (by simp only [State.expire, idle])
  · exact congrArg Host.Outcome.next (by simp only [State.expire, running]; exact State.postCause_eq _)
  · cases e <;> exact TrackStatus.post_eq _ u
  · refine (exec_answered (.holdRelease tag) now (s.changeCauses (s.causes &&& liveCauses)) (.ok [_]) rfl).trans ?_
    have live : liveCauses = 0xC0 := by decide
    rw [State.changeCauses_causes, State.changeCauses_eq, live]
    by_cases h : s.causes = 0#8
    · simp [h]; rfl
    · by_cases h' : s.causes &&& 0xC0 = 0#8 <;> simp [h] <;> rfl

/-- Settles O55: the window is closed and the count written, and a count that differs posts the cause and the event. -/
theorem confirmWindowComparesCounts : Obligations.ConfirmWindowComparesCounts := by
  intro s a due count p lanes n activity timer phase confirm diverted found number
  have runs : s.gate.timerIn GateActivity.windowOpen s.gate.windowTimer = some due := by
    rcases phase with h | h <;> simp [Gate.timerIn, activity, GateActivity.windowOpen, h, timer]
  let now := s.setNow (max s.now due)
  let closed := (now.setTrack (s.track.putConfirm a.serial count)).setGate (s.gate.closeWindow .done)
  have exec_eq : exec .confirmWindowExpiry s =
      .next (if count = number then closed else (closed.postCause .gateMismatch).postTrack .gateMismatch) := by
    refine congrArg Host.Outcome.next ?_
    rw [runs]
    simp only [State.expire, State.endWindow, State.advanceTo_gate, activity, State.windowEnd, confirm, diverted,
      Option.getD_some, laneCount_eq]
    rfl
  have written : closed.track.find a.serial = some (p, { n with confirm := some count }) := by
    have e := Track.find_updateNest s.track a.serial a.serial (fun n => { n with confirm := some count }) (fun _ => rfl)
    refine e.trans ?_
    rw [found]
    exact congrArg some (Prod.ext rfl (if_pos (Track.find_serial found)))
  have gate : closed.gate =
      { s.gate with
        activity := some { a with diverter := .done, confirm := none }
        diverterOut := 0, diverterTimer := none, windowTimer := none } := by
    simp only [closed, State.setGate_gate, Gate.closeWindow, Gate.update, activity, Option.map_some]
  refine ⟨_, exec_eq, ?_⟩
  by_cases same : count = number
  · rw [if_pos same]
    exact ⟨rfl, rfl, rfl, written, gate, fun _ => ⟨rfl, rfl⟩, fun no => absurd same no⟩
  · rw [if_neg same, State.postCause_eq]
    refine ⟨rfl, rfl, rfl, written, gate, fun no => absurd no same, fun _ => ?_⟩
    have gains : s.trackStatus.gains
        ((if s.causes = 0 then s.trackStatus.post .holdChanged else s.trackStatus).post .gateMismatch) := by
      refine TrackStatus.gains_trans ?_ (TrackStatus.post_gains _ _)
      split
      · exact TrackStatus.post_gains _ _
      · exact TrackStatus.gains_refl _
    refine ⟨rfl, gains.1, ?_, gains.2.2⟩
    change ((if s.causes = 0 then s.trackStatus.post .holdChanged else s.trackStatus).post .gateMismatch).changed = _
    split
    · rw [TrackStatus.post_eq, TrackStatus.post_eq]
      dsimp only
      rw [BitVec.or_assoc, BitVec.or_assoc, BitVec.or_comm (BitVec.twoPow 8 _)]; rfl
    · rw [TrackStatus.post_eq]; exact (BitVec.or_zero).symm
end

