-- ==== Sys2Proof/Proofs/Due.lean ====
section
/-! PROOFS. What is due, event by event, and the step on an empty queue. -/

namespace Sys2Proof.Machine

variable {s : State} {i j : Instr}

theorem mem_dueBy {now : Nat} {due : Option Nat} : i ∈ dueBy now due j ↔ i = j ∧ ∃ t, due = some t ∧ t ≤ now := by
  rcases due with _ | t
  · simp [dueBy]
  · by_cases h : t ≤ now <;> simp [dueBy, h]

theorem mem_dueIf {ok : Bool} : i ∈ dueIf ok j ↔ i = j ∧ ok = true := by
  cases ok <;> simp [dueIf]

theorem Link.gapDue_eq_some {k : Link} {t : Nat} :
    k.gapDue = some t ↔ k.receiver.complete = none ∧ ∃ l, k.lastByte = some l ∧ l + 6 = t := by
  unfold Link.gapDue
  split
  · rename_i l h1 h2
    simp [h1, h2, Config.gapLimit]
  · rename_i no
    simp only [reduceCtorEq, false_iff, not_and, not_exists]
    exact fun h1 l h2 => absurd h2 (no l h1)

/-- The transmitter has a message to send (R188). -/
theorem State.nextMessage_isSome :
    s.nextMessage.isSome = true ↔
      s.link.filled ≠ [] ∨ s.track.outcomes ≠ [] ∨ (∃ h, (s.status h).owed = true) ∨ s.trackStatus.owed = true := by
  unfold State.nextMessage
  split
  · rename_i e; simp [e]
  · rename_i e; simp [e]
  · rename_i h e1 e2 e3
    have := List.find?_some e3
    simp only [Option.isSome_some, true_iff]
    exact .inr (.inr (.inl ⟨h, this⟩))
  · rename_i e1 e2 e3
    have none : ¬∃ h, (s.status h).owed = true := by
      rintro ⟨h, ho⟩
      exact absurd ho (List.find?_eq_none.1 e3 h (mem_allHeads h))
    by_cases owed : s.trackStatus.owed = true <;> simp [e1, e2, none, owed]

theorem State.mayTransmit_iff :
    s.mayTransmit = true ↔ s.lines.hostHold = false ∧ s.link.sending = none ∧
      (s.link.filled ≠ [] ∨ s.track.outcomes ≠ [] ∨ (∃ h, (s.status h).owed = true) ∨ s.trackStatus.owed = true) := by
  simp only [State.mayTransmit, Bool.and_eq_true, State.nextMessage_isSome, Option.isNone_iff_eq_none, Bool.not_eq_true']
  tauto

theorem Gate.timerIn_eq_some {g : Gate} {phase : GateActivity → Bool} {timer : Option Nat} {t : Nat} :
    g.timerIn phase timer = some t ↔ (∃ a, g.activity = some a ∧ phase a = true) ∧ timer = some t := by
  unfold Gate.timerIn
  rcases g.activity with _ | a
  · simp
  · by_cases h : phase a = true <;> simp [h]

theorem Head.startDue_eq_some {x : Head} {source : StartSource} {t : Nat} :
    x.startDue source = some t ↔ x.state = .pending ∧ x.params.source = source ∧ x.startTimer = some t := by
  simp only [Head.startDue, Head.waitsFor, Bool.and_eq_true, beq_iff_eq]
  split <;> tauto

theorem Head.segmentDue_eq_some {x : Head} {kinds : List SegKind} {t : Nat} :
    x.segmentDue kinds = some t ↔
      ∃ r g, x.run? = some r ∧ r.segments[r.current]? = some g ∧ g.kind ∈ kinds ∧ r.segDue = t := by
  unfold Head.segmentDue Run.segment
  split
  · simp [*]
  · rename_i r e
    split
    · simp_all
    · rename_i g eg
      by_cases h : g.kind ∈ kinds
      · simp only [h, if_true, Option.some.injEq]
        exact ⟨fun et => ⟨r, g, e, eg, h, et⟩, fun ⟨r', g', e', eg', _, et⟩ => by
          rw [e] at e'; cases e'; exact et⟩
      · simp only [h, if_false, reduceCtorEq, false_iff, not_exists, not_and]
        intro r' g' e' eg' hk
        rw [e] at e'; cases e'
        rw [eg] at eg'; cases eg'
        exact absurd hk h

theorem Ramp.due_eq_some {p : Ramp} {t : Nat} : p.due = some t ↔ p.next < p.duration ∧ p.start + p.next = t := by
  unfold Ramp.due
  split <;> simp [*]

/-- What is due at the link (R183, R188, R189). -/
theorem State.mem_dueLink :
    i ∈ s.dueLink ↔
      (i = .frameReceived ∧ s.link.receiver.complete ≠ none) ∨
      (i = .receiveGapTimeout ∧ s.link.receiver.complete = none ∧ ∃ l, s.link.lastByte = some l ∧ l + 6 ≤ s.now) ∨
      (i = .messageLastByte ∧ ∃ m, s.link.sending = some m ∧ m.due ≤ s.now) ∨
      (i = .transmitBegin s.lines.hostHold ∧ s.mayTransmit = true) := by
  simp only [State.dueLink, List.mem_append, mem_dueIf, mem_dueBy, Link.gapDue_eq_some, Option.map_eq_some_iff, or_assoc]
  refine or_congr (and_congr_right fun _ => Option.isSome_iff_ne_none) (or_congr (and_congr_right fun _ => ?_) (or_congr ?_ Iff.rfl))
  · exact ⟨fun ⟨t, ⟨h1, l, h2, e⟩, h3⟩ => ⟨h1, l, h2, e ▸ h3⟩, fun ⟨h1, l, h2, h3⟩ => ⟨_, ⟨h1, l, h2, rfl⟩, h3⟩⟩
  · exact and_congr_right fun _ => ⟨fun ⟨t, ⟨m, h, e⟩, h3⟩ => ⟨m, h, e ▸ h3⟩, fun ⟨m, h, h3⟩ => ⟨_, ⟨m, h, rfl⟩, h3⟩⟩

/-- What is due at the gate (R138 to R143). -/
theorem State.mem_dueGate :
    i ∈ s.dueGate ↔
      (i = .punchDelayExpiry ∧ (∃ a, s.gate.activity = some a ∧ a.punch = .delay) ∧ ∃ t, s.gate.punchTimer = some t ∧ t ≤ s.now) ∨
      (i = .punchWidthExpiry ∧ (∃ a, s.gate.activity = some a ∧ a.punch = .asserted) ∧ ∃ t, s.gate.punchTimer = some t ∧ t ≤ s.now) ∨
      (i = .diverterDelayExpiry ∧ (∃ a, s.gate.activity = some a ∧ a.diverter = .delay) ∧
        ∃ t, s.gate.diverterTimer = some t ∧ t ≤ s.now) ∨
      (i = .diverterWidthExpiry ∧ (∃ a, s.gate.activity = some a ∧ a.diverter = .pulse) ∧
        ∃ t, s.gate.diverterTimer = some t ∧ t ≤ s.now) ∨
      (i = .confirmWindowExpiry ∧ (∃ a, s.gate.activity = some a ∧ (a.diverter = .pulse ∨ a.diverter = .window)) ∧
        ∃ t, s.gate.windowTimer = some t ∧ t ≤ s.now) := by
  simp only [State.dueGate, List.mem_append, mem_dueBy, Gate.timerIn_eq_some, beq_iff_eq, GateActivity.windowOpen,
    Bool.or_eq_true, or_assoc, and_assoc, exists_and_left]

/-- What is due at the store (R175 to R179). -/
theorem State.mem_dueStore :
    i ∈ s.dueStore ↔
      (i = .loadRecordJudged ∧ (∃ l, s.store.op = .loading l) ∧ s.store.due ≤ s.now) ∨
      (i = .coeffReadEnd ∧ (∃ h, s.store.op = .reading h) ∧ s.store.due ≤ s.now) ∨
      (i = .coeffWriteEnd ∧ (∃ h c, s.store.op = .writing h c) ∧ s.store.due ≤ s.now) := by
  unfold State.dueStore
  split <;> simp [mem_dueBy, *]

/-- What is due at a head (R74 to R79, R85, R99, R110, R165). -/
theorem State.mem_dueHead (h : Fin 16) :
    i ∈ s.dueHead h ↔
      (i = .startDelayExpiry h ∧ s.hasDue (.startDelayExpiry h)) ∨
      (i = .startLimitExpiry h ∧ s.hasDue (.startLimitExpiry h)) ∨
      (i = .segmentExpiry h ∧ s.hasDue (.segmentExpiry h)) ∨
      (i = .closeLimitExpiry h ∧ s.hasDue (.closeLimitExpiry h)) ∨
      (i = .openLimitExpiry h ∧ s.hasDue (.openLimitExpiry h)) ∨
      (i = .rampStep h ∧ s.hasDue (.rampStep h)) ∨
      (i = .releaseOpenLimitExpiry h ∧ s.hasDue (.releaseOpenLimitExpiry h)) ∨
      (i = .sample h (s.lines.heads.get h).reading (s.lines.heads.get h).closedLevel (s.lines.heads.get h).openLevel ∧
        ∃ t, (s.head h).monitor.sampleTimer = some t ∧ t ≤ s.now) ∨
      (i = .virtualEdgeExpiry h ∧ s.hasDue (.virtualEdgeExpiry h)) := by
  have start (source : StartSource) : (∃ t, (s.head h).startDue source = some t ∧ t ≤ s.now) ↔
      (s.head h).state = .pending ∧ (s.head h).params.source = source ∧ ∃ t, (s.head h).startTimer = some t ∧ t ≤ s.now := by
    simp only [Head.startDue_eq_some, and_assoc, exists_and_left]
  have segment (kinds : List SegKind) : (∃ t, (s.head h).segmentDue kinds = some t ∧ t ≤ s.now) ↔
      ∃ r g, (s.head h).run? = some r ∧ r.segments[r.current]? = some g ∧ g.kind ∈ kinds ∧ r.segDue ≤ s.now := by
    simp only [Head.segmentDue_eq_some]
    exact ⟨fun ⟨t, ⟨r, g, h1, h2, h3, e⟩, h4⟩ => ⟨r, g, h1, h2, h3, e ▸ h4⟩, fun ⟨r, g, h1, h2, h3, h4⟩ => ⟨_, ⟨r, g, h1, h2, h3, rfl⟩, h4⟩⟩
  have two : (∃ t, (s.head h).segmentDue [.hold, .ramp] = some t ∧ t ≤ s.now) ↔ s.hasDue (.segmentExpiry h) := by
    rw [segment]
    simp only [List.mem_cons, List.not_mem_nil, or_false, State.hasDue]
    exact ⟨fun ⟨r, g, h1, h2, h3, h4⟩ => h3.imp (fun h3 => ⟨r, g, h1, h2, h3, h4⟩) fun h3 => ⟨r, g, h1, h2, h3, h4⟩,
      fun o => o.elim (fun ⟨r, g, h1, h2, h3, h4⟩ => ⟨r, g, h1, h2, .inl h3, h4⟩)
        fun ⟨r, g, h1, h2, h3, h4⟩ => ⟨r, g, h1, h2, .inr h3, h4⟩⟩
  have ramp : (∃ t, (s.head h).ramp.bind Ramp.due = some t ∧ t ≤ s.now) ↔ s.hasDue (.rampStep h) := by
    simp only [Option.bind_eq_some_iff, Ramp.due_eq_some, State.hasDue]
    exact ⟨fun ⟨t, ⟨p, h1, h2, e⟩, h3⟩ => ⟨p, h1, h2, e ▸ h3⟩, fun ⟨p, h1, h2, h3⟩ => ⟨_, ⟨p, h1, h2, rfl⟩, h3⟩⟩
  have release : (∃ t, (s.head h).release.map Release.due = some t ∧ t ≤ s.now) ↔ s.hasDue (.releaseOpenLimitExpiry h) := by
    simp only [Option.map_eq_some_iff, State.hasDue]
    exact ⟨fun ⟨t, ⟨r, h1, e⟩, h2⟩ => ⟨r, h1, e ▸ h2⟩, fun ⟨r, h1, h2⟩ => ⟨_, ⟨r, h1, rfl⟩, h2⟩⟩
  have edge : (∃ t, (s.head h).virtual.map Prod.snd = some t ∧ t ≤ s.now) ↔ s.hasDue (.virtualEdgeExpiry h) := by
    simp only [Option.map_eq_some_iff, State.hasDue]
    exact ⟨fun ⟨t, ⟨v, h1, e⟩, h2⟩ => ⟨v.1, v.2, h1, e ▸ h2⟩, fun ⟨e, t, h1, h2⟩ => ⟨_, ⟨(e, t), h1, rfl⟩, h2⟩⟩
  simp only [State.dueHead, List.mem_append, mem_dueBy, start, two, segment, ramp, release, edge, List.mem_singleton, or_assoc]
  rfl

theorem State.mem_dueNow_iff :
    i ∈ s.dueNow ↔ i ∈ s.dueLink ∨ (i = .stallExpiry ∧ s.hasDue .stallExpiry) ∨
      (i = .syntheticIndexDone ∧ s.hasDue .syntheticIndexDone) ∨ i ∈ s.dueGate ∨ i ∈ s.dueStore ∨ ∃ h, i ∈ s.dueHead h := by
  simp only [State.dueNow, List.mem_append, List.mem_flatMap, mem_allHeads, true_and, mem_dueBy, or_assoc]
  rfl

/-- What is due is an event of the device's own whose time has come. -/
theorem State.hasDue_of_mem (m : i ∈ s.dueNow) : s.hasDue i := by
  rcases State.mem_dueNow_iff.1 m with m | ⟨rfl, d⟩ | ⟨rfl, d⟩ | m | m | ⟨h, m⟩
  · rcases State.mem_dueLink.1 m with ⟨rfl, d⟩ | ⟨rfl, d⟩ | ⟨rfl, d⟩ | ⟨rfl, d⟩
    · exact d
    · exact d
    · exact d
    · exact ⟨rfl, State.mayTransmit_iff.1 d⟩
  · exact d
  · exact d
  · rcases State.mem_dueGate.1 m with ⟨rfl, d⟩ | ⟨rfl, d⟩ | ⟨rfl, d⟩ | ⟨rfl, d⟩ | ⟨rfl, d⟩ <;> exact d
  · rcases State.mem_dueStore.1 m with ⟨rfl, d⟩ | ⟨rfl, d⟩ | ⟨rfl, d⟩ <;> exact d
  · rcases (State.mem_dueHead h).1 m with d | d | d | d | d | d | d | ⟨rfl, d⟩ | d
    iterate 7 exact d.1 ▸ d.2
    · exact ⟨rfl, d⟩
    · exact d.1 ▸ d.2

/-- An event of the device's own whose time has come is in the list. -/
theorem State.mem_of_hasDue (d : s.hasDue i) : i ∈ s.dueNow := by
  have link (m : i ∈ s.dueLink) : i ∈ s.dueNow := State.mem_dueNow_iff.2 (.inl m)
  have gate (m : i ∈ s.dueGate) : i ∈ s.dueNow := State.mem_dueNow_iff.2 (.inr (.inr (.inr (.inl m))))
  have store (m : i ∈ s.dueStore) : i ∈ s.dueNow := State.mem_dueNow_iff.2 (.inr (.inr (.inr (.inr (.inl m)))))
  have head (h : Fin 16) (m : i ∈ s.dueHead h) : i ∈ s.dueNow :=
    State.mem_dueNow_iff.2 (.inr (.inr (.inr (.inr (.inr ⟨h, m⟩)))))
  cases i with
  | frameReceived => exact link (State.mem_dueLink.2 (.inl ⟨rfl, d⟩))
  | receiveGapTimeout => exact link (State.mem_dueLink.2 (.inr (.inl ⟨rfl, d⟩)))
  | messageLastByte => exact link (State.mem_dueLink.2 (.inr (.inr (.inl ⟨rfl, d⟩))))
  | transmitBegin hold =>
    obtain ⟨rfl, d⟩ := d
    exact link (State.mem_dueLink.2 (.inr (.inr (.inr ⟨rfl, State.mayTransmit_iff.2 d⟩))))
  | stallExpiry => exact State.mem_dueNow_iff.2 (.inr (.inl ⟨rfl, d⟩))
  | syntheticIndexDone => exact State.mem_dueNow_iff.2 (.inr (.inr (.inl ⟨rfl, d⟩)))
  | punchDelayExpiry => exact gate (State.mem_dueGate.2 (.inl ⟨rfl, d⟩))
  | punchWidthExpiry => exact gate (State.mem_dueGate.2 (.inr (.inl ⟨rfl, d⟩)))
  | diverterDelayExpiry => exact gate (State.mem_dueGate.2 (.inr (.inr (.inl ⟨rfl, d⟩))))
  | diverterWidthExpiry => exact gate (State.mem_dueGate.2 (.inr (.inr (.inr (.inl ⟨rfl, d⟩)))))
  | confirmWindowExpiry => exact gate (State.mem_dueGate.2 (.inr (.inr (.inr (.inr ⟨rfl, d⟩)))))
  | loadRecordJudged => exact store (State.mem_dueStore.2 (.inl ⟨rfl, d⟩))
  | coeffReadEnd => exact store (State.mem_dueStore.2 (.inr (.inl ⟨rfl, d⟩)))
  | coeffWriteEnd => exact store (State.mem_dueStore.2 (.inr (.inr ⟨rfl, d⟩)))
  | startDelayExpiry h => exact head h ((State.mem_dueHead h).2 (.inl ⟨rfl, d⟩))
  | startLimitExpiry h => exact head h ((State.mem_dueHead h).2 (.inr (.inl ⟨rfl, d⟩)))
  | segmentExpiry h => exact head h ((State.mem_dueHead h).2 (.inr (.inr (.inl ⟨rfl, d⟩))))
  | closeLimitExpiry h => exact head h ((State.mem_dueHead h).2 (.inr (.inr (.inr (.inl ⟨rfl, d⟩)))))
  | openLimitExpiry h => exact head h ((State.mem_dueHead h).2 (.inr (.inr (.inr (.inr (.inl ⟨rfl, d⟩))))))
  | rampStep h => exact head h ((State.mem_dueHead h).2 (.inr (.inr (.inr (.inr (.inr (.inl ⟨rfl, d⟩)))))))
  | releaseOpenLimitExpiry h =>
    exact head h ((State.mem_dueHead h).2 (.inr (.inr (.inr (.inr (.inr (.inr (.inl ⟨rfl, d⟩))))))))
  | sample h r c o =>
    obtain ⟨shown, d⟩ := d
    exact head h ((State.mem_dueHead h).2 (.inr (.inr (.inr (.inr (.inr (.inr (.inr (.inl ⟨by rw [shown], d⟩)))))))))
  | virtualEdgeExpiry h =>
    exact head h ((State.mem_dueHead h).2 (.inr (.inr (.inr (.inr (.inr (.inr (.inr (.inr ⟨rfl, d⟩)))))))))
  | _ => exact absurd d id

end Sys2Proof.Machine

open Sys2Proof Sys2Proof.Machine

/-- Settles O2: the list of what is due, event by event, and the three cases of its length. -/
theorem emptyQueueTakesDueEvent : Obligations.EmptyQueueTakesDueEvent := by
  refine ⟨fun s i => ⟨State.hasDue_of_mem, State.mem_of_hasDue⟩, fun s empty => ?_⟩
  have idle : step s = s.idle := by simp only [step, empty]
  refine ⟨fun none => ?_, fun i one => ?_, fun many => ?_⟩
  · rw [idle, State.idle, none]
    exact congrArg (fun n => Host.Outcome.next (s.setNow n)) (max_eq_right (Nat.le_succ _))
  · rw [idle, State.idle, one]
  · match e : s.dueNow, many with
    | i :: j :: rest, _ =>
      have lt : Config.dueChoice s.draws % (i :: j :: rest).length < (i :: j :: rest).length := Nat.mod_lt _ (by simp)
      refine ⟨(i :: j :: rest)[Config.dueChoice s.draws % (i :: j :: rest).length], List.getElem_mem lt, ?_⟩
      rw [idle, State.idle, e]
      dsimp only
      rw [List.getD_eq_getElem _ _ lt]
end

