-- ==== Sys2Proof/Proofs/IndexDone.lean ====
section
/-! PROOFS. INDEX-DONE, physical and synthetic, and STEP (R5 to R13). -/

namespace Sys2Proof.Machine

variable {s : State}

/-- Two bytes, the high byte first (R192). -/
theorem u16_eq (n : Nat) : u16 n = twoBytes n := by
  have high : (BitVec.ofNat 16 n).extractLsb' 8 8 = BitVec.ofNat 8 (n / 256) := by
    apply BitVec.eq_of_toNat_eq
    simp only [BitVec.extractLsb'_toNat, BitVec.toNat_ofNat, Nat.shiftRight_eq_div_pow]
    omega
  have low : (BitVec.ofNat 16 n).extractLsb' 0 8 = BitVec.ofNat 8 n := by
    apply BitVec.eq_of_toNat_eq
    simp only [BitVec.extractLsb'_toNat, BitVec.toNat_ofNat, Nat.shiftRight_zero]
    omega
  rw [u16, bytes16, high, low]
  rfl

/-! ### INDEX-DONE -/

/-- An INDEX-DONE taken in MOVING where the track shifts (R5, R9 to R13). -/
theorem State.takeIndexDone_shifts {m : TrackMode} (hv : s.track.config.valid = true) (hn : s.track.numbered)
    (moving : s.track.index = .moving) (mode : s.track.mode = m) :
    ∃ t, s.takeIndexDone m = (t, s.track.serial) ∧ s.shifted t ∧ t.track.index = .dwell ∧ t.track.stallTimer = none ∧
      t.track.mode = m ∧ t.track.steps = s.track.steps ∧
      (t.now = s.now ∧ t.link = s.link ∧ t.library = s.library ∧ t.store = s.store ∧ t.lines = s.lines) ∧
      (s.bindingsDistinct → s.stationsReached t ∧ s.gateReached t) := by
  obtain ⟨shifted, frame, ⟨k1, k2, k3, k4, k5, -⟩, arrivals⟩ :=
    State.shift_spec (s := s.setTrack { s.track with index := .dwell, stallTimer := none }) hv hn
  have index := congrArg Track.index frame
  have stall := congrArg Track.stallTimer frame
  have modes := congrArg Track.mode frame
  have steps := congrArg Track.steps frame
  refine ⟨(s.setTrack { s.track with index := .dwell, stallTimer := none }).shift, ?_, shifted, index, stall,
    modes.trans mode, steps, ⟨k1, k2, k3, k4, k5⟩, arrivals⟩
  simp only [State.takeIndexDone, moving, mode, if_true]

theorem State.takeIndexDone_returns {m : TrackMode} (moving : s.track.index = .moving) (mode : s.track.mode ≠ m) :
    s.takeIndexDone m = (s.setTrack { s.track with index := .dwell, stallTimer := none }, 0) := by
  simp only [State.takeIndexDone, moving, mode, if_false]

theorem State.takeIndexDone_dwell {m : TrackMode} (dwell : s.track.index = .dwell) :
    s.takeIndexDone m = (s.postTrack .indexSequence, 0) := by
  simp only [State.takeIndexDone, dwell]

/-! ### The oldest STEP in flight (R8) -/

/-- The state in which the synthetic INDEX-DONE of the oldest STEP is taken. -/
def State.stepTaken (due : Nat) (rest : List Nat) (s : State) : State :=
  (s.setNow (max s.now due)).setTrack { s.track with steps := rest }

theorem execSyntheticIndexDone_eq {due : Nat} {rest : List Nat} (h : s.track.steps = due :: rest) :
    exec .syntheticIndexDone s =
      .next (((s.stepTaken due rest).takeIndexDone .test).1.mapLink
        (Link.complete Kind.step (.ok (u16 ((s.stepTaken due rest).takeIndexDone .test).2)))) := by
  change execSyntheticIndexDone s = _
  rw [execSyntheticIndexDone, h]
  rfl

/-- The oldest slot that a request kind reserves takes the reply, and the others stand (R186). -/
theorem Link.complete_oldest {k : Link} {kind tag : Byte} {older younger : List Reserved} (a : Answer)
    (h : k.reserved = older ++ ⟨kind, tag⟩ :: younger) (no : ∀ r ∈ older, r.kind ≠ kind) :
    k.complete kind a =
      { k with reserved := older ++ younger, filled := k.filled ++ [⟨kind + 0x80, tag, a.payload⟩] } := by
  have found : k.reserved.find? (fun r => r.kind == kind) = some ⟨kind, tag⟩ := by
    rw [h, List.find?_append, List.find?_eq_none.2 fun r hr => by simpa using no r hr]
    simp
  have erased : k.reserved.erase ⟨kind, tag⟩ = older ++ younger := by
    rw [h, List.erase_append_right _ fun m => no _ m rfl, List.erase_cons_head]
  simp only [Link.complete, found, Link.fill, erased]
  rfl

/-! ### What an INDEX-START leaves of the track -/

theorem HeadEffect.onTrack_rest (e : HeadEffect) (t : Track) : { e.onTrack t with slots := t.slots } = t := by
  cases e <;> rfl

theorem HeadEffect.foldl_onTrack_rest (l : List HeadEffect) (t : Track) :
    { l.foldl (fun t e => e.onTrack t) t with slots := t.slots } = t := by
  induction l generalizing t with
  | nil => rfl
  | cons e l ih =>
    have a := congrArg (fun u : Track => { u with slots := t.slots }) (ih (e.onTrack t))
    exact a.trans (e.onTrack_rest t)

theorem State.actHeads_track_rest (f : Fin 16 → HeadCtx → HeadCtx) (s : State) :
    { (s.actHeads f allHeads).track with slots := s.track.slots } = s.track := by
  rw [State.actHeads_track f _ allHeads_nodup]
  exact HeadEffect.foldl_onTrack_rest _ _

theorem State.trackIndexStart_track (s : State) :
    { s.trackIndexStart.track with index := s.track.index, stallTimer := s.track.stallTimer } = s.track := by
  unfold State.trackIndexStart
  split <;> rfl

theorem State.gateIndexStart_track (s : State) : { s.gateIndexStart.track with slots := s.track.slots } = s.track := by
  unfold State.gateIndexStart
  split
  · rfl
  · dsimp only
    (repeat' split) <;> simp [Track.putConfirm, Track.updateNest]

/-- An INDEX-START leaves of the track all but the index state, the stall timer and the nests. -/
theorem State.takeIndexStart_track (s : State) :
    { s.takeIndexStart.track with index := s.track.index, stallTimer := s.track.stallTimer, slots := s.track.slots } = s.track := by
  have a := s.trackIndexStart_track
  have b := State.actHeads_track_rest (fun _ => HeadCtx.indexStart) s.trackIndexStart
  have c := (s.trackIndexStart.actHeads (fun _ => HeadCtx.indexStart) allHeads).gateIndexStart_track
  rw [State.takeIndexStart]
  generalize s.trackIndexStart.actHeads (fun _ => HeadCtx.indexStart) allHeads = v at b c ⊢
  generalize s.trackIndexStart = u at a b
  rw [← a, ← b, ← c]

theorem actStep_eq (mode : s.track.mode = .test) (dwell : s.track.index = .dwell) :
    actStep s =
      (s.takeIndexStart.setTrack { s.takeIndexStart.track with steps := s.takeIndexStart.track.steps ++ [s.now + 1] }, none) := by
  rw [actStep, if_neg (not_not.2 mode), if_neg (by rw [dwell]; decide)]

end Sys2Proof.Machine

open Sys2Proof Sys2Proof.Machine

/-- Settles O19, by the index state and the track mode. -/
theorem indexDoneShiftsInRun : Obligations.IndexDoneShiftsInRun := by
  intro s
  refine ⟨fun dwell => ?_, fun moving mode => ?_, fun moving mode hv hn => ?_⟩
  · exact congrArg (fun r => Host.Outcome.next (Prod.fst r)) (State.takeIndexDone_dwell dwell)
  · exact congrArg (fun r => Host.Outcome.next (Prod.fst r)) (State.takeIndexDone_returns moving mode)
  · obtain ⟨t, e, shifted, index, stall, tmode, steps, ⟨k1, k2, k3, k4, k5⟩, -⟩ :=
      State.takeIndexDone_shifts hv hn moving mode
    exact ⟨t, congrArg (fun r => Host.Outcome.next (Prod.fst r)) e, shifted, index, stall, tmode, steps, k2, k3, k4, k5, k1⟩

/-- Settles O20: the arrivals of the shift that either INDEX-DONE makes. -/
theorem shiftReachesStationsAndGate : Obligations.ShiftReachesStationsAndGate := by
  intro s hv hn distinct moving
  refine ⟨fun mode => ?_, fun mode due rest steps => ?_⟩
  · obtain ⟨t, e, -, -, -, -, -, -, reached⟩ := State.takeIndexDone_shifts hv hn moving mode
    exact ⟨t, congrArg (fun r => Host.Outcome.next (Prod.fst r)) e, reached distinct⟩
  · obtain ⟨t, e, -, -, -, -, -, -, reached⟩ :=
      State.takeIndexDone_shifts (s := s.stepTaken due rest) (m := .test) hv hn moving mode
    refine ⟨_, execSyntheticIndexDone_eq steps, ?_⟩
    rw [e]
    exact reached distinct

/-- Settles O21: the refusals and the reservation, and the synthetic INDEX-DONE in the three states it can find. -/
theorem stepSchedulesIndexDone : Obligations.StepSchedulesIndexDone := by
  refine ⟨fun s tag now => ⟨fun mode => ?_, fun mode moving => ?_, fun mode dwell => ?_⟩, ?_⟩
  · exact exec_answered (.step tag) now s (.refuse .wrongMode 2) (if_pos mode)
  · exact exec_answered (.step tag) now s (.refuse .wrongState 2)
      ((if_neg (not_not.2 mode)).trans (if_pos moving))
  · have steps := congrArg Track.steps s.takeIndexStart_track
    dsimp only at steps
    refine ⟨s.takeIndexStart, rfl, ?_⟩
    rw [← steps]
    have act : requestAct (.step tag) s = _ := actStep_eq mode dwell
    have e := exec_reserved (.step tag) now _ act
    exact e
  intro s tag due rest older younger steps reserved no later answered
  have reply (t : State) (n : Nat) (link : t.link = s.link) :
      t.mapLink (Link.complete Kind.step (.ok (u16 n))) = t.setLink (answered [BitVec.ofNat 8 (n / 256), BitVec.ofNat 8 n]) := by
    unfold State.mapLink
    rw [link, u16_eq]
    exact congrArg t.setLink (Link.complete_oldest _ reserved no)
  rw [execSyntheticIndexDone_eq steps]
  refine ⟨fun moving mode hv hn => ?_, fun moving mode => ?_, fun dwell => ?_⟩
  · obtain ⟨t, e, shifted, index, stall, tmode, ts, ⟨k1, k2, k3, k4, k5⟩, -⟩ :=
      State.takeIndexDone_shifts (s := s.stepTaken due rest) (m := .test) hv hn moving mode
    rw [e]
    refine ⟨_, congrArg Host.Outcome.next (reply t _ k2), shifted, index, stall, tmode, ts, k1, rfl, k3, k4, k5⟩
  · rw [State.takeIndexDone_returns (s := s.stepTaken due rest) moving mode]
    exact congrArg Host.Outcome.next (reply _ 0 rfl)
  · rw [State.takeIndexDone_dwell (s := s.stepTaken due rest) dwell]
    exact congrArg Host.Outcome.next (reply _ 0 rfl)
end

