-- ==== Sys2Proof/Proofs/TrackStop.lean ====
section
/-! PROOFS. The heads acting in turn, whatever they do with SAFE; TRACK-START and TRACK-STOP (R3, R4). -/

namespace Sys2Proof.Machine

variable {s : State}

/-! ### Causes and track status across the acts of heads (R18 to R21) -/

/-- A change of the track status by an act that posts nothing but HOLD_CHANGED (R21, R159). -/
def TrackStatus.holds (u v : TrackStatus) : Prop := u.gains v ∧ v.changed &&& 0xEF = u.changed &&& 0xEF

theorem TrackStatus.holds_refl (u : TrackStatus) : u.holds u := ⟨u.gains_refl, rfl⟩

theorem TrackStatus.holds_trans {u v w : TrackStatus} (a : u.holds v) (b : v.holds w) : u.holds w :=
  ⟨TrackStatus.gains_trans a.1 b.1, b.2.trans a.2⟩

theorem State.evalHeadSafe_trackStatus (s : State) : s.trackStatus.holds s.evalHeadSafe.trackStatus := by
  unfold State.evalHeadSafe
  split <;> exact State.changeCauses_status _

/-- The causes of a head's effects join, and HEAD_SAFE at most is evaluated; of the track status HOLD_CHANGED at most moves. -/
theorem State.actHead_causes (s : State) (h : Fin 16) (f : HeadCtx → HeadCtx) :
    (s.actHead h f).causes &&& 0xBF = (s.causes ||| effectsCauses (f (s.ctx h)).out) &&& 0xBF ∧
    s.trackStatus.holds (s.actHead h f).trackStatus := by
  obtain ⟨c, g, -, k⟩ := applyEffects_joins (f (s.ctx h)).out (s.withHead h (f (s.ctx h)).head (f (s.ctx h)).status)
  rcases s.actHead_eq h f with ⟨e, -⟩ | ⟨e, -⟩
  · rw [e]
    exact ⟨by rw [c]; rfl, g, k⟩
  · rw [e]
    exact ⟨by rw [(State.evalHeadSafe_causes _).1, c]; rfl, TrackStatus.holds_trans ⟨g, k⟩ (State.evalHeadSafe_trackStatus _)⟩

/-- The effects of the heads of a list, each on what it finds. -/
def State.effectsOf (f : Fin 16 → HeadCtx → HeadCtx) (hs : List (Fin 16)) (s : State) : List HeadEffect :=
  hs.flatMap fun h => (f h (s.ctx h)).out

theorem State.actHeads_causes (f : Fin 16 → HeadCtx → HeadCtx) (hs : List (Fin 16)) (nd : hs.Nodup) :
    (s.actHeads f hs).causes &&& 0xBF = (s.causes ||| effectsCauses (s.effectsOf f hs)) &&& 0xBF ∧
    s.trackStatus.holds (s.actHeads f hs).trackStatus := by
  induction hs generalizing s with
  | nil => exact ⟨by simp [State.actHeads, State.effectsOf, effectsCauses], s.trackStatus.holds_refl⟩
  | cons h rest ih =>
    obtain ⟨d1, d2⟩ := List.nodup_cons.1 nd
    have same : (s.actHead h (f h)).effectsOf f rest = s.effectsOf f rest := List.flatMap_congr fun h' m => by
      have ne : h' ≠ h := fun e => d1 (e ▸ m)
      rw [State.ctx_eq (by simp) (by simp) (s.actHead_of_ne _ ne).1 (s.actHead_of_ne _ ne).2]
    obtain ⟨c, k⟩ := ih (s := s.actHead h (f h)) d2
    obtain ⟨c0, k0⟩ := s.actHead_causes h (f h)
    refine ⟨?_, TrackStatus.holds_trans k0 k⟩
    rw [State.actHeads, c, same, BitVec.and_comm, BitVec.and_or_distrib_left, BitVec.and_comm, c0, BitVec.and_comm,
      ← BitVec.and_or_distrib_left, BitVec.and_comm]
    simp only [State.effectsOf, List.flatMap_cons, effectsCauses_append, BitVec.or_assoc]

/-! ### Discharge, with HOLD_CHANGED (R19, R21) -/

theorem State.changeCauses_joins {b : Byte} : s.joins b (s.changeCauses (s.causes ||| b)) :=
  ⟨State.changeCauses_causes _, (State.changeCauses_status _).1, State.changeCauses_holds _, (State.changeCauses_status _).2⟩

theorem or_zero_byte (x : Byte) : x ||| 0 = x := BitVec.or_zero

theorem State.discharge_joins (n : Nest) : ∃ b, (b = 0 ∨ b = 0x80) ∧ s.joins b (s.discharge n) := by
  rw [State.discharge_eq]
  split
  · exact ⟨0x80, .inr rfl, State.changeCauses_joins (s := s.setTrack (s.track.report n))⟩
  · refine ⟨0, .inl rfl, ?_⟩
    have := State.changeCauses_joins (s := s.setTrack (s.track.report n)) (b := 0)
    rw [or_zero_byte] at this
    exact this

theorem dischargeAll_joins (l : List Nest) : ∃ b, (b = 0 ∨ b = 0x80) ∧ s.joins b (dischargeAll l s) := by
  induction l generalizing s with
  | nil => exact ⟨0, .inl rfl, s.joins_refl⟩
  | cons n rest ih =>
    obtain ⟨b, hb, j⟩ := s.discharge_joins n
    obtain ⟨c, hc, k⟩ := ih (s := s.discharge n)
    refine ⟨b ||| c, ?_, State.joins_trans j k⟩
    rcases hb with rfl | rfl <;> rcases hc with rfl | rfl <;> decide

/-! ### TRACK-STOP (R4, R93) -/

theorem Nest.purge_eq (decided : Bool) (n : Nest) : n.purge decided = n.purgedAs decided := by
  have mask : RejectReason.purged.set = 0x40000 := by decide
  unfold Nest.purge Nest.purgedAs
  rw [mask]
  rfl

theorem HeadCtx.trackStop_of_none {x : HeadCtx} (h : x.head.cycle = none) : x.trackStop = x := by
  simp [HeadCtx.trackStop, h]

theorem HeadCtx.trackStop_of_some {x : HeadCtx} (h : x.head.cycle ≠ none) : x.trackStop = x.abnormal .halted .ready true :=
  if_pos (Option.isSome_iff_ne_none.2 h)

/-- What a TRACK-STOP makes the heads do outside themselves posts no cause. -/
theorem HeadCtx.trackStop_causes (h : Fin 16) : effectsCauses ((s.ctx h).trackStop).out = 0 := by
  by_cases c : (s.head h).cycle = none
  · rw [HeadCtx.trackStop_of_none c]; rfl
  · rw [HeadCtx.trackStop_of_some c, HeadCtx.abnormal_out, HeadCtx.writeEnd_eq]
    exact Head.endEffects_causes h _ _

theorem effectsCauses_flatMap {f : Fin 16 → HeadCtx → HeadCtx} (h : ∀ h, effectsCauses (f h (s.ctx h)).out = 0) (hs : List (Fin 16)) :
    effectsCauses (s.effectsOf f hs) = 0 := by
  induction hs with
  | nil => rfl
  | cons i rest ih =>
    have : s.effectsOf f (i :: rest) = (f i (s.ctx i)).out ++ s.effectsOf f rest := rfl
    rw [this, effectsCauses_append, h, ih]; rfl

/-- Writes to an empty track do nothing. -/
theorem HeadEffect.foldl_onTrack_empty (l : List HeadEffect) {t : Track} (h : ∀ o ∈ t.slots, o = none) :
    l.foldl (fun t e => e.onTrack t) t = t := by
  have one (serial : Nat) (f : Nest → Nest) : t.updateNest serial f = t := by
    have slots : t.slots.map (Option.map fun n => if n.serial = serial then f n else n) = t.slots :=
      (List.map_congr_left fun o ho => by rw [h o ho]; rfl).trans (List.map_id _)
    rw [Track.updateNest, slots]
  induction l with
  | nil => rfl
  | cons e l ih =>
    have : e.onTrack t = t := by
      cases e with
      | result | reasons => exact one _ _
      | cause => rfl
    rw [List.foldl_cons, this, ih]

/-- A cycle that ends toward READY does not enter SAFE, and one outside SAFE does not leave it. -/
theorem HeadCtx.abnormal_ready_state (x : HeadCtx) (reason : EndReason) (p : Bool) :
    (x.abnormal reason .ready p).head.state ≠ .safe := by
  simp only [HeadCtx.abnormal]
  split
  · simp [Head.enterDest, Head.enterReady, Head.rest]
  · have rest (now : Nat) (x : Head) : (x.virtualOpen now).state = x.state := by
      unfold Head.virtualOpen; (repeat' split) <;> rfl
    simp only [HeadCtx.beginRelease]
    split
    · simp [HeadCtx.confirm, Head.enterReady, Head.rest]
    · simp [rest, Head.restFor, Head.rest]

theorem HeadCtx.trackStop_calm (out : s.cyclesOutsideSafe) (h : Fin 16) :
    (s.ctx h).trackStop.head.state = .safe ↔ (s.head h).state = .safe := by
  by_cases c : (s.head h).cycle = none
  · rw [HeadCtx.trackStop_of_none c]; rfl
  · rw [HeadCtx.trackStop_of_some c]
    exact ⟨fun e => absurd e (HeadCtx.abnormal_ready_state _ _ _), fun e => absurd (out h e) c⟩

/-- The track after the nests are discharged and before the heads act: empty and HALTED. -/
def State.stopped (s : State) : State :=
  let purged := s.track.nests.map fun n => n.purgedAs (s.gate.decided n.serial)
  let s1 := dischargeAll purged (s.setTrack { s.track with stallTimer := none })
  s1.setTrack { s1.track with slots := List.replicate s1.track.config.length none, mode := .halted }

theorem State.stopped_rest (s : State) :
    s.stopped.now = s.now ∧ s.stopped.link = s.link ∧ s.stopped.library = s.library ∧ s.stopped.heads = s.heads ∧
    s.stopped.statuses = s.statuses ∧ s.stopped.store = s.store ∧ s.stopped.lines = s.lines := by
  simp [State.stopped]

theorem State.stopTrack_eq :
    s.stopTrack = (s.stopped.actHeads (fun _ => HeadCtx.trackStop) allHeads).setGate s.gate.abandon := by
  simp only [State.stopTrack, Nest.purge_eq, State.stopped, State.actHeads_gate, State.setTrack_gate, dischargeAll_gate]

/-- The track while the heads act: empty and HALTED, the reports made. -/
theorem State.stopped_track (s : State) :
    { s.stopped.track with outcomes := s.track.outcomes, lost := s.track.lost } =
      { s.track with mode := .halted, stallTimer := none, slots := List.replicate s.track.config.length none } := by
  have key (u : Track) (e : { u with outcomes := s.track.outcomes, lost := s.track.lost } = { s.track with stallTimer := none }) :
      { u with
        slots := List.replicate u.config.length none, mode := .halted
        outcomes := s.track.outcomes, lost := s.track.lost } =
      { s.track with mode := .halted, stallTimer := none, slots := List.replicate s.track.config.length none } :=
    congrArg (fun w : Track => { w with mode := .halted, slots := List.replicate w.config.length none }) e
  have stopped := key _ (dischargeAll_eq (s.track.nests.map fun n => n.purgedAs (s.gate.decided n.serial))
    (s.setTrack { s.track with stallTimer := none })).1
  exact stopped

/-- A TRACK-STOP outside HALTED (R4, R93, R146). -/
theorem State.stopTrack_spec :
    let t := s.stopTrack
    { t.track with outcomes := s.track.outcomes, lost := s.track.lost } =
      { s.track with mode := .halted, stallTimer := none, slots := List.replicate s.track.config.length none } ∧
    s.discharged (s.track.nests.map fun n => n.purgedAs (s.gate.decided n.serial)) t ∧
    s.trackStatus.holds t.trackStatus ∧
    (s.cyclesOutsideSafe → t.causes.getLsbD 6 = s.causes.getLsbD 6 ∧ s.holdFollows t) ∧
    t.gate = s.gate.abandon ∧
    (∀ h, ((s.head h).cycle = none → t.head h = s.head h ∧ t.status h = s.status h) ∧
      ((s.head h).cycle ≠ none → s.headEnded h .halted .ready true t)) ∧
    t.link = s.link ∧ t.library = s.library ∧ t.store = s.store ∧ t.lines = s.lines ∧ t.now = s.now := by
  intro t
  have ht : t = _ := s.stopTrack_eq
  have empty : ∀ o ∈ s.stopped.track.slots, o = none := fun o ho => List.eq_of_mem_replicate ho
  obtain ⟨-, ⟨d1, d2, d3⟩, dg, dc, -⟩ := dischargeAll_eq (s.track.nests.map fun n => n.purgedAs (s.gate.decided n.serial))
    (s.setTrack { s.track with stallTimer := none })
  obtain ⟨b, hb, before⟩ : ∃ b, (b = 0 ∨ b = 0x80) ∧ s.joins b s.stopped :=
    dischargeAll_joins (s := s.setTrack { s.track with stallTimer := none }) _
  have before_track := s.stopped_track
  have before_discharged : s.discharged (s.track.nests.map fun n => n.purgedAs (s.gate.decided n.serial)) s.stopped := ⟨d1, d2, d3⟩
  obtain ⟨k1, k2, k3, k4, k5, k6, k7⟩ := s.stopped_rest
  have head_eq (h : Fin 16) : s.stopped.head h = s.head h := congrArg (fun b : Bank Head => b.get h) k4
  have ctx (h : Fin 16) : s.stopped.ctx h = s.ctx h :=
    State.ctx_eq k1 k7 (head_eq h) (congrArg (fun b : Bank HeadStatus => b.get h) k5)
  have status_before : s.trackStatus.holds s.stopped.trackStatus := ⟨dg, dc⟩
  clear d1 d2 d3 dg dc
  generalize s.stopped = u at *
  have heads := fun h => State.actHeads_all (s := u) (fun _ => HeadCtx.trackStop) h
  have track := State.actHeads_track (s := u) (fun _ => HeadCtx.trackStop) allHeads allHeads_nodup
  obtain ⟨causes, status⟩ := State.actHeads_causes (s := u) (fun _ => HeadCtx.trackStop) allHeads allHeads_nodup
  obtain ⟨r1, r2, r3, -, r5, r6, -⟩ := State.actHeads_rest (s := u) (fun _ => HeadCtx.trackStop) allHeads
  have calm (out : s.cyclesOutsideSafe) : u.joins (effectsCauses (u.effectsOf (fun _ => HeadCtx.trackStop) allHeads))
      (u.actHeads (fun _ => HeadCtx.trackStop) allHeads) :=
    State.actHeads_joins _ _ allHeads_nodup fun h _ =>
      HeadCtx.trackStop_calm (s := u) (fun h' e => by rw [head_eq] at e ⊢; exact out h' e) h
  rw [effectsCauses_flatMap (fun h => HeadCtx.trackStop_causes h)] at causes calm
  rw [or_zero_byte] at causes
  rw [HeadEffect.foldl_onTrack_empty _ empty] at track
  simp only [ctx] at heads
  generalize u.actHeads (fun _ => HeadCtx.trackStop) allHeads = v at *
  clear_value t
  subst ht
  refine ⟨?_, ⟨?_, ?_, ?_⟩, ?_, fun out => ?_, rfl, fun h => ⟨fun c => ?_, fun c => ?_⟩, ?_, ?_, ?_, ?_, ?_⟩
  · rw [← before_track, ← track]; rfl
  · rw [← before_discharged.1, ← track]; rfl
  · rw [← before_discharged.2.1, ← track]; rfl
  · exact causes.trans before_discharged.2.2
  · exact TrackStatus.holds_trans status_before status
  · have both : s.joins (b ||| 0) (v.setGate s.gate.abandon) := State.joins_trans before (calm out)
    refine ⟨?_, both.2.2.1⟩
    rw [both.1]
    rcases hb with rfl | rfl <;> simp
  · have e := heads h
    rw [HeadCtx.trackStop_of_none c] at e
    exact e
  · have e := heads h
    rw [HeadCtx.trackStop_of_some c] at e
    exact HeadCtx.abnormal_headEnded e.1 e.2
  · exact r2.trans k2
  · exact r3.trans k3
  · exact r5.trans k6
  · exact r6.trans k7
  · exact r1.trans k1

theorem Store.isLoading_iff (t : Store) : t.isLoading = true ↔ ∃ l, t.op = .loading l := by
  unfold Store.isLoading
  split <;> simp [*]

end Sys2Proof.Machine

open Sys2Proof Sys2Proof.Machine

/-- Settles O17, by the refusals in their order. -/
theorem trackStartAndStop : Obligations.TrackStartAndStop := by
  intro s tag now
  refine ⟨fun flags => ⟨fun mode => ?_, fun mode loading => ?_, fun mode loaded => ?_⟩, fun mode => ?_, fun mode => ?_⟩
  · exact exec_answered (.trackStart tag flags) now s (.refuse .wrongMode 0) (if_pos mode)
  · exact exec_answered (.trackStart tag flags) now s (.refuse .notLoaded 0)
      ((if_neg (not_not.2 mode)).trans (if_pos ((Store.isLoading_iff _).2 loading)))
  · exact exec_answered (.trackStart tag flags) now (s.setTrack { s.track with mode := startMode flags }) (.ok [])
      ((if_neg (not_not.2 mode)).trans (if_neg fun l => by
        obtain ⟨j, e⟩ := (Store.isLoading_iff _).1 l
        exact loaded j e))
  · exact exec_answered (.trackStop tag) now s (.refuse .wrongMode 1) (if_pos mode)
  · have act : requestAct (.trackStop tag) s = (s.stopTrack, some (.ok (u8 s.track.nests.length))) := if_neg mode
    obtain ⟨track, discharged, ⟨⟨enable, changed, owed⟩, mask⟩, calm, gate, heads, link, k2, k3, k4, k5⟩ := s.stopTrack_spec
    have e := exec_answered (.trackStop tag) now _ _ act
    generalize s.stopTrack = t at *
    refine ⟨_, e, track, discharged, enable, mask, owed, calm, gate, heads, ?_, k2, k3, k4, k5⟩
    rw [← link]; rfl
end

