-- ==== Sys2Proof/Proofs/HeadEnds.lean ====
section
/-! PROOFS. Requests and limits that end a cycle, stop a head or lead it out of SAFE (R70, R79, R83 to R91). -/

namespace Sys2Proof.Machine

variable {s : State} {h : Fin 16}

/-! ### Acts of a head by what they write outside it -/

/-- An act that writes nothing outside its head leaves the track, and posts no cause. -/
theorem State.actHead_silent {f : HeadCtx → HeadCtx} (o : (f (s.ctx h)).out = []) :
    s.onlyHead h (s.actHead h f) ∧ (s.actHead h f).track = s.track :=
  ⟨s.actHead_onlyHead h f (by rw [o]; intro e m; cases m) (by rw [o]; rfl), by rw [State.actHead_track, o]; rfl⟩

/-- An act that changes neither record of its head and writes nothing changes nothing. -/
theorem State.actHead_unmoved {f : HeadCtx → HeadCtx} (e : f (s.ctx h) = s.ctx h) : s.actHead h f = s := by
  rw [s.actHead_quiet h f (by rw [e]; rfl) (by rw [e]; rfl), e]
  exact (s.withHead_status_same h (s.head h)).trans (State.putHead_same h)

/-- A cause posted moves no nest and no pack. -/
theorem applyEffects_cause_track (l : List HeadEffect) (c : Cause) :
    (applyEffects (l ++ [.cause c]) s).track = (applyEffects l s).track := by
  rw [applyEffects_track, applyEffects_track, List.foldl_append]; rfl

/-- The writes of an end on the track of the state before it, whatever the head's records have become. -/
theorem State.endWritten_of {t : State} {reason : EndReason} {x : Head}
    (ht : t.track = (applyEffects (x.endEffects h reason) s).track) : s.endWritten h reason x t :=
  (State.applyEnd h reason x s).2 rfl ht

/-- The track after effects depends on the track before them alone. -/
theorem applyEffects_track_congr {t : State} (l : List HeadEffect) (e : t.track = s.track) :
    (applyEffects l t).track = (applyEffects l s).track := by
  rw [applyEffects_track, applyEffects_track, e]

/-! ### Expiries of a head (log entry 2) -/

theorem State.expireHead_eq {due : Option Nat} {n : Nat} (f : HeadCtx → HeadCtx) (e : due = some n) :
    s.expireHead h due f = (s.setNow (max s.now n)).actHead h f := by
  subst e; rfl

theorem Head.startDue_of {x : Head} {source : StartSource} {due : Nat} (h1 : x.state = .pending) (h2 : x.params.source = source)
    (h3 : x.startTimer = some due) : x.startDue source = some due :=
  Head.startDue_eq_some.2 ⟨h1, h2, h3⟩

theorem Head.segmentDue_of {x : Head} {kinds : List SegKind} {r : Run} {g : Segment} (h1 : x.run? = some r)
    (h2 : r.segments[r.current]? = some g) (h3 : g.kind ∈ kinds) : x.segmentDue kinds = some r.segDue :=
  Head.segmentDue_eq_some.2 ⟨r, g, h1, h2, h3, rfl⟩

theorem Head.run?_eq_some {x : Head} {r : Run} (e : x.run? = some r) : x.cycle.isSome = true := by
  rcases hc : x.cycle with _ | c
  · rw [Head.run?, hc] at e; cases e
  · rfl

/-! ### HEAD-OFFLINE (R70, R122) -/

theorem Head.endEffects_of_no_cycle {reason : EndReason} {x : Head} (e : x.cycle = none) : x.endEffects h reason = [] := by
  simp only [Head.endEffects, e]

/-- The steps of an end that HEAD-OFFLINE takes first, where a cycle is present. -/
def HeadCtx.haltCycle (x : HeadCtx) : HeadCtx :=
  if x.head.cycle.isSome then x.finish .halted true else x

theorem HeadCtx.haltCycle_none {x : HeadCtx} (e : x.head.cycle = none) : x.haltCycle = x := by
  simp [HeadCtx.haltCycle, e]

theorem HeadCtx.haltCycle_some {x : HeadCtx} (e : x.head.cycle ≠ none) : x.haltCycle = x.finish .halted true :=
  if_pos (Option.isSome_iff_ne_none.2 e)

/-- A head as HEAD-OFFLINE leaves it, its counters and parameters aside (R70, R72, R96, R106, R122). -/
def Head.offlined (now : Nat) (x : Head) : Head :=
  Head.rest now .offline 0
    { x.dropCycle with
      packRef := none
      release := none
      closeOut := false
      platen := x.platen.retract
      virtual := none
      monitor := x.monitor.stop }

theorem HeadCtx.offline_eq {x : HeadCtx} (e : x.head.state ≠ .offline) :
    x.offline = x.haltCycle.mapHead (Head.offlined x.now) :=
  if_neg e

theorem HeadCtx.offline_of_offline {x : HeadCtx} (e : x.head.state = .offline) : x.offline = x :=
  if_pos e

theorem HeadCtx.offline_out {x : HeadCtx} (e : x.head.state ≠ .offline) (o : x.out = []) :
    x.offline.out = x.head.endEffects x.id .halted := by
  rw [HeadCtx.offline_eq e, HeadCtx.mapHead_out]
  by_cases c : x.head.cycle = none
  · rw [HeadCtx.haltCycle_none c, o, Head.endEffects_of_no_cycle c]
  · rw [HeadCtx.haltCycle_some c, HeadCtx.finish_out, HeadCtx.writeEnd_eq, o]; rfl

/-- What HEAD-OFFLINE keeps of a head does not depend on the cycle it ends; the failed counter does. -/
theorem HeadCtx.offline_head {x : HeadCtx} (e : x.head.state ≠ .offline) :
    x.offline.head =
      { x.head.offlined x.now with
        counters := if x.head.cycle = none then x.head.counters
          else { x.head.counters with failed := min 65535 (x.head.counters.failed + 1) } } := by
  rw [HeadCtx.offline_eq e, HeadCtx.mapHead_head]
  by_cases c : x.head.cycle = none
  · rw [HeadCtx.haltCycle_none c, if_pos c]; rfl
  · rw [HeadCtx.haltCycle_some c, HeadCtx.finish_head, if_neg c]; rfl

theorem HeadCtx.offline_status {x : HeadCtx} (e : x.head.state ≠ .offline) :
    x.offline.status =
      if x.head.cycle = none then x.status else x.status.post (.primary (x.head.endedRecord x.id .halted)) := by
  rw [HeadCtx.offline_eq e, HeadCtx.mapHead_status]
  by_cases c : x.head.cycle = none
  · rw [HeadCtx.haltCycle_none c, if_pos c]
  · rw [HeadCtx.haltCycle_some c, HeadCtx.finish_status, HeadCtx.endRecord_eq, if_neg c]; rfl

theorem Monitor.stop_eq (m : Monitor) :
    m.stop = { sampleTimer := none, lowRun := 0, nonLowRun := 0, highRun := 0, nonHighRun := 0, live := m.live &&& 0xF0,
               ready := m.ready, inject := 0 } := by
  have mask : ~~~monitoredConds = (0xF0 : Byte) := by decide
  rw [Monitor.stop, mask]

/-! ### Ends of a cycle (R82, R83) -/

/-- A release phase that owes no SECONDARY posts no status, confirmed in the act of its beginning or not (R84, R85). -/
theorem HeadCtx.beginRelease_status_unowed (x : HeadCtx) (dest : ReleaseDest) : (x.beginRelease dest false).status = x.status := by
  simp only [HeadCtx.beginRelease]
  split
  · exact HeadCtx.confirm_status _ _
  · rfl

/-- No status is posted by an end without a PRIMARY (R83, R90). -/
theorem HeadCtx.abnormal_status_unposted (x : HeadCtx) (reason : EndReason) (dest : ReleaseDest) :
    (x.abnormal reason dest false).status = x.status := by
  have fin : (x.finish reason false).status = x.status := HeadCtx.finish_status x reason false
  simp only [HeadCtx.abnormal]
  split
  · exact fin
  · rw [HeadCtx.beginRelease_status_unowed]; exact fin

/-! ### The open limits (R79, R85) -/

theorem HeadCtx.openLate_eq {x : HeadCtx} (e : x.head.state = .running) (c : x.head.cycle.isSome = true) :
    x.openLate = (x.abnormal .openLate .safe true).emit (.cause .platenStuck) := by
  rw [HeadCtx.openLate, HeadCtx.enterSafe, if_neg (by rw [e]; decide), if_pos c]

/-- The end of a cycle whose OPEN has not arrived, as one act, with its cause (R79). -/
theorem State.actHead_openLate (e : (s.head h).state = .running) (c : (s.head h).cycle.isSome = true) :
    s.endedAbnormally h .openLate .safe true (s.actHead h HeadCtx.openLate) := by
  have eq : HeadCtx.openLate (s.ctx h) = ((s.ctx h).abnormal .openLate .safe true).emit (.cause .platenStuck) :=
    HeadCtx.openLate_eq e c
  have o : (HeadCtx.openLate (s.ctx h)).out = (s.head h).endEffects h .openLate ++ [.cause .platenStuck] := by
    rw [eq, HeadCtx.emit_out, HeadCtx.abnormal_out, HeadCtx.writeEnd_eq]; rfl
  have causes : effectsCauses (HeadCtx.openLate (s.ctx h)).out = 0x04 := by
    rw [o, effectsCauses_append, Head.endEffects_causes]; decide
  refine ⟨?_, HeadCtx.abnormal_headEnded (by rw [State.actHead_head_self, eq]; rfl)
    (by rw [State.actHead_status_self, eq]; rfl), State.endWritten_of ?_⟩
  · rw [if_pos rfl, ← causes]
    refine s.actHead_posting h _ fun e m => ?_
    rw [o, List.mem_append, List.mem_singleton] at m
    rcases m with m | rfl
    · exact Head.endEffects_within h .openLate _ e m
    · rfl
  · rw [State.actHead_track, o, applyEffects_cause_track]
    exact applyEffects_track_congr _ rfl

/-- A posted cause other than HEAD_SAFE is present. -/
theorem State.headPosts.getLsbD {posted : Byte} {t : State} (p : s.headPosts posted h t) {i : Nat}
    (hi : posted.getLsbD i = true) (n : i ≠ 6) : t.causes.getLsbD i = true := by
  have bound : i < 8 := BitVec.lt_of_getLsbD hi
  obtain ⟨same, other⟩ := p
  by_cases c : (t.head h).state = .safe ↔ (s.head h).state = .safe
  · rw [same c]; simp [hi]
  · have e := congrArg (BitVec.getLsbD · i) (other c).1
    have mask : (0xBF : Byte).getLsbD i = true := by
      have others : ∀ j < 8, j ≠ 6 → (0xBF : Byte).getLsbD j = true := by decide
      exact others i bound n
    simpa only [BitVec.getLsbD_and, BitVec.getLsbD_or, mask, hi, Bool.and_true, Bool.or_true] using e

/-! ### The way to HEATING of a head without a cycle (R69, R84, R85) -/

theorem Head.enterHeating_restsIn (x : Head) (now : Nat) : (x.enterHeating now).restsIn .heating := by
  by_cases e : x.params.standby = 0 <;> simp [Head.enterHeating, Head.rest, Head.restsIn, e]

theorem Head.enterHeating_state (x : Head) (now : Nat) : (x.enterHeating now).state ≠ .safe := by
  by_cases e : x.params.standby = 0 <;> simp [Head.enterHeating, Head.rest, e]

/-- A release phase toward HEATING that waits for its confirmation. -/
theorem HeadCtx.beginRelease_heating {owed : Bool} (w : s.releaseWaits h) :
    let y := ((s.ctx h).beginRelease .heating owed).head
    y.restsIn .releasing ∧ y.platen = (s.head h).platen.retract ∧ y.virtual = (s.head h).virtualAtOpening s.now ∧
      y.release = some ⟨s.now + (s.head h).params.openLimit, .heating, owed⟩ := by
  rw [HeadCtx.beginRelease_waits (s.ctx h) _ _ w]
  simp only [HeadCtx.mapHead_head, Head.virtualOpen_eq]
  exact ⟨⟨rfl, rfl, rfl, nofun⟩, rfl, Head.virtualAtOpening_congr rfl rfl _, rfl⟩

theorem HeadCtx.beginRelease_heating_state (x : HeadCtx) (owed : Bool) :
    (x.beginRelease .heating owed).head.state ≠ .safe := by
  simp only [HeadCtx.beginRelease]
  split
  · rw [HeadCtx.confirm_head]
    exact Head.enterHeating_state _ _
  · rw [HeadCtx.mapHead_head, Head.virtualOpen_eq]; exact nofun

/-! ### HEAD-RELEASE (R88) -/

theorem HeadCtx.releaseSafe_release {x : HeadCtx} {r : Release} (e : x.head.release = some r) :
    x.releaseSafe = x.mapHead fun h => Head.restFor x.now .heating { h with release := some { r with dest := .heating } } := by
  simp only [HeadCtx.releaseSafe, e]

theorem HeadCtx.releaseSafe_opened {x : HeadCtx} (e : x.head.release = none) (p : x.head.platen = .opened) :
    x.releaseSafe = x.mapHead (Head.enterHeating x.now) := by
  simp only [HeadCtx.releaseSafe, e]; exact if_pos p

theorem HeadCtx.releaseSafe_begins {x : HeadCtx} (e : x.head.release = none) (p : x.head.platen ≠ .opened) :
    x.releaseSafe = x.beginRelease .heating false := by
  simp only [HeadCtx.releaseSafe, e]; exact if_neg p

/-- HEAD-RELEASE writes nothing outside the head, posts no status, and leads out of SAFE. -/
theorem HeadCtx.releaseSafe_rest (x : HeadCtx) :
    x.releaseSafe.out = x.out ∧ x.releaseSafe.status = x.status ∧ x.releaseSafe.head.state ≠ .safe := by
  rcases e : x.head.release with _ | r
  · by_cases p : x.head.platen = .opened
    · rw [HeadCtx.releaseSafe_opened e p]
      exact ⟨rfl, rfl, Head.enterHeating_state _ _⟩
    · rw [HeadCtx.releaseSafe_begins e p]
      exact ⟨HeadCtx.beginRelease_out .., HeadCtx.beginRelease_status_unowed .., HeadCtx.beginRelease_heating_state x false⟩
  · rw [HeadCtx.releaseSafe_release e]
    exact ⟨rfl, rfl, nofun⟩

/-- HEAD_SAFE is absent once the head has left SAFE and no other head with hold-on-safe is in it (R19). -/
theorem State.headPosts.headSafe_leaves {posted : Byte} {t : State} (p : s.headPosts posted h t) (before : (s.head h).state = .safe)
    (after : (t.head h).state ≠ .safe) (others : ∀ h' ≠ h, t.head h' = s.head h')
    (none : ∀ h' ≠ h, ¬((s.head h').params.holdOnSafe = true ∧ (s.head h').state = .safe)) : t.causes.getLsbD 6 = false := by
  have present := (p.2 fun same => after (same.2 before)).2
  refine Bool.eq_false_iff.2 fun c => ?_
  obtain ⟨h', hold, safe⟩ := present.1 c
  by_cases ne : h' = h
  · exact after (ne ▸ safe)
  · rw [others h' ne] at hold safe
    exact none h' ne ⟨hold, safe⟩

/-! ### HEAD-CLEAR (R91, R157) -/

/-- What HEAD-CLEAR does before it clears the injection count and the status record (R91). -/
def HeadCtx.clearedWay (x : HeadCtx) : HeadCtx :=
  if x.head.cycle.isSome then x.abnormal .halted .heating false
  else if x.head.state = .safe then x
  else
    match x.head.release with
    | some r => x.mapHead fun h => { h with release := some { r with dest := .heating, secondaryOwed := false } }
    | none => if x.head.platen = .opened then x.mapHead (Head.enterHeating x.now) else x.beginRelease .heating false

theorem HeadCtx.clear_eq (x : HeadCtx) :
    x.clear =
      { x.clearedWay with
        head := { x.clearedWay.head with monitor := { x.clearedWay.head.monitor with inject := 0 } }
        status := x.clearedWay.status.discard } :=
  rfl

theorem HeadCtx.clearedWay_cycle {x : HeadCtx} (e : x.head.cycle ≠ none) :
    x.clearedWay = x.abnormal .halted .heating false :=
  if_pos (Option.isSome_iff_ne_none.2 e)

theorem HeadCtx.clearedWay_safe {x : HeadCtx} (e : x.head.cycle = none) (st : x.head.state = .safe) : x.clearedWay = x := by
  simp [HeadCtx.clearedWay, e, st]

theorem HeadCtx.clearedWay_release {x : HeadCtx} {r : Release} (e : x.head.cycle = none) (st : x.head.state ≠ .safe)
    (p : x.head.release = some r) :
    x.clearedWay = x.mapHead fun h => { h with release := some { r with dest := .heating, secondaryOwed := false } } := by
  simp [HeadCtx.clearedWay, e, st, p]

theorem HeadCtx.clearedWay_opened {x : HeadCtx} (e : x.head.cycle = none) (st : x.head.state ≠ .safe)
    (p : x.head.release = none) (o : x.head.platen = .opened) : x.clearedWay = x.mapHead (Head.enterHeating x.now) := by
  simp [HeadCtx.clearedWay, e, st, p, o]

theorem HeadCtx.clearedWay_begins {x : HeadCtx} (e : x.head.cycle = none) (st : x.head.state ≠ .safe)
    (p : x.head.release = none) (o : x.head.platen ≠ .opened) : x.clearedWay = x.beginRelease .heating false := by
  simp [HeadCtx.clearedWay, e, st, p, o]

theorem HeadCtx.beginRelease_live (x : HeadCtx) (dest : ReleaseDest) (owed : Bool) :
    (x.beginRelease dest owed).head.monitor.live = x.head.monitor.live := by
  have begun (y : Head) : (Head.virtualOpen x.now (Head.restFor x.now dest y)).monitor.live = y.monitor.live := by
    rw [Head.virtualOpen_eq]; cases dest <;> rfl
  simp only [HeadCtx.beginRelease]
  split
  · rw [HeadCtx.confirm_head]
    cases dest <;> exact begun _
  · exact begun _

theorem HeadCtx.abnormal_live (x : HeadCtx) (reason : EndReason) (dest : ReleaseDest) (primary : Bool) :
    (x.abnormal reason dest primary).head.monitor.live = x.head.monitor.live := by
  have fin : (x.finish reason primary).head.monitor.live = x.head.monitor.live := by rw [HeadCtx.finish_head]; rfl
  simp only [HeadCtx.abnormal]
  split
  · rw [← fin]; cases dest <;> rfl
  · rw [HeadCtx.beginRelease_live]; exact fin

/-- What HEAD-CLEAR writes outside the head is what the end of its cycle writes; no condition changes (R91). -/
theorem HeadCtx.clearedWay_rest {x : HeadCtx} (o : x.out = []) :
    x.clearedWay.out = x.head.endEffects x.id .halted ∧ x.clearedWay.head.monitor.live = x.head.monitor.live ∧
      x.clearedWay.status.enable = x.status.enable := by
  by_cases c : x.head.cycle = none
  · rw [Head.endEffects_of_no_cycle c, ← o]
    by_cases st : x.head.state = .safe
    · rw [HeadCtx.clearedWay_safe c st]; exact ⟨rfl, rfl, rfl⟩
    · rcases p : x.head.release with _ | r
      · by_cases pl : x.head.platen = .opened
        · rw [HeadCtx.clearedWay_opened c st p pl]; exact ⟨rfl, rfl, rfl⟩
        · rw [HeadCtx.clearedWay_begins c st p pl]
          exact ⟨HeadCtx.beginRelease_out .., HeadCtx.beginRelease_live .., by rw [HeadCtx.beginRelease_status_unowed]⟩
      · rw [HeadCtx.clearedWay_release c st p]; exact ⟨rfl, rfl, rfl⟩
  · rw [HeadCtx.clearedWay_cycle c, HeadCtx.abnormal_out, HeadCtx.writeEnd_eq, o, HeadCtx.abnormal_live,
      HeadCtx.abnormal_status_unposted]
    exact ⟨rfl, rfl, rfl⟩

/-- The end of a cycle by HEAD-CLEAR, whose injection count and status record go as well (R83, R91). -/
theorem State.actHead_clear_ends (c : (s.head h).cycle ≠ none) :
    s.endedAbnormally h .halted .heating false (s.actHead h HeadCtx.clear) := by
  have o : (HeadCtx.clear (s.ctx h)).out = (s.head h).endEffects h .halted := (HeadCtx.clearedWay_rest rfl).1
  have eq : (HeadCtx.clear (s.ctx h)).head =
      { ((s.ctx h).abnormal .halted .heating false).head with
        monitor := { ((s.ctx h).abnormal .halted .heating false).head.monitor with inject := 0 } } := by
    rw [HeadCtx.clear_eq, HeadCtx.clearedWay_cycle c]
  obtain ⟨-, ended, -⟩ := s.actHead_ends h (reason := .halted) (by decide) .heating false
  refine ⟨s.actHead_onlyHead h _ (by rw [o]; exact Head.endEffects_within h _ _) (by rw [o]; exact Head.endEffects_causes h _ _),
    ?_, State.endWritten_of ?_⟩
  · unfold State.headEnded at ended ⊢
    rw [State.actHead_head_self] at ended ⊢
    rw [eq]
    obtain ⟨gone, params, coeffs, counters, held, -, opened, waits, confirmed, -, -⟩ := ended
    exact ⟨gone, params, coeffs, counters, held, fun n => absurd rfl n, opened, waits, confirmed, nofun, nofun⟩
  · rw [State.actHead_track, o]
    exact applyEffects_track_congr _ rfl

end Sys2Proof.Machine

open Sys2Proof Sys2Proof.Machine

/-- Settles O29: by whether the head is OFFLINE, and by whether there is a cycle to end (`HeadCtx.offline_head`). -/
theorem headOfflineStopsHead : Obligations.HeadOfflineStopsHead := by
  unfold Obligations.HeadOfflineStopsHead
  intro s tag b h now e
  have act : requestAct (.headOffline tag b) s = (s.actHead h HeadCtx.offline, some (.ok [])) := by
    simp only [requestAct, actHeadOffline, headOf_eq e]; rfl
  refine ⟨fun off => ?_, fun on => ?_⟩
  · rw [State.actHead_unmoved (HeadCtx.offline_of_offline off)] at act
    exact exec_answered (.headOffline tag b) now s (.ok []) act
  · have o : (HeadCtx.offline (s.ctx h)).out = (s.head h).endEffects h .halted := HeadCtx.offline_out on rfl
    have head : (s.actHead h HeadCtx.offline).head h = _ := (s.actHead_head_self h _).trans (HeadCtx.offline_head on)
    have status : (s.actHead h HeadCtx.offline).status h = _ := (s.actHead_status_self h _).trans (HeadCtx.offline_status on)
    have track : (s.actHead h HeadCtx.offline).track = (applyEffects ((s.head h).endEffects h .halted) s).track := by
      rw [State.actHead_track, o]; exact applyEffects_track_congr _ rfl
    have done := exec_answered (.headOffline tag b) now _ (.ok []) act
    refine ⟨s.actHead h HeadCtx.offline, done,
      s.actHead_onlyHead h _ (by rw [o]; exact Head.endEffects_within h _ _) (by rw [o]; exact Head.endEffects_causes h _ _),
      ?_⟩
    rw [head, status]
    refine ⟨rfl, ⟨rfl, rfl, rfl, rfl, rfl⟩, rfl, rfl, rfl, rfl, rfl, rfl, rfl, rfl, Monitor.stop_eq _, rfl, rfl, rfl,
      fun c => ⟨if_pos c, if_pos c, ?_⟩, fun c => ⟨if_neg c, if_neg c, State.endWritten_of track⟩⟩
    rw [track, Head.endEffects_of_no_cycle c]; rfl

/-- Settles O30: each of the four ends the cycle by the same act (`State.actHead_ends`). -/
theorem abnormalEndsReturnHead : Obligations.AbnormalEndsReturnHead := by
  unfold Obligations.AbnormalEndsReturnHead
  intro s tag b h e
  refine ⟨fun now => ⟨fun n1 n2 => ?_, fun n => ?_, fun st => ?_, fun st => ?_⟩, fun due st source timer => ?_,
    fun r g st run seg close => ?_⟩
  · refine exec_answered (.headHalt tag b) now s (.refuse .wrongState 0) ?_
    simp only [requestAct, actHeadHalt, headOf_eq e]; exact if_neg (not_or.2 ⟨n1, n2⟩)
  · refine exec_answered (.headCancel tag b) now s (.refuse .wrongState 0) ?_
    simp only [requestAct, actHeadCancel, headOf_eq e]; exact if_neg n
  · have act : requestAct (.headHalt tag b) s = (s.actHead h (HeadCtx.abnormal .halted .ready true), some (.ok [])) := by
      simp only [requestAct, actHeadHalt, headOf_eq e]; exact if_pos st
    have done := exec_answered (.headHalt tag b) now _ (.ok []) act
    exact ⟨s.actHead h (HeadCtx.abnormal .halted .ready true), done, s.actHead_ends h (by decide) .ready true⟩
  · have act : requestAct (.headCancel tag b) s = (s.actHead h (HeadCtx.abnormal .cancelled .ready false), some (.ok [])) := by
      simp only [requestAct, actHeadCancel, headOf_eq e]; exact if_pos st
    have done := exec_answered (.headCancel tag b) now _ (.ok []) act
    exact ⟨s.actHead h (HeadCtx.abnormal .cancelled .ready false), done, s.actHead_ends h (by decide) .ready false,
      (s.actHead_status_self h _).trans ((s.ctx h).abnormal_status_unposted _ _)⟩
  · exact ⟨_, congrArg Host.Outcome.next (State.expireHead_eq _ (Head.startDue_of st source timer)),
      State.actHead_ends h (by decide) .ready true⟩
  · exact ⟨_, congrArg Host.Outcome.next (State.expireHead_eq _ (Head.segmentDue_of run seg (by simp [close]))),
      State.actHead_ends h (by decide) .ready true⟩

/-- Settles O31: the two limits post one cause, after the end of the cycle and after the end of the phase. -/
theorem openLimitsPostPlatenStuck : Obligations.OpenLimitsPostPlatenStuck := by
  unfold Obligations.OpenLimitsPostPlatenStuck
  intro s h
  refine ⟨fun r g st run seg kind => ?_, fun r rel => ?_⟩
  · have ended := State.actHead_openLate (s := s.setNow (max s.now r.segDue)) (h := h) st (Head.run?_eq_some run)
    refine ⟨_, congrArg Host.Outcome.next (State.expireHead_eq _ (Head.segmentDue_of run seg (by simp [kind]))), ?_, ended⟩
    obtain ⟨⟨-, -, -, -, posts, -⟩, -⟩ := ended
    exact posts.getLsbD (i := 2) rfl (by decide)
  · have due : (s.head h).release.map Release.due = some r.due := by rw [rel]; rfl
    have only := State.actHead_posting (s.setNow (max s.now r.due)) h HeadCtx.releaseExpiry (by
      intro e m
      obtain rfl := List.mem_singleton.1 m
      rfl)
    have causes : effectsCauses ((s.setNow (max s.now r.due)).ctx h).releaseExpiry.out = 0x04 := by
      show effectsCauses [.cause .platenStuck] = 0x04
      decide
    rw [causes] at only
    refine ⟨_, congrArg Host.Outcome.next (State.expireHead_eq _ due), ?_, only, ?_, ?_, ?_⟩
    · obtain ⟨-, -, -, -, posts, -⟩ := only
      exact posts.getLsbD (i := 2) rfl (by decide)
    · rw [State.actHead_track]
      exact applyEffects_cause_track [] .platenStuck
    · rw [State.actHead_status_self]; rfl
    · rw [State.actHead_head_self]
      exact ⟨Head.rest_restsIn _ _, rfl, rfl, rfl, rfl, rfl⟩

/-- Settles O32: HEAD-CLEAR is one of five ways (`HeadCtx.clearedWay`), and then clears the injection count and the record. -/
theorem headClearDiscardsStatus : Obligations.HeadClearDiscardsStatus := by
  unfold Obligations.HeadClearDiscardsStatus
  intro s tag b h now e
  refine ⟨fun off => ?_, fun on => ?_⟩
  · refine exec_answered (.headClear tag b) now s (.refuse .wrongState 1) ?_
    simp only [requestAct, actHeadClear, headOf_eq e]; exact if_pos off
  · have act : requestAct (.headClear tag b) s =
        (s.actHead h HeadCtx.clear, some (stateEntered h (s.actHead h HeadCtx.clear))) := by
      simp only [requestAct, actHeadClear, headOf_eq e]; exact if_neg on
    obtain ⟨o, live, enable⟩ := HeadCtx.clearedWay_rest (x := s.ctx h) rfl
    have only := s.actHead_onlyHead h HeadCtx.clear (fun e m => Head.endEffects_within h .halted (s.head h) e (o ▸ m))
      ((congrArg effectsCauses o).trans (Head.endEffects_causes h _ _))
    have head : (s.actHead h HeadCtx.clear).head h = _ := s.actHead_head_self h _
    have track : (s.head h).cycle = none → (s.actHead h HeadCtx.clear).track = s.track := fun c =>
      (s.actHead_silent (f := HeadCtx.clear) (o.trans (Head.endEffects_of_no_cycle c))).2
    have done := exec_answered (.headClear tag b) now _ _ act
    refine ⟨s.actHead h HeadCtx.clear, done, only, ?_, ?_, ?_, State.actHead_clear_ends, fun c st => ?_,
      fun c st r rel => ?_, fun c st rel => ⟨track c, fun pl => ?_, fun pl w => ?_⟩⟩
    · rw [State.actHead_status_self, HeadCtx.clear_eq]
      exact congrArg (HeadStatus.mk .empty none 0 · false) enable
    · rw [head]; rfl
    · rw [head]; exact live
    · have same : (s.actHead h HeadCtx.clear).head h =
          { s.head h with monitor := { (s.head h).monitor with inject := 0 } } := by
        rw [head, HeadCtx.clear_eq, HeadCtx.clearedWay_safe c st]; rfl
      obtain ⟨-, -, -, -, posts, -⟩ := only
      exact ⟨same, track c, (posts.1 (by rw [same])).trans (or_zero_byte _)⟩
    · rw [head, HeadCtx.clear_eq, HeadCtx.clearedWay_release c st rel]
      exact ⟨rfl, rfl, rfl, track c⟩
    · rw [head, HeadCtx.clear_eq, HeadCtx.clearedWay_opened c st rel pl]
      exact Head.enterHeating_restsIn (s.head h) s.now
    · obtain ⟨rests, -, virtual, release⟩ := HeadCtx.beginRelease_heating (owed := false) w
      rw [head, HeadCtx.clear_eq, HeadCtx.clearedWay_begins c st rel pl]
      exact ⟨rests, release, virtual⟩

/-- Settles O33: HEAD-RELEASE is one of three ways out of SAFE, none of which writes anything outside the head. -/
theorem headReleaseLeavesSafe : Obligations.HeadReleaseLeavesSafe := by
  unfold Obligations.HeadReleaseLeavesSafe
  intro s tag b h now e
  refine ⟨fun refused => ?_, fun free => ?_⟩
  · refine exec_answered (.headRelease tag b) now s (.refuse .wrongState 1) ?_
    simp only [requestAct, actHeadRelease, headOf_eq e]; exact if_pos refused
  · have act : requestAct (.headRelease tag b) s =
        (s.actHead h HeadCtx.releaseSafe, some (stateEntered h (s.actHead h HeadCtx.releaseSafe))) := by
      simp only [requestAct, actHeadRelease, headOf_eq e]; exact if_neg free
    have safe : (s.head h).state = .safe := not_not.1 (not_or.1 free).1
    obtain ⟨o, status, left⟩ := (s.ctx h).releaseSafe_rest
    obtain ⟨only, track⟩ := s.actHead_silent (h := h) (f := HeadCtx.releaseSafe) o
    have head : (s.actHead h HeadCtx.releaseSafe).head h = _ := s.actHead_head_self h _
    obtain ⟨-, others, -, -, posts, -⟩ := id only
    have done := exec_answered (.headRelease tag b) now _ _ act
    refine ⟨s.actHead h HeadCtx.releaseSafe, done, only, track, (s.actHead_status_self h _).trans status, ?_,
      fun none => posts.headSafe_leaves safe (by rw [head]; exact left) (fun h' ne => (others h' ne).1) none,
      fun r rel => ?_, fun rel pl => ?_, fun rel pl w => ?_⟩
    · rw [head]; exact HeadCtx.releaseSafe_head_params _
    · rw [head, HeadCtx.releaseSafe_release rel]
      exact ⟨⟨rfl, rfl, rfl, nofun⟩, rfl, rfl⟩
    · rw [head, HeadCtx.releaseSafe_opened rel pl]
      exact Head.enterHeating_restsIn _ _
    · obtain ⟨rests, platen, virtual, release⟩ := HeadCtx.beginRelease_heating (owed := false) w
      rw [head, HeadCtx.releaseSafe_begins rel pl]
      exact ⟨rests, platen, virtual, release⟩
end

