-- ==== Sys2Proof/Proofs/Queries.lean ====
section
/-! PROOFS. What the queries reply, byte by byte (R16, R17, R94, R181, R192, R196, R202). -/

namespace Sys2Proof.Machine

/-! ### Numbers and marks -/

/-- Four bytes, the high byte first (R192). -/
theorem u32_eq (n : Nat) : u32 n = fourBytes n := by
  rw [u32, fourBytes, u16_eq, u16_eq]

theorem mark_mul (b : Bool) (k : Nat) : (if b = true then k else 0) = mark b * k := by
  cases b <;> simp [mark]

theorem mark_isSome_mul {α : Type} (o : Option α) (k : Nat) : (if o = none then 0 else k) = mark o.isSome * k := by
  cases o <;> simp [mark]

/-- What is 0 where an optional field is absent, by the presence of the field. -/
theorem ite_eq_none {α β : Type} (o : Option α) (a b : β) : (if o = none then a else b) = if o.isSome = true then b else a := by
  cases o <;> simp

/-! ### Nest records (R196) -/

theorem resultBytes_eq (o : Option StationResult) : resultBytes o = StationResult.layout o := by
  rcases o with _ | r
  · rfl
  · have flags : marks (r.flags ++ [true]) =
        (if r.resealed then 1 else 0) + (if r.ceilingClamped then 2 else 0) + (if r.outputClamped then 4 else 0) +
          (if r.lowSeen then 8 else 0) + (if r.tainted then 16 else 0) + (if r.dose = none then 0 else 32) +
          (if r.closure = none then 0 else 64) + 128 := by
      have one : mark true = 1 := rfl
      simp only [mark_mul, mark_isSome_mul, StationResult.flags, List.cons_append, List.nil_append, marks, one]
      omega
    simp only [resultBytes, StationResult.layout, flags, u16_eq]
    rfl

theorem Pack.bytes_eq (lane : Fin 8) (p : Pack) : p.bytes lane.val = p.layout lane := by
  have diverted : BitVec.ofNat 8 (marks [p.diverted]) = if p.diverted then 1 else 0 := by
    cases p.diverted <;> rfl
  simp only [Pack.bytes, Pack.layout, resultBytes_eq, u32_eq, u8, diverted]
  cases p.verdict <;> rfl

/-- What each lane gives, lane 0 first. -/
theorem Lanes.flatten_mapIdx {α β : Type} (x : Lanes α) (f : Fin 8 → α → List β) :
    (x.mapIdx f).toList.flatten = allLanes.flatMap fun lane => f lane (x.get lane) := by
  simp only [List.flatMap, Lanes.toList, allLanes]
  rfl

theorem Nest.bytes_eq (n : Nest) : n.bytes = n.layout := by
  have flags : marks [n.noManifest, n.purged, n.confirm.isSome, n.reportsLost.isSome] =
      (if n.noManifest then 1 else 0) + (if n.purged then 2 else 0) + (if n.confirm = none then 0 else 4) +
        (if n.reportsLost = none then 0 else 8) := by
    simp only [mark_mul, mark_isSome_mul, marks]
    omega
  simp only [Nest.bytes, Nest.layout, flags, u16_eq, u32_eq, u8, Lanes.flatten_mapIdx, Pack.bytes_eq, orZero,
    List.append_assoc, List.cons_append, List.nil_append]

/-! ### TRACK-QUERY (R16) -/

theorem TrackConfig.bytes_eq (c : TrackConfig) :
    c.bytes =
      [BitVec.ofNat 8 c.length, match c.form with | none => 0xFF | some f => BitVec.ofNat 8 f, BitVec.ofNat 8 c.sealPos] ++
        twoBytes c.stallLimit ++
        [BitVec.ofNat 8 (c.threshold.getD 0), (if c.verdictRequired then 1 else 0) ||| (if c.manifestRequired then 2 else 0)] := by
  have flags : BitVec.ofNat 8 (marks [c.verdictRequired, c.manifestRequired]) =
      (if c.verdictRequired then 1 else 0) ||| (if c.manifestRequired then 2 else 0) := by
    cases c.verdictRequired <;> cases c.manifestRequired <;> rfl
  simp only [TrackConfig.bytes, u8, flags, u16_eq, orZero, List.append_assoc, List.cons_append, List.nil_append]
  cases c.form <;> rfl

theorem Track.serialAt_eq (t : Track) (p : Nat) :
    t.serialAt p = if p < t.config.length then (match t.nestAt p with | none => 0 | some n => n.serial) else 0 := by
  rw [Track.serialAt]
  cases t.nestAt p <;> rfl

theorem State.trackBytes_eq (s : State) : s.trackBytes = s.trackLayout := by
  have hold : BitVec.ofNat 8 (mark s.holdAsserted) = if s.causes = 0 then 0 else 1 := by
    by_cases e : s.causes = 0
    · rw [if_pos e, State.holdAsserted, e]; rfl
    · rw [if_neg e, State.holdAsserted, bne_iff_ne.2 e]; rfl
  simp only [State.trackBytes, State.trackLayout, TrackConfig.bytes_eq, Track.serialAt_eq, u16_eq, u32_eq, u8, hold,
    List.append_assoc, List.cons_append, List.nil_append] <;> rfl

/-! ### HEAD-QUERY (R94) -/

theorem HeadParams.bytes_eq (p : HeadParams) : p.bytes = p.layout := by
  have flags : BitVec.ofNat 8 (marks [p.lowExtended, p.autoReject, p.holdOnSafe]) =
      (if p.lowExtended then 1 else 0) ||| (if p.autoReject then 2 else 0) ||| (if p.holdOnSafe then 4 else 0) := by
    cases p.lowExtended <;> cases p.autoReject <;> cases p.holdOnSafe <;> rfl
  simp only [HeadParams.bytes, HeadParams.layout, u8, flags, u16_eq]
  rcases p.binding with _ | ⟨st, lane⟩ <;> rfl

theorem Head.cycleBytes_eq (x : Head) : x.cycleBytes = x.cycleLayout := by
  simp only [Head.cycleBytes, Head.cycleLayout, u8, u16_eq, orZero]
  rcases x.cycle with _ | ⟨origin, run⟩
  · rfl
  · cases origin <;> rcases x.packRef with _ | ref <;> rcases run with _ | r <;> rfl

/-- Five marks in one byte, bit 0 first. -/
theorem marks_five : ∀ a b c d e : Bool,
    BitVec.ofNat 8 (marks [a, b, c, d, e]) =
      (if a then 1 else 0) ||| (if b then 2 else 0) ||| (if c then 4 else 0) ||| ((if d then 8 else 0) ||| (if e then 16 else 0)) := by
  decide

theorem Head.queryMarks_eq (x : Head) :
    BitVec.ofNat 8 (marks
      [x.release.isSome, x.cycle.isSome, x.cycle.isSome && x.packRef.isSome, x.run?.any Run.resealUsed,
       (x.run?.bind Run.closure).isSome]) = x.queryFlags := by
  have ref : (if x.cycle = none ∨ x.packRef = none then (0 : Byte) else 4) =
      if (x.cycle.isSome && x.packRef.isSome) = true then 4 else 0 := by
    rcases x.cycle with _ | c <;> rcases x.packRef with _ | r <;> simp
  have run : (match x.run? with
      | none => (0 : Byte)
      | some r => (if r.resealUsed then 8 else 0) ||| (if r.closure = none then 0 else 16)) =
      (if x.run?.any Run.resealUsed then 8 else 0) ||| (if (x.run?.bind Run.closure).isSome = true then 16 else 0) := by
    rcases x.run? with _ | r
    · rfl
    · exact congrArg ((if r.resealUsed = true then 8 else 0) ||| ·) (ite_eq_none r.closure 0 16)
  rw [marks_five, Head.queryFlags, ite_eq_none, ite_eq_none, ref]
  exact congrArg (_ ||| ·) run.symm

theorem Head.bytes_eq (h : Fin 16) (x : Head) : x.bytes h = x.layout h := by
  simp only [Head.bytes, Head.layout, HeadParams.bytes_eq, Head.cycleBytes_eq, u8, Head.queryMarks_eq, u16_eq, CoeffItems.bytes,
    List.append_assoc, List.cons_append, List.nil_append]
  rcases x.release with _ | ⟨due, dest, owed⟩
  · rfl
  · cases dest <;> rfl

/-! ### STORE-QUERY (R181) -/

/-- The marks of a STORE-QUERY reply, where a head is concerned and where none is. -/
theorem storeMarks_eq (last : Option (Fin 16)) :
    BitVec.ofNat 8 (marks [true, last.isSome]) = 1 ||| (if last = none then 0 else 2) ∧
      BitVec.ofNat 8 (marks [false, last.isSome]) = if last = none then 0 else 2 := by
  have all : ∀ b : Bool, BitVec.ofNat 8 (marks [true, b]) = 1 ||| (if b = true then 2 else 0) ∧
      BitVec.ofNat 8 (marks [false, b]) = if b = true then 2 else 0 := by decide
  rw [ite_eq_none]
  exact all last.isSome

/-- The byte of the last-write head, 0 without one. -/
theorem lastHead_eq (last : Option (Fin 16)) :
    BitVec.ofNat 8 (last.elim 0 Fin.val) = match last with | none => 0 | some w => BitVec.ofNat 8 w.val := by
  cases last <;> rfl

end Sys2Proof.Machine

open Sys2Proof Sys2Proof.Machine

/-- Settles O43: each query answers with the bytes of its block, which are those of the layouts. -/
theorem queriesOnlyReply : Obligations.QueriesOnlyReply := by
  unfold Obligations.QueriesOnlyReply
  refine ⟨by decide, fun s tag now => ⟨?_, fun b h e => ?_, ?_, fun serial nonzero => ⟨fun absent => ?_, fun p n found => ?_⟩, ?_⟩⟩
  · rw [← State.trackBytes_eq]
    exact exec_answered (.trackQuery tag) now s (.ok s.trackBytes) rfl
  · rw [← Head.bytes_eq]
    refine exec_answered (.headQuery tag b) now s (.ok ((s.head h).bytes h)) ?_
    simp only [requestAct, actHeadQuery, headOf_eq e]; rfl
  · exact exec_answered (.nestQuery tag 0) now s (.refuse .badValue 194) rfl
  · refine exec_answered (.nestQuery tag serial) now s (.refuse .notFound 194) ?_
    simp only [requestAct, actNestQuery, absent]; exact if_neg nonzero
  · rw [← Nest.bytes_eq]
    refine exec_answered (.nestQuery tag serial) now s (.ok (u8 p ++ n.bytes)) ?_
    simp only [requestAct, actNestQuery, found]; exact if_neg nonzero
  · have done := exec_answered (.storeQuery tag) now s (.ok s.store.bytes) rfl
    refine ⟨fun l e => done.trans ?_, fun e => done.trans ?_, fun h e => done.trans ?_, fun h c e => done.trans ?_⟩
    all_goals
      simp only [Answer.ok, Store.bytes, e, u8, StoreOp.head, Option.isSome_some, Option.isSome_none, storeMarks_eq, lastHead_eq]
      rfl
end

