-- ==== Sys2Proof/Proofs/IndexEffects.lean ====
section
/-! PROOFS. An INDEX-START at the track, every head and the gate (R5 to R7, R92, R144). -/

namespace Sys2Proof.Machine

variable {s : State}

/-! ### Bytes that agree under a mask -/

/-- A mask is the narrower the more masks it meets. -/
theorem mask_trans {w : Nat} {x y z m k : BitVec w} (a : x &&& m = y &&& m) (b : y &&& k = z &&& k) :
    x &&& (m &&& k) = z &&& (m &&& k) := by
  rw [← BitVec.and_assoc, a, BitVec.and_assoc, BitVec.and_comm m, ← BitVec.and_assoc, b, BitVec.and_assoc]

theorem getLsbD_of_mask {w : Nat} {x y m : BitVec w} {i : Nat} (a : x &&& m = y &&& m) (b : m.getLsbD i = true) :
    x.getLsbD i = y.getLsbD i := by
  simpa [b] using congrArg (BitVec.getLsbD · i) a

/-! ### What effects do to a pack (R15) -/

/-- The reject reasons that an effect adds. -/
def HeadEffect.mask : HeadEffect → BitVec 32
  | .result _ _ x => x
  | .reasons _ _ x => x
  | .cause _ => 0

/-- Effects move nothing of a pack but its reasons and its two station results. -/
def Pack.sameBut (p q : Pack) : Prop :=
  { q with reasons := p.reasons, formResult := p.formResult, sealResult := p.sealResult } = p

theorem Pack.addReasons_sameBut (x : BitVec 32) (p : Pack) : p.sameBut (p.addReasons x) := by
  unfold Pack.addReasons
  split <;> rfl

theorem Pack.putResult_sameBut (st : Station) (y : StationResult) (p : Pack) : p.sameBut (p.putResult st y) := by
  cases st <;> rfl

theorem Pack.sameBut_trans {p q r : Pack} (a : p.sameBut q) (b : q.sameBut r) : p.sameBut r := by
  unfold Pack.sameBut at *
  rw [← a, ← b]

theorem HeadEffect.onPack_sameBut (e : HeadEffect) (p : Pack) : p.sameBut (e.onPack p) := by
  cases e with
  | result r y x => exact Pack.sameBut_trans (Pack.putResult_sameBut _ _ _) (Pack.addReasons_sameBut _ _)
  | reasons n l x => exact Pack.addReasons_sameBut x p
  | cause c => rfl

theorem effectsOn_sameBut (l : List HeadEffect) (p : Pack) : p.sameBut (effectsOn l p) := by
  induction l generalizing p with
  | nil => rfl
  | cons e l ih => exact Pack.sameBut_trans (e.onPack_sameBut p) (ih (e.onPack p))

theorem Pack.addReasons_bit {x : BitVec 32} {p : Pack} {i : Nat} (b : (p.addReasons x).reasons.getLsbD i = true) :
    p.reasons.getLsbD i = true ∨ x.getLsbD i = true := by
  unfold Pack.addReasons at b
  split at b
  · exact .inl b
  · simpa using b

theorem Pack.addReasons_adds {x : BitVec 32} {p : Pack} {i : Nat} (f : p.format ≠ 0) (b : x.getLsbD i = true) :
    (p.addReasons x).reasons.getLsbD i = true := by
  rw [Pack.addReasons, if_neg f]
  simp [b]

theorem HeadEffect.onPack_bit {e : HeadEffect} {p : Pack} {i : Nat} (b : (e.onPack p).reasons.getLsbD i = true) :
    p.reasons.getLsbD i = true ∨ e.mask.getLsbD i = true := by
  cases e with
  | result r y x =>
    have same : (p.putResult r.station y).reasons = p.reasons := by cases r.station <;> rfl
    exact same ▸ Pack.addReasons_bit b
  | reasons n l x => exact Pack.addReasons_bit b
  | cause c => exact .inl b

/-- A reason in a pack stood there or is one that an effect adds. -/
theorem effectsOn_bit {l : List HeadEffect} {p : Pack} {i : Nat} (b : (effectsOn l p).reasons.getLsbD i = true) :
    p.reasons.getLsbD i = true ∨ ∃ e ∈ l, e.mask.getLsbD i = true := by
  induction l generalizing p with
  | nil => exact .inl b
  | cons e l ih =>
    rcases ih b with b | ⟨e', m, b⟩
    · exact (HeadEffect.onPack_bit b).imp_right fun b => ⟨e, List.mem_cons_self, b⟩
    · exact .inr ⟨e', List.mem_cons_of_mem _ m, b⟩

/-- An effect on a pack adds its reasons there, unless the pack is empty (R14). -/
theorem effectsOn_adds {l : List HeadEffect} {e : HeadEffect} (m : e ∈ l) {i : Nat} (b : e.mask.getLsbD i = true) {p : Pack}
    (f : p.format ≠ 0) : (effectsOn l p).reasons.getLsbD i = true := by
  refine effectsOn_reason m (fun q f => ?_) p f
  cases e with
  | result r y x =>
    have same : (q.putResult r.station y).format = q.format := by cases r.station <;> rfl
    exact Pack.addReasons_adds (same ▸ f) b
  | reasons n l x => exact Pack.addReasons_adds f b
  | cause c => exact absurd b (by simp [HeadEffect.mask])

/-! ### What the heads do outside themselves (R92) -/

/-- What an INDEX-START makes a head do outside itself: the end of its cycle, INDEX_WHILE_CLOSED and CLOSED_AT_INDEX. -/
def Head.indexEffects (h : Fin 16) (x : Head) : List HeadEffect :=
  if x.state = .offline then []
  else
    x.endEffects h .overrun ++
      if x.platen = .opened then []
      else
        .cause .indexWhileClosed ::
          match x.packRef with
          | some ref => [.reasons ref.serial ref.lane RejectReason.closedAtIndex.set]
          | none => []

theorem State.indexStart_effects (h : Fin 16) : (s.ctx h).indexStart.out = (s.head h).indexEffects h := by
  have ends : (match (s.head h).cycle, (s.head h).packRef with
      | some ⟨.pack, _⟩, some ref =>
        [HeadEffect.result ref ((s.ctx h).endResult .overrun) ((s.ctx h).endRejects .overrun ref.station)]
      | _, _ => []) = (s.head h).endEffects h .overrun := by
    simp only [HeadCtx.endResult_eq, HeadCtx.endRejects_eq]
    rfl
  refine (HeadCtx.indexStart_out (x := s.ctx h) rfl).trans ?_
  rw [Head.indexEffects, ← ends]
  rfl

/-- What the effects of an INDEX-START are, at an online head. -/
theorem Head.mem_indexEffects {h : Fin 16} {x : Head} {e : HeadEffect} :
    e ∈ x.indexEffects h ↔
      x.state ≠ .offline ∧
        ((x.cycle.map Cycle.origin = some .pack ∧ ∃ ref, x.packRef = some ref ∧
            e = .result ref (x.endedResult h .overrun) (x.endedMask .overrun ref.station)) ∨
          (x.platen ≠ .opened ∧ e = .cause .indexWhileClosed) ∨
          (x.platen ≠ .opened ∧ ∃ ref, x.packRef = some ref ∧
            e = .reasons ref.serial ref.lane RejectReason.closedAtIndex.set)) := by
  have ends : e ∈ x.endEffects h .overrun ↔
      x.cycle.map Cycle.origin = some .pack ∧ ∃ ref, x.packRef = some ref ∧
        e = .result ref (x.endedResult h .overrun) (x.endedMask .overrun ref.station) := by
    unfold Head.endEffects
    rcases x.cycle with _ | ⟨_ | _, run⟩ <;> rcases x.packRef with _ | ref <;> simp
  unfold Head.indexEffects
  by_cases off : x.state = .offline
  · simp [off]
  · rw [if_neg off, List.mem_append, ends]
    by_cases pl : x.platen = .opened
    · simp [off, pl]
    · rcases x.packRef with _ | ref <;> simp [off, pl]

/-- What an INDEX-START makes all the heads do outside themselves, head 0 first. -/
def State.indexEffects (s : State) : List HeadEffect :=
  allHeads.flatMap fun h => (s.head h).indexEffects h

theorem State.mem_indexEffects {e : HeadEffect} : e ∈ s.indexEffects ↔ ∃ h, e ∈ (s.head h).indexEffects h := by
  simp [State.indexEffects, mem_allHeads]

/-- Effects post a cause exactly where one of them is that cause. -/
theorem effectsCauses_bit {l : List HeadEffect} {i : Nat} :
    (effectsCauses l).getLsbD i = true ↔ ∃ c : Cause, HeadEffect.cause c ∈ l ∧ c.bit = i := by
  induction l with
  | nil => simp [effectsCauses]
  | cons e l ih =>
    cases e with
    | result r y x => simpa [effectsCauses] using ih
    | reasons n m x => simpa [effectsCauses] using ih
    | cause c =>
      have lt := c.bit_lt
      simp only [effectsCauses, BitVec.getLsbD_or, BitVec.getLsbD_twoPow, Bool.or_eq_true, ih, Bool.and_eq_true, decide_eq_true_eq,
        List.mem_cons, HeadEffect.cause.injEq]
      constructor
      · rintro (⟨-, e⟩ | ⟨c', m, e⟩)
        · exact ⟨c, .inl rfl, e⟩
        · exact ⟨c', .inr m, e⟩
      · rintro ⟨c', rfl | m, e⟩
        · exact .inl ⟨by omega, e⟩
        · exact .inr ⟨c', m, e⟩

/-- Of the causes the heads post INDEX_WHILE_CLOSED alone, where an online head's platen is not OPEN. -/
theorem State.indexEffects_causes {i : Nat} :
    (effectsCauses s.indexEffects).getLsbD i = true ↔
      i = 1 ∧ ∃ h, (s.head h).state ≠ .offline ∧ (s.head h).platen ≠ .opened := by
  rw [effectsCauses_bit]
  constructor
  · rintro ⟨c, m, rfl⟩
    obtain ⟨h, m⟩ := State.mem_indexEffects.1 m
    obtain ⟨on, ⟨-, ref, -, e⟩ | ⟨pl, e⟩ | ⟨-, ref, -, e⟩⟩ := Head.mem_indexEffects.1 m
    · cases e
    · cases e
      exact ⟨rfl, h, on, pl⟩
    · cases e
  · rintro ⟨rfl, h, on, pl⟩
    exact ⟨.indexWhileClosed, State.mem_indexEffects.2 ⟨h, Head.mem_indexEffects.2 ⟨on, .inr (.inl ⟨pl, rfl⟩)⟩⟩, rfl⟩

/-! ### The heads in turn (R92) -/

/-- The heads after each has taken an INDEX-START. -/
def State.headsIndexStart (s : State) : State :=
  s.actHeads (fun _ => HeadCtx.indexStart) allHeads

theorem State.headsIndexStart_records (h : Fin 16) :
    (s.headsIndexStart.head h, s.headsIndexStart.status h) =
      if (s.head h).state ≠ .offline ∧ (s.head h).cycle ≠ none then
        (((s.ctx h).abnormal .overrun .ready true).head, ((s.ctx h).abnormal .overrun .ready true).status)
      else (s.head h, s.status h) := by
  obtain ⟨head, status⟩ := State.actHeads_all (s := s) (fun _ => HeadCtx.indexStart) h
  unfold State.headsIndexStart
  rw [head, status]
  exact HeadCtx.indexStart_records (s.ctx h)

theorem State.indexEffects_eq : s.effectsOf (fun _ => HeadCtx.indexStart) allHeads = s.indexEffects :=
  List.flatMap_congr fun h _ => State.indexStart_effects h

theorem State.headsIndexStart_track :
    s.headsIndexStart.track = s.indexEffects.foldl (fun t e => e.onTrack t) s.track := by
  rw [← State.indexEffects_eq]
  exact State.actHeads_track _ _ allHeads_nodup

/-- The effects on the pack of a serial number and lane. -/
def State.indexEffectsAt (serial : Nat) (lane : Fin 8) (s : State) : List HeadEffect :=
  s.indexEffects.filter (HeadEffect.hits serial lane)

/-- A nest whose packs have taken what the heads write. -/
def State.indexedNest (s : State) (n : Nest) : Nest :=
  n.mapPacks fun lane => effectsOn (s.indexEffectsAt n.serial lane)

theorem State.headsIndexStart_nestAt (p : Nat) :
    s.headsIndexStart.track.nestAt p = (s.track.nestAt p).map s.indexedNest := by
  rw [State.headsIndexStart_track, onTrack_nestAt]; rfl

theorem State.headsIndexStart_packOf (ref : PackRef) :
    s.headsIndexStart.track.packOf ref = (s.track.packOf ref).map (effectsOn (s.indexEffectsAt ref.serial ref.lane)) := by
  rw [Track.packOf, Track.packOf, State.headsIndexStart_track, onTrack_find, Option.map_map, Option.map_map]
  refine congrArg (Option.map · (s.track.find ref.serial)) (funext fun x => ?_)
  exact Nest.mapPacks_get _ _ _

theorem State.headsIndexStart_causes :
    s.headsIndexStart.causes &&& 0xBF = (s.causes ||| effectsCauses s.indexEffects) &&& 0xBF ∧
      s.trackStatus.holds s.headsIndexStart.trackStatus := by
  rw [← State.indexEffects_eq]
  exact State.actHeads_causes _ _ allHeads_nodup

/-- No head enters or leaves SAFE where no head in SAFE has a cycle: the causes join, and HOLD_CHANGED follows them (R19, R21). -/
theorem State.headsIndexStart_joins (out : s.cyclesOutsideSafe) :
    s.joins (effectsCauses s.indexEffects) s.headsIndexStart := by
  rw [← State.indexEffects_eq]
  refine State.actHeads_joins _ _ allHeads_nodup fun h _ => ?_
  have head : (s.ctx h).indexStart.head = _ := congrArg Prod.fst (HeadCtx.indexStart_records (s.ctx h))
  rw [head]
  by_cases c : (s.head h).state ≠ .offline ∧ (s.head h).cycle ≠ none
  · have ended := (s.ctx h).abnormal_ready_state .overrun true
    refine iff_of_false ?_ fun safe => c.2 (out h safe)
    rw [if_pos (show (s.ctx h).head.state ≠ .offline ∧ (s.ctx h).head.cycle ≠ none from c)]
    exact ended
  · rw [if_neg (show ¬((s.ctx h).head.state ≠ .offline ∧ (s.ctx h).head.cycle ≠ none) from c)]
    rfl

/-! ### The gate (R144) -/

/-- Whether an INDEX-START cuts gate activity. -/
def Gate.cuts (g : Gate) : Bool :=
  g.activity.any GateActivity.inProgress

theorem GateActivity.inProgress_iff (a : GateActivity) :
    a.inProgress = true ↔
      (a.punch = .delay ∨ a.punch = .asserted) ∨ (a.diverter = .pulse ∨ a.diverter = .window) ∨ a.diverter = .delay := by
  simp only [GateActivity.inProgress, GateActivity.punchBusy, GateActivity.windowOpen, Bool.or_eq_true, beq_iff_eq]
  tauto

theorem Gate.cuts_iff {g : Gate} {a : GateActivity} (e : g.activity = some a) :
    g.cuts = true ↔
      (a.punch = .delay ∨ a.punch = .asserted) ∨ (a.diverter = .pulse ∨ a.diverter = .window) ∨ a.diverter = .delay := by
  rw [Gate.cuts, e, Option.any_some, GateActivity.inProgress_iff]

theorem State.gateIndexStart_uncut (c : s.gate.cuts = false) : s.gateIndexStart = s := by
  rcases e : s.gate.activity with _ | a
  · exact State.gateIndexStart_eq.1 e
  · have n := (Gate.cuts_iff e).not.1 (by simp [c])
    simp only [not_or] at n
    exact (State.gateIndexStart_eq.2 a e).1 ⟨not_or.2 n.1, not_or.2 n.2.1, n.2.2⟩

/-- A nest with the confirm count that closing an open window writes into it. -/
def Gate.confirmed (g : Gate) (n : Nest) : Nest :=
  match g.activity with
  | none => n
  | some a => if a.windowOpen = true ∧ n.serial = a.serial then { n with confirm := some (a.confirm.getD 0) } else n

theorem GateActivity.windowOpen_iff (a : GateActivity) :
    a.windowOpen = true ↔ a.diverter = .pulse ∨ a.diverter = .window := by
  simp [GateActivity.windowOpen]

/-- An INDEX-START at the gate writes at most the confirm count of an open window. -/
theorem State.gateIndexStart_slots :
    (∀ p, s.gateIndexStart.track.nestAt p = (s.track.nestAt p).map s.gate.confirmed) ∧
      ∀ ref, s.gateIndexStart.track.packOf ref = s.track.packOf ref := by
  by_cases w : ∃ a, s.gate.activity = some a ∧ (a.diverter = .pulse ∨ a.diverter = .window)
  · obtain ⟨a, e, w⟩ := w
    obtain ⟨v, rfl, eq⟩ := (State.gateIndexStart_eq.2 a e).2 (.inr (.inl w))
    have track : s.gateIndexStart.track = s.track.putConfirm a.serial (a.confirm.getD 0) := by
      rw [eq]
      simp only [State.postTrack_track, State.postCause_track, State.setGate_track, State.setTrack_track, if_pos w]
    rw [track]
    refine ⟨fun p => ?_, fun ref => ?_⟩
    · rw [Track.putConfirm, Track.nestAt_updateNest]
      refine congrArg (Option.map · (s.track.nestAt p)) (funext fun n => ?_)
      simp only [Gate.confirmed, e, (GateActivity.windowOpen_iff a).2 w, true_and]
    · have found := Track.find_updateNest s.track ref.serial a.serial
        (fun n => { n with confirm := some (a.confirm.getD 0) }) (fun _ => rfl)
      rw [Track.putConfirm, Track.packOf, Track.packOf, found, Option.map_map]
      refine congrArg (Option.map · (s.track.find ref.serial)) (funext fun x => ?_)
      simp only [Function.comp]
      split <;> rfl
  · have track : s.gateIndexStart.track = s.track := by
      rcases c : s.gate.cuts with _ | _
      · rw [State.gateIndexStart_uncut c]
      · rcases e : s.gate.activity with _ | a
        · rw [Gate.cuts, e] at c; cases c
        · obtain ⟨v, rfl, eq⟩ := (State.gateIndexStart_eq.2 a e).2 ((Gate.cuts_iff e).1 c)
          rw [eq]
          simp only [State.postTrack_track, State.postCause_track, State.setGate_track, State.setTrack_track,
            if_neg fun open' => w ⟨a, e, open'⟩]
    rw [track]
    refine ⟨fun p => ?_, fun ref => rfl⟩
    have same (n : Nest) : s.gate.confirmed n = n := by
      unfold Gate.confirmed
      split
      · rfl
      · rename_i a e
        exact if_neg fun c => w ⟨a, e, (GateActivity.windowOpen_iff a).1 c.1⟩
    rcases s.track.nestAt p with _ | n
    · rfl
    · exact congrArg some (same n).symm

/-- A cut posts the cause and, after it, the event (R18, R144). -/
theorem State.gateIndexStart_cut (c : s.gate.cuts = true) :
    ∃ y, s.joins 0x10 y ∧ s.gateIndexStart.causes = y.causes ∧
      s.gateIndexStart.trackStatus = y.trackStatus.post .gateCut := by
  rcases e : s.gate.activity with _ | a
  · rw [Gate.cuts, e] at c; cases c
  · obtain ⟨v, rfl, eq⟩ := (State.gateIndexStart_eq.2 a e).2 ((Gate.cuts_iff e).1 c)
    obtain ⟨u, g, eq⟩ : ∃ u g, s.gateIndexStart = (((s.setTrack u).setGate g).postCause .gateCut).postTrack .gateCut :=
      ⟨_, _, eq⟩
    rw [eq]
    exact ⟨_, State.postCause_joins .gateCut ((s.setTrack u).setGate g), rfl, rfl⟩

end Sys2Proof.Machine
end

