-- ==== Sys2Proof/Proofs/IndexStart.lean ====
section
/-! PROOFS. What an INDEX-START leaves of the whole state (R5 to R7, R21, R92, R144, R159). -/

namespace Sys2Proof.Machine

variable {s t : State}

/-! ### Causes that join, with HOLD_CHANGED after them (R21) -/

/-- Causes join, and HOLD_CHANGED follows the output, whatever other events are posted. -/
def State.follows (b : Byte) (s t : State) : Prop :=
  t.causes = s.causes ||| b ∧ s.holdFollows t

theorem State.follows_refl (s : State) : s.follows 0 s :=
  ⟨(or_zero_byte _).symm, by simp [State.holdFollows]⟩

theorem State.joins.follows {b : Byte} (j : s.joins b t) : s.follows b t :=
  ⟨j.1, j.2.2.1⟩

theorem State.follows_trans {b c : Byte} {u : State} (x : s.follows b t) (y : t.follows c u) : s.follows (b ||| c) u := by
  obtain ⟨x1, x2⟩ := x
  obtain ⟨y1, y2⟩ := y
  refine ⟨by rw [y1, x1, BitVec.or_assoc], ?_⟩
  have ht : t.causes = 0#8 → s.causes = 0#8 := fun e => (BitVec.or_eq_zero_iff.1 (x1 ▸ e)).1
  have hu : u.causes = 0#8 → t.causes = 0#8 := fun e => (BitVec.or_eq_zero_iff.1 (y1 ▸ e)).1
  unfold State.holdFollows at *
  rw [y2, x2]
  tauto

/-- A post leaves every member but its own. -/
theorem TrackStatus.post_mask (u : TrackStatus) {e : TrackEvent} {m : Byte} (n : m.getLsbD e.bit = false) :
    (u.post e).changed &&& m = u.changed &&& m := by
  rw [TrackStatus.post_eq]
  apply BitVec.eq_of_getLsbD_eq
  intro i _
  simp only [BitVec.getLsbD_and, BitVec.getLsbD_or, BitVec.getLsbD_twoPow]
  by_cases same : e.bit = i
  · rw [← same, n, Bool.and_false, Bool.and_false]
  · simp [same]

theorem TrackStatus.post_bit (u : TrackStatus) (e : TrackEvent) : (u.post e).changed.getLsbD e.bit = true := by
  have lt : e.bit < 8 := by cases e <;> decide
  rw [TrackStatus.post_eq]
  simp [lt]

/-- A post of another event leaves what HOLD_CHANGED follows. -/
theorem State.follows_post {e : TrackEvent} (ne : e ≠ .holdChanged) (causes : t.causes = s.causes)
    (status : t.trackStatus = s.trackStatus.post e) : s.follows 0 t := by
  have bit : t.trackStatus.changed.getLsbD 4 = s.trackStatus.changed.getLsbD 4 := by
    have mask : (0x10 : Byte).getLsbD e.bit = false := by
      cases e with
      | holdChanged => exact absurd rfl ne
      | _ => rfl
    rw [status]
    exact getLsbD_of_mask (m := 0x10) (TrackStatus.post_mask _ mask) rfl
  refine ⟨causes.trans (or_zero_byte _).symm, ?_⟩
  unfold State.holdFollows
  rw [bit, causes]
  simp

/-! ### The track (R5 to R7) -/

theorem State.trackIndexStart_dwell (e : s.track.index = .dwell) :
    s.trackIndexStart =
      s.setTrack
        { s.track with
          index := .moving
          stallTimer := if s.track.mode = .halted then s.track.stallTimer else some (s.now + s.track.config.stallLimit) } := by
  simp only [State.trackIndexStart, e]

theorem State.trackIndexStart_moving (e : s.track.index = .moving) : s.trackIndexStart = s.postTrack .indexSequence := by
  simp only [State.trackIndexStart, e]

/-- The sequence fault of a second INDEX-START, and nothing else (R7). -/
theorem State.trackIndexStart_status :
    s.follows 0 s.trackIndexStart ∧ s.trackStatus.gains s.trackIndexStart.trackStatus ∧
      s.trackIndexStart.trackStatus.changed &&& 0xFE = s.trackStatus.changed &&& 0xFE := by
  rcases e : s.track.index with _ | _
  · rw [State.trackIndexStart_dwell e]
    exact ⟨s.follows_refl, TrackStatus.gains_refl _, rfl⟩
  · rw [State.trackIndexStart_moving e]
    exact ⟨State.follows_post (e := .indexSequence) (by decide) rfl rfl, TrackStatus.post_gains _ _, TrackStatus.post_mask _ rfl⟩

/-- What a head, or a nest, is to the heads' acts does not depend on what the track has done. -/
theorem State.trackIndexStart_seen :
    (∀ h, s.trackIndexStart.head h = s.head h) ∧ (∀ h, s.trackIndexStart.status h = s.status h) ∧
      (∀ h, s.trackIndexStart.ctx h = s.ctx h) ∧ s.trackIndexStart.indexEffects = s.indexEffects ∧
      (∀ p, s.trackIndexStart.track.nestAt p = s.track.nestAt p) ∧ ∀ ref, s.trackIndexStart.track.packOf ref = s.track.packOf ref := by
  rcases e : s.track.index with _ | _
  · rw [State.trackIndexStart_dwell e]
    exact ⟨fun _ => rfl, fun _ => rfl, fun _ => rfl, rfl, fun _ => rfl, fun _ => rfl⟩
  · rw [State.trackIndexStart_moving e]
    exact ⟨fun _ => rfl, fun _ => rfl, fun _ => rfl, rfl, fun _ => rfl, fun _ => rfl⟩

/-! ### The gate's causes and events (R144) -/

/-- What the gate posts where activity is cut. -/
def Gate.cutCause (g : Gate) : Byte :=
  if g.cuts then 0x10 else 0

theorem State.gateIndexStart_status :
    s.follows s.gate.cutCause s.gateIndexStart ∧ s.trackStatus.gains s.gateIndexStart.trackStatus ∧
      s.gateIndexStart.trackStatus.changed &&& 0xE7 = s.trackStatus.changed &&& 0xE7 ∧
      s.gateIndexStart.trackStatus.changed.getLsbD 3 = (s.gate.cuts || s.trackStatus.changed.getLsbD 3) := by
  rcases c : s.gate.cuts with _ | _
  · have none : s.gate.cutCause = 0 := by rw [Gate.cutCause, c]; rfl
    rw [State.gateIndexStart_uncut c, none]
    exact ⟨s.follows_refl, TrackStatus.gains_refl _, rfl, rfl⟩
  · have some : s.gate.cutCause = 0x10 ||| 0 := by rw [Gate.cutCause, c]; rfl
    obtain ⟨y, joins, causes, status⟩ := State.gateIndexStart_cut c
    rw [some]
    refine ⟨State.follows_trans joins.follows (State.follows_post (e := .gateCut) (by decide) causes status), ?_, ?_, ?_⟩
    · rw [status]
      exact TrackStatus.gains_trans joins.2.1 (TrackStatus.post_gains _ _)
    · rw [status]
      exact mask_trans (m := 0xF7) (k := 0xEF) (TrackStatus.post_mask y.trackStatus rfl) joins.2.2.2
    · rw [status]
      exact TrackStatus.post_bit _ .gateCut

/-! ### The whole act -/

theorem State.takeIndexStart_eq : s.takeIndexStart = s.trackIndexStart.headsIndexStart.gateIndexStart := rfl

theorem State.headsIndexStart_gate : s.headsIndexStart.gate = s.gate :=
  State.actHeads_gate _ _ _

/-- The records of a head: a cycle at an online head ends OVERRUN, and no other head moves (R92). -/
theorem State.takeIndexStart_records (h : Fin 16) :
    (s.takeIndexStart.head h, s.takeIndexStart.status h) =
      if (s.head h).state ≠ .offline ∧ (s.head h).cycle ≠ none then
        (((s.ctx h).abnormal .overrun .ready true).head, ((s.ctx h).abnormal .overrun .ready true).status)
      else (s.head h, s.status h) := by
  obtain ⟨head, status, ctx, -, -, -⟩ := State.trackIndexStart_seen (s := s)
  have acts := State.headsIndexStart_records (s := s.trackIndexStart) h
  rw [State.takeIndexStart_eq]
  rw [head h, status h, ctx h] at acts
  rw [← acts, State.head, State.status, State.gateIndexStart_heads, State.gateIndexStart_statuses]
  rfl

/-- A nest after an INDEX-START: its packs have taken what the heads write, and then the gate's count (R92, R144). -/
theorem State.takeIndexStart_nestAt (p : Nat) :
    s.takeIndexStart.track.nestAt p = (s.track.nestAt p).map (s.gate.confirmed ∘ s.indexedNest) := by
  obtain ⟨-, -, -, effects, nests, -⟩ := State.trackIndexStart_seen (s := s)
  have same : s.trackIndexStart.indexedNest = s.indexedNest := by
    funext n
    simp only [State.indexedNest, State.indexEffectsAt, effects]
  rw [State.takeIndexStart_eq, (State.gateIndexStart_slots).1 p, State.headsIndexStart_nestAt, State.headsIndexStart_gate,
    State.trackIndexStart_gate, nests, Option.map_map, same]

theorem State.takeIndexStart_packOf (ref : PackRef) :
    s.takeIndexStart.track.packOf ref = (s.track.packOf ref).map (effectsOn (s.indexEffectsAt ref.serial ref.lane)) := by
  obtain ⟨-, -, -, effects, -, packs⟩ := State.trackIndexStart_seen (s := s)
  rw [State.takeIndexStart_eq, (State.gateIndexStart_slots).2 ref, State.headsIndexStart_packOf, packs, State.indexEffectsAt, effects]
  rfl

/-- The index state and the stall timer are the track's alone. -/
theorem State.takeIndexStart_index :
    s.takeIndexStart.track.index = s.trackIndexStart.track.index ∧
      s.takeIndexStart.track.stallTimer = s.trackIndexStart.track.stallTimer := by
  have heads := State.actHeads_track_rest (fun _ => HeadCtx.indexStart) s.trackIndexStart
  have gate := (s.trackIndexStart.headsIndexStart).gateIndexStart_track
  have whole : s.trackIndexStart.actHeads (fun _ => HeadCtx.indexStart) allHeads = s.trackIndexStart.headsIndexStart := rfl
  rw [State.takeIndexStart_eq]
  rw [whole] at heads
  generalize s.trackIndexStart.headsIndexStart = v at *
  have index := congrArg Track.index heads
  have timer := congrArg Track.stallTimer heads
  have index' := congrArg Track.index gate
  have timer' := congrArg Track.stallTimer gate
  exact ⟨index'.trans index, timer'.trans timer⟩

/-- The causes an INDEX-START posts. -/
def State.indexCauses (s : State) : Byte :=
  effectsCauses s.indexEffects ||| s.gate.cutCause

/-- Causes join, HEAD_SAFE aside; the events are INDEX_SEQUENCE, GATE_CUT and HOLD_CHANGED (R18, R158). -/
theorem State.takeIndexStart_status :
    s.takeIndexStart.causes &&& 0xBF = (s.causes ||| s.indexCauses) &&& 0xBF ∧
      s.trackStatus.gains s.takeIndexStart.trackStatus ∧
      s.takeIndexStart.trackStatus.changed &&& 0xE6 = s.trackStatus.changed &&& 0xE6 ∧
      s.takeIndexStart.trackStatus.changed.getLsbD 0 = s.trackIndexStart.trackStatus.changed.getLsbD 0 ∧
      s.takeIndexStart.trackStatus.changed.getLsbD 3 = (s.gate.cuts || s.trackStatus.changed.getLsbD 3) ∧
      (s.cyclesOutsideSafe → s.follows s.indexCauses s.takeIndexStart) := by
  obtain ⟨follows1, gains1, mask1⟩ := State.trackIndexStart_status (s := s)
  obtain ⟨causes2, gains2, mask2⟩ := State.headsIndexStart_causes (s := s.trackIndexStart)
  have joins2 := State.headsIndexStart_joins (s := s.trackIndexStart)
  obtain ⟨head, -, -, effects, -, -⟩ := State.trackIndexStart_seen (s := s)
  have gate : s.trackIndexStart.headsIndexStart.gate = s.gate :=
    State.headsIndexStart_gate.trans s.trackIndexStart_gate
  obtain ⟨follows3, gains3, mask3, cut3⟩ := State.gateIndexStart_status (s := s.trackIndexStart.headsIndexStart)
  have outside (out : s.cyclesOutsideSafe) : s.trackIndexStart.cyclesOutsideSafe := fun h => by rw [head h]; exact out h
  rw [State.takeIndexStart_eq]
  rw [gate] at follows3 cut3
  rw [effects] at causes2 joins2
  generalize s.trackIndexStart.headsIndexStart = v at *
  generalize v.gateIndexStart = w at *
  generalize s.trackIndexStart = u at *
  refine ⟨?_, TrackStatus.gains_trans gains1 (TrackStatus.gains_trans gains2 gains3), ?_, ?_, ?_, fun out => ?_⟩
  · rw [follows3.1, State.indexCauses, ← BitVec.or_assoc, BitVec.and_comm, BitVec.and_or_distrib_left, BitVec.and_comm, causes2,
      follows1.1, or_zero_byte, BitVec.and_comm, ← BitVec.and_or_distrib_left, BitVec.and_comm]
  · exact mask_trans (m := 0xE7) (k := 0xFE) (mask_trans (m := 0xE7) (k := 0xEF) mask3 mask2) mask1
  · exact (getLsbD_of_mask (i := 0) mask3 rfl).trans (getLsbD_of_mask (i := 0) mask2 rfl)
  · rw [cut3, getLsbD_of_mask (i := 3) mask2 rfl, getLsbD_of_mask (i := 3) mask1 rfl]
  · have all := State.follows_trans follows1 (State.follows_trans (joins2 (outside out)).follows follows3)
    have zero : 0 ||| s.indexCauses = s.indexCauses := BitVec.zero_or
    exact zero ▸ all

/-! ### Packs and nests after the act (R15, R82, R92, R144) -/

theorem RejectReason.closedAtIndex_bit (i : Nat) : RejectReason.closedAtIndex.set.getLsbD i = true ↔ i = 19 := by
  have set : RejectReason.closedAtIndex.set = BitVec.twoPow 32 19 := by decide
  rw [set, BitVec.getLsbD_twoPow]
  simp [eq_comm]

theorem State.mem_indexEffectsAt {e : HeadEffect} {serial : Nat} {lane : Fin 8} :
    e ∈ s.indexEffectsAt serial lane ↔ (∃ h, e ∈ (s.head h).indexEffects h) ∧ e.hits serial lane = true := by
  rw [State.indexEffectsAt, List.mem_filter, State.mem_indexEffects]

/-- The result and the reasons that the end of a head's cycle writes to its pack are among the effects there. -/
theorem State.result_mem_indexEffectsAt {h : Fin 16} {ref : PackRef} (on : (s.head h).state ≠ .offline)
    (origin : (s.head h).cycle.map Cycle.origin = some .pack) (at' : (s.head h).packRef = some ref) :
    HeadEffect.result ref ((s.head h).endedResult h .overrun) ((s.head h).endedMask .overrun ref.station) ∈
      s.indexEffectsAt ref.serial ref.lane :=
  State.mem_indexEffectsAt.2
    ⟨⟨h, Head.mem_indexEffects.2 ⟨on, .inl ⟨origin, ref, at', rfl⟩⟩⟩, by simp [HeadEffect.hits]⟩

/-- A result among the effects on a pack, at a station, is that of a head that refers to just that pack there. -/
theorem State.result_of_mem_indexEffectsAt {ref r : PackRef} {y : StationResult} {x : BitVec 32}
    (m : HeadEffect.result r y x ∈ s.indexEffectsAt ref.serial ref.lane) (st : r.station = ref.station) :
    ∃ h, (s.head h).packRef = some ref ∧ y = (s.head h).endedResult h .overrun := by
  obtain ⟨⟨h, m⟩, hits⟩ := State.mem_indexEffectsAt.1 m
  obtain ⟨-, ⟨-, ref', at', e⟩ | ⟨-, e⟩ | ⟨-, ref', -, e⟩⟩ := Head.mem_indexEffects.1 m
  · obtain ⟨rfl, rfl, rfl⟩ := HeadEffect.result.inj e
    simp only [HeadEffect.hits, Bool.and_eq_true, beq_iff_eq] at hits
    have same : r = ref := by
      cases r; cases ref
      simp only [PackRef.mk.injEq] at hits st ⊢
      exact ⟨hits.1, hits.2, st⟩
    exact ⟨h, same ▸ at', rfl⟩
  · cases e
  · cases e

theorem Track.resultAt_eq {u : Track} {ref : PackRef} {p : Pack} (e : u.packOf ref = some p) :
    u.resultAt ref = p.resultOf ref.station := by
  simp only [Track.resultAt, e]
  rfl

/-- What the end of a cycle has left in its pack, after the other heads have written theirs (R82). -/
theorem State.takeIndexStart_result {h : Fin 16} {ref : PackRef} {p : Pack} (on : (s.head h).state ≠ .offline)
    (origin : (s.head h).cycle.map Cycle.origin = some .pack) (at' : (s.head h).packRef = some ref)
    (pack : s.track.packOf ref = some p) :
    let t := s.takeIndexStart
    let mask := (s.head h).endedMask .overrun ref.station
    ∃ p', t.track.packOf ref = some p' ∧
      ((∀ h' ≠ h, ¬(s.head h').packRef = some ref) → t.track.resultAt ref = some ((s.head h).endedResult h .overrun)) ∧
      (∃ h' r, (s.head h').packRef = some ref ∧ t.track.resultAt ref = some r ∧ r = (s.head h').endedResult h' .overrun) ∧
      (p.format ≠ 0 → p'.reasons &&& mask = mask) := by
  have member := State.result_mem_indexEffectsAt on origin at'
  have after : s.takeIndexStart.track.packOf ref = some (effectsOn (s.indexEffectsAt ref.serial ref.lane) p) := by
    rw [State.takeIndexStart_packOf, pack]; rfl
  obtain ⟨y, stands, h', at'', own⟩ := effectsOn_result member rfl
    (P := fun y => ∃ h, (s.head h).packRef = some ref ∧ y = (s.head h).endedResult h .overrun)
    (fun r y x m st => State.result_of_mem_indexEffectsAt m st) p
  have result := (Track.resultAt_eq after).trans stands
  refine ⟨_, after, fun alone => ?_, ⟨h', y, at'', result, own⟩, fun f => ?_⟩
  · have same : h' = h := by_contra fun ne => alone h' ne at''
    rw [result, own, same]
  · apply BitVec.eq_of_getLsbD_eq
    intro i _
    rw [BitVec.getLsbD_and]
    rcases b : ((s.head h).endedMask .overrun ref.station).getLsbD i with _ | _
    · rw [Bool.and_false]
    · rw [effectsOn_adds member b f, Bool.and_true]

/-- CLOSED_AT_INDEX in the pack of an online head whose platen is not OPEN (R92). -/
theorem State.takeIndexStart_closed {h : Fin 16} {ref : PackRef} {p : Pack} (on : (s.head h).state ≠ .offline)
    (closed : (s.head h).platen ≠ .opened) (at' : (s.head h).packRef = some ref)
    (after : s.takeIndexStart.track.packOf ref = some p) (f : p.format ≠ 0) : p.reasons.getLsbD 19 = true := by
  have member : HeadEffect.reasons ref.serial ref.lane RejectReason.closedAtIndex.set ∈ s.indexEffectsAt ref.serial ref.lane :=
    State.mem_indexEffectsAt.2
      ⟨⟨h, Head.mem_indexEffects.2 ⟨on, .inr (.inr ⟨closed, ref, at', rfl⟩)⟩⟩, by simp [HeadEffect.hits]⟩
  rw [State.takeIndexStart_packOf] at after
  obtain ⟨q, -, rfl⟩ := Option.map_eq_some_iff.1 after
  rw [(effectsOn_kept _ q).1] at f
  exact effectsOn_adds member ((RejectReason.closedAtIndex_bit 19).2 rfl) f

/-- Closing the window writes the confirm count of the gate nest, and nothing else. -/
theorem Gate.confirmed_packs (g : Gate) (n : Nest) :
    (g.confirmed n).packs = n.packs ∧ { g.confirmed n with confirm := n.confirm } = n := by
  unfold Gate.confirmed
  split
  · exact ⟨rfl, rfl⟩
  · split <;> exact ⟨rfl, rfl⟩

theorem Gate.confirmed_count {g : Gate} {a : GateActivity} {n : Nest} {count : Nat} (e : g.activity = some a)
    (window : a.diverter = .pulse ∨ a.diverter = .window) (serial : a.serial = n.serial) (c : a.confirm = some count) :
    (g.confirmed n).confirm = some count := by
  simp only [Gate.confirmed, e]
  rw [if_pos ⟨(GateActivity.windowOpen_iff a).2 window, serial.symm⟩, c]
  rfl

theorem Gate.confirmed_other {g : Gate} {n : Nest}
    (other : ∀ a, g.activity = some a → (a.diverter ≠ .pulse ∧ a.diverter ≠ .window) ∨ a.serial ≠ n.serial) :
    g.confirmed n = n := by
  unfold Gate.confirmed
  split
  · rfl
  · rename_i a e
    refine if_neg fun ⟨window, serial⟩ => ?_
    rcases other a e with ⟨n1, n2⟩ | ne
    · exact ((GateActivity.windowOpen_iff a).1 window).elim n1 n2
    · exact ne serial.symm

/-- A pack that no online head refers to takes no effects. -/
theorem State.indexEffectsAt_nil {serial : Nat} {lane : Fin 8}
    (free : ∀ h ref, (s.head h).state ≠ .offline → (s.head h).packRef = some ref → ref.serial = serial → ref.lane ≠ lane) :
    s.indexEffectsAt serial lane = [] := by
  refine List.eq_nil_iff_forall_not_mem.2 fun e m => ?_
  obtain ⟨⟨h, m⟩, hits⟩ := State.mem_indexEffectsAt.1 m
  obtain ⟨on, ⟨-, ref, at', rfl⟩ | ⟨-, rfl⟩ | ⟨-, ref, at', rfl⟩⟩ := Head.mem_indexEffects.1 m
  · simp only [HeadEffect.hits, Bool.and_eq_true, beq_iff_eq] at hits
    exact free h ref on at' hits.1 hits.2
  · exact absurd hits Bool.false_ne_true
  · simp only [HeadEffect.hits, Bool.and_eq_true, beq_iff_eq] at hits
    exact free h ref on at' hits.1 hits.2

/-- A reason that the effects bring to a pack is one of an end of a cycle there, or CLOSED_AT_INDEX. -/
theorem State.indexEffectsAt_bit {serial : Nat} {lane : Fin 8} {e : HeadEffect} {i : Nat} (m : e ∈ s.indexEffectsAt serial lane)
    (b : e.mask.getLsbD i = true) :
    ∃ h ref, (s.head h).state ≠ .offline ∧ (s.head h).packRef = some ref ∧ ref.serial = serial ∧ ref.lane = lane ∧
      (((s.head h).cycle.map Cycle.origin = some .pack ∧ ((s.head h).endedMask .overrun ref.station).getLsbD i = true) ∨
        ((s.head h).platen ≠ .opened ∧ i = 19)) := by
  obtain ⟨⟨h, m⟩, hits⟩ := State.mem_indexEffectsAt.1 m
  obtain ⟨on, ⟨origin, ref, at', rfl⟩ | ⟨-, rfl⟩ | ⟨closed, ref, at', rfl⟩⟩ := Head.mem_indexEffects.1 m
  · simp only [HeadEffect.hits, Bool.and_eq_true, beq_iff_eq] at hits
    exact ⟨h, ref, on, at', hits.1, hits.2, .inl ⟨origin, b⟩⟩
  · exact absurd hits Bool.false_ne_true
  · simp only [HeadEffect.hits, Bool.and_eq_true, beq_iff_eq] at hits
    exact ⟨h, ref, on, at', hits.1, hits.2, .inr ⟨closed, (RejectReason.closedAtIndex_bit i).1 b⟩⟩

/-- A cut gate (R144). -/
theorem State.takeIndexStart_gate {a : GateActivity} (e : s.gate.activity = some a) (c : s.gate.cuts = true) :
    let busy := a.punch = .delay ∨ a.punch = .asserted
    let windowOpen := a.diverter = .pulse ∨ a.diverter = .window
    s.takeIndexStart.gate =
      { s.gate with
        activity := some { a with
          punch := if busy then .cut else a.punch
          diverter := if windowOpen ∨ a.diverter = .delay then .cut else a.diverter
          confirm := if windowOpen then none else a.confirm }
        punchOut := if busy then false else s.gate.punchOut
        punchTimer := if busy then none else s.gate.punchTimer
        diverterOut := if windowOpen then 0 else s.gate.diverterOut
        diverterTimer := if windowOpen ∨ a.diverter = .delay then none else s.gate.diverterTimer
        windowTimer := if windowOpen then none else s.gate.windowTimer } := by
  have gate : s.trackIndexStart.headsIndexStart.gate = s.gate := State.headsIndexStart_gate.trans s.trackIndexStart_gate
  rw [State.takeIndexStart_eq]
  generalize s.trackIndexStart.headsIndexStart = v at *
  rw [← gate] at e c ⊢
  obtain ⟨u, -, eq⟩ := (State.gateIndexStart_eq.2 a e).2 ((Gate.cuts_iff e).1 c)
  rw [eq]
  simp only [State.postTrack_gate, State.postCause_gate, State.setGate_gate]

theorem State.takeIndexStart_gate_uncut (c : s.gate.cuts = false) : s.takeIndexStart.gate = s.gate := by
  have gate : s.trackIndexStart.headsIndexStart.gate = s.gate := State.headsIndexStart_gate.trans s.trackIndexStart_gate
  rw [State.takeIndexStart_eq]
  generalize s.trackIndexStart.headsIndexStart = v at *
  rw [State.gateIndexStart_uncut (gate ▸ c), gate]

/-- The causes of an INDEX-START, bit by bit: INDEX_WHILE_CLOSED and GATE_CUT. -/
theorem State.indexCauses_bit (i : Nat) :
    s.indexCauses.getLsbD i = true ↔
      (i = 1 ∧ ∃ h, (s.head h).state ≠ .offline ∧ (s.head h).platen ≠ .opened) ∨ (i = 4 ∧ s.gate.cuts = true) := by
  rw [State.indexCauses, BitVec.getLsbD_or, Bool.or_eq_true, State.indexEffects_causes]
  refine or_congr Iff.rfl ?_
  rw [Gate.cutCause]
  rcases s.gate.cuts with _ | _
  · simp
  · have four : (0x10 : Byte) = BitVec.twoPow 8 4 := by decide
    rw [if_pos rfl, four, BitVec.getLsbD_twoPow]
    simp [eq_comm]

end Sys2Proof.Machine

open Sys2Proof Sys2Proof.Machine

/-- Settles O18: the track, the heads in turn and the gate, each by its own lemma (`State.takeIndexStart_records`,
`State.takeIndexStart_nestAt`, `State.takeIndexStart_status`, `State.takeIndexStart_gate`). -/
theorem indexStartMovesIndex : Obligations.IndexStartMovesIndex := by
  unfold Obligations.IndexStartMovesIndex
  intro s
  obtain ⟨index, timer⟩ := State.takeIndexStart_index (s := s)
  obtain ⟨causes, gains, others, sequence, cut, follows⟩ := State.takeIndexStart_status (s := s)
  have records := State.takeIndexStart_records (s := s)
  have cause {i : Nat} (n : (0xBF : Byte).getLsbD i = true) :
      s.takeIndexStart.causes.getLsbD i = (s.causes.getLsbD i || s.indexCauses.getLsbD i) := by
    rw [getLsbD_of_mask causes n, BitVec.getLsbD_or]
  have absent {i : Nat} := fun n => Bool.eq_false_iff.2 ((State.indexCauses_bit (s := s) i).not.2 n)
  have uncut (c : s.gate.cuts = false) : s.takeIndexStart.gate = s.gate ∧
      s.takeIndexStart.causes.getLsbD 4 = s.causes.getLsbD 4 ∧
      s.takeIndexStart.trackStatus.changed.getLsbD 3 = s.trackStatus.changed.getLsbD 3 := by
    refine ⟨State.takeIndexStart_gate_uncut c, ?_, by rw [cut, c, Bool.false_or]⟩
    rw [cause rfl, absent, Bool.or_false]
    rintro (⟨e, -⟩ | ⟨-, yes⟩)
    · cases e
    · rw [c] at yes; cases yes
  refine ⟨s.takeIndexStart, rfl, ?_, fun dwell => ?_, fun moving => ?_, s.takeIndexStart_track,
    ⟨fun h no => ?_, fun h on cycle => ⟨?_, fun ref p origin at' pack => State.takeIndexStart_result on origin at' pack⟩,
      fun h on closed => ⟨?_, fun ref p at' after f => State.takeIndexStart_closed on closed at' after f⟩, fun closed => ?_,
      fun pos => ⟨fun no => ?_, fun n nest => ?_⟩⟩,
    ⟨fun no => ?_, fun a activity => ⟨fun no => ?_, fun some => ?_⟩⟩, ?_, fun out => ?_, gains.1, others, gains.2.2, ?_⟩
  · rw [index]
    rcases e : s.track.index with _ | _
    · rw [State.trackIndexStart_dwell e]; rfl
    · rw [State.trackIndexStart_moving e]; exact e
  · rw [timer, sequence, State.trackIndexStart_dwell dwell]
    exact ⟨rfl, rfl⟩
  · rw [timer, sequence, State.trackIndexStart_moving moving]
    exact ⟨rfl, TrackStatus.post_bit _ .indexSequence⟩
  · have own := records h
    rw [if_neg fun c => no.elim (fun off => off c.1) c.2] at own
    exact Prod.mk.inj own
  · have own := records h
    rw [if_pos ⟨on, cycle⟩] at own
    obtain ⟨head, status⟩ := Prod.mk.inj own
    exact HeadCtx.abnormal_headEnded head status
  · rw [cause rfl, (State.indexCauses_bit 1).2 (.inl ⟨rfl, h, on, closed⟩), Bool.or_true]
  · rw [cause rfl, absent, Bool.or_false]
    rintro (⟨-, h, on, pl⟩ | ⟨e, -⟩)
    · exact (closed h).elim (fun off => off on) pl
    · cases e
  · rw [State.takeIndexStart_nestAt, no]; rfl
  · have after := State.takeIndexStart_nestAt (s := s) pos
    rw [nest, Option.map_some] at after
    obtain ⟨packs, rest⟩ := s.gate.confirmed_packs (s.indexedNest n)
    have pack (lane : Fin 8) : (s.gate.confirmed (s.indexedNest n)).packs.get lane =
        effectsOn (s.indexEffectsAt n.serial lane) (n.packs.get lane) := by
      rw [packs, State.indexedNest, Nest.mapPacks_get]
    refine ⟨s.gate.confirmed (s.indexedNest n), after, ?_, fun lane free => ?_, fun lane => ⟨?_, fun i b => ?_⟩, fun a count activity window serial confirm => ?_,
      fun other => ?_⟩
    · have kept := congrArg (fun m : Nest => { m with packs := n.packs }) rest
      exact kept
    · rw [pack, State.indexEffectsAt_nil free]; rfl
    · rw [pack]
      exact effectsOn_sameBut _ _
    · rw [pack] at b
      rcases effectsOn_bit b with b | ⟨e, m, b⟩
      · exact .inl b
      · exact .inr (State.indexEffectsAt_bit m b)
    · exact Gate.confirmed_count activity window serial confirm
    · rw [Gate.confirmed_other (n := s.indexedNest n) other]; rfl
  · have c : s.gate.cuts = false := by rw [Gate.cuts, no]; rfl
    exact uncut c
  · have c : s.gate.cuts = false := Bool.eq_false_iff.2 fun c => by
      rcases (Gate.cuts_iff activity).1 c with busy | window | delay
      · exact no.1 busy
      · exact no.2.1 window
      · exact no.2.2 delay
    exact uncut c
  · have c : s.gate.cuts = true := (Gate.cuts_iff activity).2 some
    refine ⟨?_, ?_, State.takeIndexStart_gate activity c⟩
    · rw [cause rfl, (State.indexCauses_bit 4).2 (.inr ⟨rfl, c⟩), Bool.or_true]
    · rw [cut, c, Bool.true_or]
  · apply BitVec.eq_of_getLsbD_eq
    intro i lt
    rw [BitVec.getLsbD_and, BitVec.getLsbD_and]
    rcases m : (0xAD : Byte).getLsbD i with _ | _
    · rw [Bool.and_false, Bool.and_false]
    · have n : (0xBF : Byte).getLsbD i = true ∧ i ≠ 1 ∧ i ≠ 4 := by
        revert m
        revert i
        decide
      rw [cause n.1, absent fun c => c.elim (fun c => n.2.1 c.1) fun c => n.2.2 c.1, Bool.or_false]
  · obtain ⟨all, hold⟩ := follows out
    refine ⟨?_, hold⟩
    rw [all, BitVec.getLsbD_or, absent fun c => c.elim (fun c => absurd c.1 (by decide)) fun c => absurd c.1 (by decide), Bool.or_false]
  · exact ⟨s.takeIndexStart_link, s.takeIndexStart_library, s.takeIndexStart_store, s.takeIndexStart_lines, s.takeIndexStart_now⟩
end

