-- ==== Sys2Proof/Proofs/SampleTaken.lean ====
section
/-! PROOFS. One sample (R110 to R126): the conditions it declares, and what they send a head to (R86, R87). -/

namespace Sys2Proof.Machine

variable {s : State} {h : Fin 16}

/-- An act of a head is what it does to what the head sees. -/
theorem State.actHead_congr {f g : HeadCtx → HeadCtx} (e : f (s.ctx h) = g (s.ctx h)) : s.actHead h f = s.actHead h g := by
  unfold State.actHead
  rw [e]

/-! ### The entry of SAFE (R86) -/

theorem HeadCtx.enterSafe_stays {x : HeadCtx} (e : x.head.state = .safe ∨ x.head.state = .offline) (reason : EndReason) :
    x.enterSafe reason = x :=
  if_pos e

theorem HeadCtx.enterSafe_cycle {x : HeadCtx} (e : ¬(x.head.state = .safe ∨ x.head.state = .offline)) (c : x.head.cycle ≠ none)
    (reason : EndReason) : x.enterSafe reason = x.abnormal reason .safe true := by
  rw [HeadCtx.enterSafe, if_neg e, if_pos (Option.isSome_iff_ne_none.2 c)]

theorem HeadCtx.enterSafe_release {x : HeadCtx} (e : ¬(x.head.state = .safe ∨ x.head.state = .offline)) (c : x.head.cycle = none)
    {r : Release} (p : x.head.release = some r) (reason : EndReason) :
    x.enterSafe reason = x.mapHead fun h => Head.rest x.now .safe 0 { h with release := some { r with dest := .safe } } := by
  rw [HeadCtx.enterSafe, if_neg e, if_neg (by simp [c])]
  simp only [p]

theorem HeadCtx.enterSafe_opened {x : HeadCtx} (e : ¬(x.head.state = .safe ∨ x.head.state = .offline)) (c : x.head.cycle = none)
    (p : x.head.release = none) (o : x.head.platen = .opened) (reason : EndReason) :
    x.enterSafe reason = x.mapHead fun h => Head.rest x.now .safe 0 { h with closeOut := false, auxOut := false } := by
  rw [HeadCtx.enterSafe, if_neg e, if_neg (by simp [c])]
  simp only [p]
  exact if_pos o

theorem HeadCtx.enterSafe_begins {x : HeadCtx} (e : ¬(x.head.state = .safe ∨ x.head.state = .offline)) (c : x.head.cycle = none)
    (p : x.head.release = none) (o : x.head.platen ≠ .opened) (reason : EndReason) :
    x.enterSafe reason = x.beginRelease .safe false := by
  rw [HeadCtx.enterSafe, if_neg e, if_neg (by simp [c])]
  simp only [p]
  exact if_neg o

/-- A release phase toward SAFE confirmed in the act of its beginning (R84, R85). -/
theorem HeadCtx.beginRelease_safe_confirmed {x : HeadCtx} {owed : Bool}
    (n : ¬(x.head.params.loopMode = .dry ∨ x.openLevel = false ∨ x.closedLevel = true)) :
    (x.beginRelease .safe owed).head =
      { x.head.rest x.now .safe 0 with
        closeOut := false
        auxOut := false
        platen := .opened
        release := none
        packRef := none } := by
  obtain ⟨dry, rest⟩ := not_or.1 n
  obtain ⟨openLevel, closedLevel⟩ := not_or.1 rest
  have confirms : (!x.head.isDry && x.openLevel && !x.closedLevel) = true := by
    simp [Head.isDry, dry, openLevel, closedLevel]
  have virtual : x.head.virtualAtOpening x.now = x.head.virtual := if_neg dry
  simp only [HeadCtx.beginRelease, confirms, if_true, HeadCtx.confirm_head, HeadCtx.mapHead_head, Head.virtualOpen_eq]
  exact congrArg (fun v => { x.head.rest x.now .safe 0 with
    closeOut := false, auxOut := false, platen := .opened, release := none, packRef := none, virtual := v }) virtual

theorem HeadCtx.beginRelease_safe_state (x : HeadCtx) (owed : Bool) : (x.beginRelease .safe owed).head.state = .safe := by
  simp only [HeadCtx.beginRelease, Head.virtualOpen_eq]
  split
  · rw [HeadCtx.confirm_head]; rfl
  · rfl

theorem HeadCtx.abnormal_safe_state (x : HeadCtx) (reason : EndReason) (primary : Bool) :
    (x.abnormal reason .safe primary).head.state = .safe := by
  simp only [HeadCtx.abnormal]
  split
  · rfl
  · exact HeadCtx.beginRelease_safe_state _ _

/-- An online head sent to SAFE is in SAFE. -/
theorem HeadCtx.enterSafe_state {x : HeadCtx} (on : x.head.state ≠ .offline) (reason : EndReason) :
    (x.enterSafe reason).head.state = .safe := by
  by_cases safe : x.head.state = .safe
  · rw [HeadCtx.enterSafe_stays (.inl safe), safe]
  · have e := not_or.2 ⟨safe, on⟩
    by_cases c : x.head.cycle = none
    · rcases p : x.head.release with _ | r
      · by_cases o : x.head.platen = .opened
        · rw [HeadCtx.enterSafe_opened e c p o]; rfl
        · rw [HeadCtx.enterSafe_begins e c p o]; exact HeadCtx.beginRelease_safe_state _ _
      · rw [HeadCtx.enterSafe_release e c p]; rfl
    · rw [HeadCtx.enterSafe_cycle e c]; exact HeadCtx.abnormal_safe_state _ _ _

/-- A head without a cycle writes nothing outside itself on its way to SAFE, and posts no status (R86). -/
theorem HeadCtx.enterSafe_quiet {x : HeadCtx} (e : ¬(x.head.state = .safe ∨ x.head.state = .offline)) (c : x.head.cycle = none)
    (reason : EndReason) : (x.enterSafe reason).out = x.out ∧ (x.enterSafe reason).status = x.status := by
  rcases p : x.head.release with _ | r
  · by_cases o : x.head.platen = .opened
    · rw [HeadCtx.enterSafe_opened e c p o]; exact ⟨rfl, rfl⟩
    · rw [HeadCtx.enterSafe_begins e c p o]
      exact ⟨HeadCtx.beginRelease_out .., HeadCtx.beginRelease_status_unowed ..⟩
  · rw [HeadCtx.enterSafe_release e c p]; exact ⟨rfl, rfl⟩

/-- A head sent to SAFE, as one act (R86). -/
theorem State.actHead_enterSafe (e : ¬((s.head h).state = .safe ∨ (s.head h).state = .offline)) {reason : EndReason}
    (r : reason ≠ .openLate) : s.sentSafe h reason (s.actHead h (HeadCtx.enterSafe reason)) := by
  refine ⟨fun c => ?_, fun c => ?_⟩
  · rw [State.actHead_congr (g := HeadCtx.abnormal reason .safe true) (HeadCtx.enterSafe_cycle e c reason)]
    exact State.actHead_ends h r .safe true
  · obtain ⟨out, status⟩ := HeadCtx.enterSafe_quiet (x := s.ctx h) e c reason
    obtain ⟨only, track⟩ := s.actHead_silent (h := h) (f := HeadCtx.enterSafe reason) out
    have head : (s.actHead h (HeadCtx.enterSafe reason)).head h = _ := s.actHead_head_self h _
    have post : (s.actHead h (HeadCtx.enterSafe reason)).status h = s.status h := (s.actHead_status_self h _).trans status
    refine ⟨only, track, post, ?_⟩
    rw [head]
    rcases p : (s.head h).release with _ | r
    · by_cases o : (s.head h).platen = .opened
      · rw [HeadCtx.enterSafe_opened (x := s.ctx h) e c p o]
        exact ⟨Head.rest_restsIn _ _, rfl, rfl, rfl, rfl, rfl, rfl, nofun, fun _ => ⟨rfl, rfl⟩, fun _ _ => ⟨p, o, rfl⟩,
          fun _ n => absurd o n, fun _ n => absurd o n⟩
      · rw [HeadCtx.enterSafe_begins (x := s.ctx h) e c p o]
        by_cases w : s.releaseWaits h
        · rw [HeadCtx.beginRelease_waits (s.ctx h) _ _ w]
          simp only [HeadCtx.mapHead_head, Head.virtualOpen_eq]
          exact ⟨Head.rest_restsIn _ s.now, rfl, rfl, rfl, rfl, rfl, rfl, nofun, fun _ => ⟨rfl, rfl⟩, fun _ n => absurd n o,
            fun _ _ _ => ⟨rfl, rfl, Head.virtualAtOpening_congr rfl rfl _⟩, fun _ _ n => absurd w n⟩
        · rw [HeadCtx.beginRelease_safe_confirmed (x := s.ctx h) w]
          exact ⟨Head.rest_restsIn _ s.now, rfl, rfl, rfl, rfl, rfl, rfl, nofun, fun _ => ⟨rfl, rfl⟩, fun _ n => absurd n o,
            fun _ _ n => absurd n w, fun _ _ _ => ⟨rfl, rfl, rfl, rfl⟩⟩
    · rw [HeadCtx.enterSafe_release (x := s.ctx h) e c p]
      exact ⟨Head.rest_restsIn _ _, rfl, rfl, rfl, rfl, rfl, rfl, fun r' e' => ⟨by cases e'; rfl, rfl, rfl, rfl⟩, nofun, nofun,
        nofun, nofun⟩

/-! ### The last step of a sample (R86, R87, R112) -/

/-- A condition is live now and was not before. -/
def Head.declares (before x : Head) (c : Cond) : Bool :=
  x.isLive c && !before.isLive c

theorem Head.declares_iff {before x : Head} {c : Cond} :
    before.declares x c = true ↔ x.monitor.live.getLsbD c.bit = true ∧ before.monitor.live.getLsbD c.bit = false := by
  simp [Head.declares, Head.isLive, BitSet.has]

theorem HeadCtx.takeDeclared_high {before : Head} {x : HeadCtx} (on : x.head.state ≠ .offline)
    (d : before.declares x.head .high = true) : x.takeDeclared before = x.enterSafe .safeHigh := by
  have safe := HeadCtx.enterSafe_state on .safeHigh
  unfold Head.declares at d
  simp only [HeadCtx.takeDeclared, d, if_true]
  exact if_neg fun c => by rw [safe] at c; cases c.2

theorem HeadCtx.takeDeclared_sensor {before : Head} {x : HeadCtx} (on : x.head.state ≠ .offline)
    (n : before.declares x.head .high = false) (d : before.declares x.head .sensor = true) :
    x.takeDeclared before = x.enterSafe .safeSensor := by
  have safe := HeadCtx.enterSafe_state on .safeSensor
  unfold Head.declares at d n
  simp only [HeadCtx.takeDeclared, d, n, if_true]
  exact if_neg fun c => by
    have running : (x.enterSafe .safeSensor).head.state = .running := c.2
    rw [safe] at running; cases running

theorem HeadCtx.takeDeclared_platen {before : Head} {x : HeadCtx} (n1 : before.declares x.head .high = false)
    (n2 : before.declares x.head .sensor = false) :
    x.takeDeclared before =
      if before.declares x.head .platen = true ∧ x.head.state = .running then x.abnormal .platenFault .ready true else x := by
  unfold Head.declares at *
  simp only [HeadCtx.takeDeclared, n1, n2]
  rfl

/-- The last step of a sample, as one act. -/
theorem State.actHead_takeDeclared {before : Head} (on : (s.head h).state ≠ .offline) :
    s.takesDeclared h before.monitor.live (s.actHead h (HeadCtx.takeDeclared before)) := by
  have high := Head.declares_iff (before := before) (x := s.head h) (c := .high)
  have sensor := Head.declares_iff (before := before) (x := s.head h) (c := .sensor)
  have platen := Head.declares_iff (before := before) (x := s.head h) (c := .platen)
  unfold State.takesDeclared
  rcases d1 : before.declares (s.head h) .high with _ | _
  · rcases d2 : before.declares (s.head h) .sensor with _ | _
    · have n1 := high.not.1 (by simp [d1])
      have n2 := sensor.not.1 (by simp [d2])
      have eq : (s.ctx h).takeDeclared before = _ := HeadCtx.takeDeclared_platen (x := s.ctx h) d1 d2
      refine ⟨fun d => absurd d n1, fun d => absurd d n2, fun _ d3 running => ?_, fun _ d3 => State.actHead_unmoved ?_⟩
      · rw [State.actHead_congr (g := HeadCtx.abnormal .platenFault .ready true) (eq.trans (if_pos ⟨platen.2 d3, running⟩))]
        exact State.actHead_ends h (by decide) .ready true
      · exact eq.trans (if_neg fun c => d3 (platen.1 c.1) c.2)
    · have n1 := high.not.1 (by simp [d1])
      have eq : (s.ctx h).takeDeclared before = _ := HeadCtx.takeDeclared_sensor (x := s.ctx h) on d1 d2
      have toSafe := sensor.1 d2
      refine ⟨fun d => absurd d n1, fun _ _ safe => ?_, fun n => absurd (.inr toSafe) n, fun c _ => State.actHead_unmoved ?_⟩
      · rw [State.actHead_congr eq]
        exact State.actHead_enterSafe (not_or.2 ⟨safe, on⟩) (by decide)
      · exact eq.trans (HeadCtx.enterSafe_stays (.inl (c (.inr toSafe))) _)
  · have eq : (s.ctx h).takeDeclared before = _ := HeadCtx.takeDeclared_high (x := s.ctx h) on d1
    have toSafe := high.1 d1
    refine ⟨fun _ safe => ?_, fun _ n => absurd toSafe n, fun n => absurd (.inl toSafe) n, fun c _ => State.actHead_unmoved ?_⟩
    · rw [State.actHead_congr eq]
      exact State.actHead_enterSafe (not_or.2 ⟨safe, on⟩) (by decide)
    · exact eq.trans (HeadCtx.enterSafe_stays (.inl (c (.inl toSafe))) _)

theorem Head.obtain_eq (x : Head) (port : Option Nat) :
    x.obtain port = if x.params.loopMode = .dry then some x.tempSet else port.map (min 4000) := by
  by_cases dry : x.params.loopMode = .dry <;> simp [Head.obtain, Head.isDry, dry]

/-- The first six steps of a sample take no head OFFLINE. -/
theorem Head.sampled.online {now due : Nat} {m : Option Nat} {both : Bool} {y x : Head} (d : y.sampled now due m both x)
    (on : x.state ≠ .offline) : y.state ≠ .offline := by
  obtain ⟨-, -, -, -, -, -, -, stays, readied⟩ := d
  by_cases ready : x.state = .heating ∧ 16 ≤ y.monitor.ready
  · rw [(readied ready).1.1, if_neg fun c => by cases c.1]; decide
  · have state := congrArg Head.state (stays ready)
    exact fun off => on (state ▸ off)

end Sys2Proof.Machine

open Sys2Proof Sys2Proof.Machine

/-- Settles O52: six steps that stay at the head (`State.sample_spec`), and the seventh (`State.actHead_takeDeclared`). -/
theorem sampleJudgesReading : Obligations.SampleJudgesReading := by
  unfold Obligations.SampleJudgesReading
  intro s h reading closedLevel openLevel heard x m outcome
  refine ⟨fun stopped => ?_, fun due runs on => ?_⟩
  · simp only [outcome, exec, execSample]
    rw [show (s.head h).monitor.sampleTimer = none from stopped]
    rfl
  · intro later
    obtain ⟨x', sampled, act⟩ := State.sample_spec later h due reading
    have lines : later.lines.heads.get h = ⟨reading, closedLevel, openLevel⟩ := Bank.get_set_self _ _ _
    have taken : outcome = .next (later.actHead h (HeadCtx.sampleAt due reading)) := by
      simp only [outcome, exec, execSample]
      rw [show (s.head h).monitor.sampleTimer = some due from runs]
      rfl
    rw [lines, Head.obtain_eq] at sampled
    refine ⟨_, x', taken.trans (congrArg Host.Outcome.next act), sampled, ?_⟩
    refine State.actHead_takeDeclared (before := x) ?_
    have head : (later.withHead h x' ((s.status h).joinedBy (x'.changesOf x))).head h = x' := Bank.get_set_self _ _ _
    rw [head]
    exact sampled.online on
end

