-- ==== Sys2Proof/Proofs/LinkFree.lean ====
section
/-! PROOFS. No act of a block but PART-RESET's reads or moves the message link (R186, R190). -/

namespace Sys2Proof.Machine

variable {s : State}

/-! ### State operations and the link -/

/-- An operation that neither reads nor moves the message link. -/
def LinkFree (f : State → State) : Prop :=
  ∀ s k, f (s.setLink k) = (f s).setLink k

theorem LinkFree.comp {f g : State → State} (hg : LinkFree g) (hf : LinkFree f) : LinkFree fun s => g (f s) :=
  fun s k => (congrArg g (hf s k)).trans (hg (f s) k)

theorem LinkFree.ite {c : State → Prop} [∀ s, Decidable (c s)] {f g : State → State} (hc : ∀ s k, c (s.setLink k) ↔ c s)
    (hf : LinkFree f) (hg : LinkFree g) : LinkFree fun s => if c s then f s else g s := by
  intro s k
  dsimp only
  by_cases e : c s
  · rw [if_pos e, if_pos ((hc s k).2 e), hf]
  · rw [if_neg e, if_neg ((hc s k).not.2 e), hg]

theorem State.changeCauses_linkFree (x : Byte) : LinkFree (State.changeCauses x) :=
  LinkFree.ite (fun _ _ => Iff.rfl) (fun _ _ => rfl) fun _ _ => rfl

theorem State.postCause_linkFree (c : Cause) : LinkFree (State.postCause c) :=
  fun s k => State.changeCauses_linkFree (BitSet.add s.causes c.bit) s k

theorem State.dropCause_linkFree (c : Cause) : LinkFree (State.dropCause c) :=
  fun s k => State.changeCauses_linkFree (BitSet.remove s.causes c.bit) s k

theorem State.evalHeadSafe_linkFree : LinkFree State.evalHeadSafe :=
  LinkFree.ite (c := fun s => s.heads.toList.any Head.holdsSafe = true) (fun _ _ => Iff.rfl) (State.postCause_linkFree _)
    (State.dropCause_linkFree _)

theorem State.crossManifest_linkFree (t : Track) : LinkFree (State.crossManifest t) :=
  LinkFree.ite (c := fun s => t.manifestLow = s.track.manifestLow) (fun _ _ => Iff.rfl) (fun _ _ => rfl) fun _ _ => rfl

theorem HeadEffect.apply_linkFree (e : HeadEffect) : LinkFree e.apply := by
  cases e with
  | result | reasons => exact fun _ _ => rfl
  | cause c => exact State.postCause_linkFree c

theorem applyEffects_linkFree (l : List HeadEffect) : LinkFree (applyEffects l) := by
  induction l with
  | nil => exact fun _ _ => rfl
  | cons e l ih => exact ih.comp e.apply_linkFree

theorem State.actHead_linkFree (h : Fin 16) (f : HeadCtx → HeadCtx) : LinkFree (State.actHead h f) := by
  intro s k
  have acted : LinkFree fun t : State => if ((f (s.ctx h)).head.state == .safe) = ((s.head h).state == .safe) then
      applyEffects (f (s.ctx h)).out ((t.putHead h (f (s.ctx h)).head).putStatus h (f (s.ctx h)).status)
      else (applyEffects (f (s.ctx h)).out ((t.putHead h (f (s.ctx h)).head).putStatus h (f (s.ctx h)).status)).evalHeadSafe := by
    have effects : LinkFree fun t : State =>
        applyEffects (f (s.ctx h)).out ((t.putHead h (f (s.ctx h)).head).putStatus h (f (s.ctx h)).status) :=
      (applyEffects_linkFree _).comp (f := fun t : State => (t.putHead h (f (s.ctx h)).head).putStatus h (f (s.ctx h)).status)
        fun _ _ => rfl
    exact LinkFree.ite (fun _ _ => Iff.rfl) effects (State.evalHeadSafe_linkFree.comp effects)
  exact acted s k

theorem State.actHeads_linkFree (f : Fin 16 → HeadCtx → HeadCtx) (hs : List (Fin 16)) : LinkFree (State.actHeads f hs) := by
  induction hs with
  | nil => exact fun _ _ => rfl
  | cons h rest ih => exact ih.comp (State.actHead_linkFree h (f h))

theorem State.discharge_linkFree (n : Nest) : LinkFree (State.discharge n) := by
  have set : LinkFree fun s : State => s.setTrack (s.track.report n) := fun _ _ => rfl
  exact LinkFree.ite (fun _ _ => Iff.rfl) ((State.postCause_linkFree .outcomeBacklog).comp set) set

theorem dischargeAll_linkFree (l : List Nest) : LinkFree (dischargeAll l) := by
  induction l with
  | nil => exact fun _ _ => rfl
  | cons n l ih => exact ih.comp (State.discharge_linkFree n)

theorem State.stopTrack_linkFree : LinkFree State.stopTrack := by
  intro s k
  have first : LinkFree fun t : State => t.setTrack { t.track with stallTimer := none } := fun _ _ => rfl
  have halted : LinkFree fun t : State =>
      t.setTrack { t.track with slots := List.replicate t.track.config.length none, mode := .halted } := fun _ _ => rfl
  have abandoned : LinkFree fun t : State => t.setGate t.gate.abandon := fun _ _ => rfl
  have whole := abandoned.comp ((State.actHeads_linkFree (fun _ => HeadCtx.trackStop) allHeads).comp
    (halted.comp ((dischargeAll_linkFree (s.track.nests.map fun n => n.purge (s.gate.decided n.serial))).comp first)))
  exact whole s k

theorem State.trackIndexStart_linkFree : LinkFree State.trackIndexStart := by
  intro s k
  rcases e : s.track.index with _ | _
  · rw [State.trackIndexStart_dwell e, State.trackIndexStart_dwell (s := s.setLink k) e]; rfl
  · rw [State.trackIndexStart_moving e, State.trackIndexStart_moving (s := s.setLink k) e]; rfl

theorem State.gateIndexStart_linkFree : LinkFree State.gateIndexStart := by
  intro s k
  have posts : LinkFree fun t : State => (t.postCause .gateCut).postTrack .gateCut :=
    LinkFree.comp (g := State.postTrack .gateCut) (fun _ _ => rfl) (State.postCause_linkFree .gateCut)
  rcases e : s.gate.activity with _ | a
  · rw [State.gateIndexStart_eq.1 e, (State.gateIndexStart_eq (s := s.setLink k)).1 e]
  · rcases c : s.gate.cuts with _ | _
    · rw [State.gateIndexStart_uncut c, State.gateIndexStart_uncut (s := s.setLink k) c]
    · obtain ⟨v, hv, eq⟩ := (State.gateIndexStart_eq.2 a e).2 ((Gate.cuts_iff e).1 c)
      obtain ⟨w, hw, eq'⟩ := ((State.gateIndexStart_eq (s := s.setLink k)).2 a e).2 ((Gate.cuts_iff e).1 c)
      have same : w = v.setLink k := by rw [hv, hw]; rfl
      rw [eq, eq', same]
      exact posts (v.setGate _) k

theorem State.takeIndexStart_linkFree : LinkFree State.takeIndexStart :=
  State.gateIndexStart_linkFree.comp
    ((State.actHeads_linkFree (fun _ => HeadCtx.indexStart) allHeads).comp State.trackIndexStart_linkFree)

/-! ### Acts of requests and the link -/

/-- An act that neither reads nor moves the message link, and answers without it. -/
def ActLinkFree (act : State → State × Option Answer) : Prop :=
  ∀ s k, act (s.setLink k) = ((act s).1.setLink k, (act s).2)

theorem ActLinkFree.of {f : State → State} {a : State → Option Answer} (hf : LinkFree f)
    (ha : ∀ s k, a (s.setLink k) = a s) : ActLinkFree fun s => (f s, a s) :=
  fun s k => Prod.ext (hf s k) (ha s k)

/-- An answer without a change of the state. -/
theorem ActLinkFree.reply {a : State → Answer} (ha : ∀ s k, a (s.setLink k) = a s) : ActLinkFree fun s => answered (a s) s :=
  fun s k => Prod.ext rfl (congrArg some (ha s k))

theorem ActLinkFree.ite {c : State → Prop} [∀ s, Decidable (c s)] {f g : State → State × Option Answer}
    (hc : ∀ s k, c (s.setLink k) ↔ c s) (hf : ActLinkFree f) (hg : ActLinkFree g) :
    ActLinkFree fun s => if c s then f s else g s := by
  intro s k
  dsimp only
  by_cases e : c s
  · rw [if_pos e, if_pos ((hc s k).2 e)]; exact hf s k
  · rw [if_neg e, if_neg ((hc s k).not.2 e)]; exact hg s k

/-- A check that refuses, and what follows it. -/
theorem ActLinkFree.guard {c : State → Prop} [∀ s, Decidable (c s)] {refusal : Answer} {f : State → State × Option Answer}
    (hf : ActLinkFree f) (hc : ∀ s k, c (s.setLink k) ↔ c s := by exact fun _ _ => Iff.rfl) :
    ActLinkFree fun s => if c s then answered refusal s else f s :=
  .ite hc (.reply fun _ _ => rfl) hf

/-- The act of a request that names a head: the number looked at first. -/
theorem ActLinkFree.head {head : Byte} {refusal : Answer} {act : Fin 16 → State → State × Option Answer}
    (h : ∀ h, ActLinkFree (act h)) :
    ActLinkFree fun s => match headOf head with | none => answered refusal s | some h => act h s := by
  rcases headOf head with _ | i
  · exact ActLinkFree.reply fun _ _ => rfl
  · exact h i

/-- An act at one head, answered by what it leaves there or by nothing of the state. -/
theorem ActLinkFree.actHead {h : Fin 16} {f : HeadCtx → HeadCtx} {a : State → Answer} (ha : ∀ s k, a (s.setLink k) = a s) :
    ActLinkFree fun s => answered (a (s.actHead h f)) (s.actHead h f) := by
  intro s k
  have e := State.actHead_linkFree h f s k
  exact Prod.ext e (congrArg some ((congrArg a e).trans (ha _ k)))

theorem actTrackSetup_linkFree (r : TrackSetupReq) : ActLinkFree (actTrackSetup r) :=
  .guard (.guard (.guard (.of (fun s k => State.crossManifest_linkFree _ s k) fun _ _ => rfl)))

theorem actGateSetup_linkFree (r : GateSetupReq) : ActLinkFree (actGateSetup r) :=
  .guard (.guard (.of (fun _ _ => rfl) fun _ _ => rfl))

theorem actTrackStart_linkFree (flags : Byte) : ActLinkFree (actTrackStart flags) :=
  .guard (.guard (.of (fun _ _ => rfl) fun _ _ => rfl))

theorem actTrackStop_linkFree : ActLinkFree actTrackStop :=
  .guard (.of State.stopTrack_linkFree fun _ _ => rfl)

theorem actStep_linkFree : ActLinkFree actStep := by
  have scheduled (due : Nat) : LinkFree fun t : State => t.setTrack { t.track with steps := t.track.steps ++ [due] } :=
    fun _ _ => rfl
  have stepped : LinkFree fun s : State =>
      s.takeIndexStart.setTrack { s.takeIndexStart.track with steps := s.takeIndexStart.track.steps ++ [s.now + 1] } :=
    fun s k => (scheduled (s.now + 1)).comp State.takeIndexStart_linkFree s k
  exact .guard (.guard (.of stepped fun _ _ => rfl))

theorem actManifestPost_linkFree (codes : Lanes Byte) : ActLinkFree (actManifestPost codes) := by
  refine .guard fun s k => ?_
  dsimp only [State.setLink_library]
  rcases s.library.manifestFault (codes.map BitVec.toNat) allLanes with _ | ⟨r, lane⟩
  · exact Prod.ext (State.crossManifest_linkFree _ s k) rfl
  · rfl

theorem actManifestFlush_linkFree : ActLinkFree actManifestFlush :=
  .of (fun s k => State.crossManifest_linkFree _ s k) fun _ _ => rfl

theorem actVerdict_linkFree (serial : Half) (mask reason : Byte) : ActLinkFree (actVerdict serial mask reason) := by
  refine .guard fun s k => ?_
  dsimp only [State.setLink_track]
  rcases s.track.find serial.toNat with _ | ⟨p, n⟩ <;> rfl

theorem actHoldRelease_linkFree : ActLinkFree actHoldRelease := by
  intro s k
  have e := State.changeCauses_linkFree (s.causes &&& liveCauses) s k
  have causes := congrArg State.causes e
  exact Prod.ext e (congrArg (fun x : Byte => some (Answer.ok [x])) causes)

theorem actNestQuery_linkFree (serial : Half) : ActLinkFree (actNestQuery serial) := by
  refine .guard fun s k => ?_
  dsimp only [State.setLink_track]
  rcases s.track.find serial.toNat with _ | ⟨p, n⟩ <;> rfl

theorem actFormatPut_linkFree (r : FormatReq) : ActLinkFree (actFormatPut r) := by
  unfold actFormatPut
  rcases formatOf r with _ | f
  · exact .reply fun _ _ => rfl
  · exact .guard (.guard (.of (fun _ _ => rfl) fun _ _ => rfl))

theorem actFormatDrop_linkFree (code : Byte) : ActLinkFree (actFormatDrop code) :=
  .guard (.guard (.ite (fun _ _ => .rfl) (.reply fun _ _ => rfl) (.of (fun _ _ => rfl) fun _ _ => rfl)))

theorem actProfilePut_linkFree (id : Byte) (segments : List SegmentReq) : ActLinkFree (actProfilePut id segments) := by
  refine .guard ?_
  rcases segmentList segments with _ | gs
  · exact .reply fun _ _ => rfl
  · dsimp only
    rcases profileFault gs with _ | n
    · exact .ite (fun _ _ => .rfl) (.reply fun _ _ => rfl) (.of (fun _ _ => rfl) fun _ _ => rfl)
    · exact .reply fun _ _ => rfl

theorem actProfileDrop_linkFree (id : Byte) : ActLinkFree (actProfileDrop id) := by
  refine .guard (.guard fun s k => ?_)
  dsimp only [State.setLink_library]
  rcases s.library.lowestNaming id.toNat with _ | code <;> rfl

theorem actCoeffRead_linkFree (head : Byte) : ActLinkFree (actCoeffRead head) :=
  .head fun _ => .guard (.of (fun _ _ => rfl) fun _ _ => rfl)

theorem actCoeffWrite_linkFree (head : Byte) (items : CoeffItems) : ActLinkFree (actCoeffWrite head items) :=
  .head fun _ => .guard (.guard (.of (fun _ _ => rfl) fun _ _ => rfl))

theorem actHeadSetup_linkFree (head : Byte) (r : HeadSetupReq) : ActLinkFree (actHeadSetup head r) := by
  refine .head fun h => .guard ?_
  rcases headParamsOf r with _ | p
  · exact .reply fun _ _ => rfl
  · exact .guard (.guard (.of (fun _ _ => rfl) fun _ _ => rfl))

theorem actHeadOnline_linkFree (head : Byte) : ActLinkFree (actHeadOnline head) :=
  .head fun h => .guard (.guard (.guard (.actHead (a := stateEntered h) fun _ _ => rfl)))

theorem actHeadClear_linkFree (head : Byte) : ActLinkFree (actHeadClear head) :=
  .head fun h => .guard (.actHead (a := stateEntered h) fun _ _ => rfl)

theorem actHeadRelease_linkFree (head : Byte) : ActLinkFree (actHeadRelease head) :=
  .head fun h => .guard (.actHead (a := stateEntered h) fun _ _ => rfl)

theorem actHeadHalt_linkFree (head : Byte) : ActLinkFree (actHeadHalt head) :=
  .head fun _ => .ite (fun _ _ => .rfl) (.of (State.actHead_linkFree _ _) fun _ _ => rfl) (.reply fun _ _ => rfl)

theorem actHeadCancel_linkFree (head : Byte) : ActLinkFree (actHeadCancel head) :=
  .head fun _ => .ite (fun _ _ => .rfl) (.of (State.actHead_linkFree _ _) fun _ _ => rfl) (.reply fun _ _ => rfl)

theorem actCountZero_linkFree (flags head : Byte) : ActLinkFree (actCountZero flags head) :=
  .ite (fun _ _ => .rfl) (.of (State.actHeads_linkFree _ _) fun _ _ => rfl)
    (.head fun _ => .of (State.actHead_linkFree _ _) fun _ _ => rfl)

theorem actCycleOnce_linkFree (head : Byte) (r : CycleOnceReq) : ActLinkFree (actCycleOnce head r) := by
  refine .head fun h => .guard (.guard (.guard fun s k => ?_))
  dsimp only [State.setLink_library]
  rcases s.library.profile r.profile.toNat with _ | gs
  · rfl
  · exact Prod.ext (State.actHead_linkFree _ _ s k) rfl

theorem actInject_linkFree (head count : Byte) : ActLinkFree (actInject head count) :=
  .head fun _ => .guard (.guard (.of (fun _ _ => rfl) fun _ _ => rfl))

/-- No act but PART-RESET's reads or moves the message link. -/
theorem requestAct_linkFree {i : Instr} (ne : ∀ tag, i ≠ .partReset tag) : ActLinkFree (requestAct i) := by
  cases i with
  | partReset tag => exact absurd rfl (ne tag)
  | trackSetup tag r => exact actTrackSetup_linkFree r
  | gateSetup tag r => exact actGateSetup_linkFree r
  | headSetup tag h r => exact actHeadSetup_linkFree h r
  | headEnables tag h m g => exact .head fun _ => .of (State.actHead_linkFree _ _) fun _ _ => rfl
  | formatPut tag r => exact actFormatPut_linkFree r
  | formatDrop tag c => exact actFormatDrop_linkFree c
  | profilePut tag id gs => exact actProfilePut_linkFree id gs
  | profileDrop tag id => exact actProfileDrop_linkFree id
  | trackStart tag g => exact actTrackStart_linkFree g
  | trackStop tag => exact actTrackStop_linkFree
  | manifestPost tag c => exact actManifestPost_linkFree c
  | manifestFlush tag => exact actManifestFlush_linkFree
  | verdict tag n m r => exact actVerdict_linkFree n m r
  | holdRelease tag => exact actHoldRelease_linkFree
  | headOnline tag h => exact actHeadOnline_linkFree h
  | headOffline tag h => exact .head fun _ => .of (State.actHead_linkFree _ _) fun _ _ => rfl
  | headHalt tag h => exact actHeadHalt_linkFree h
  | headCancel tag h => exact actHeadCancel_linkFree h
  | headClear tag h => exact actHeadClear_linkFree h
  | headRelease tag h => exact actHeadRelease_linkFree h
  | statusTake tag h => exact .head fun _ => .of (fun _ _ => rfl) fun _ _ => rfl
  | trackStatusTake tag g m => exact .of (fun _ _ => rfl) fun _ _ => rfl
  | headQuery tag h => exact .head fun _ => .reply fun _ _ => rfl
  | trackQuery tag => exact .reply fun _ _ => rfl
  | nestQuery tag n => exact actNestQuery_linkFree n
  | countSnapshot tag => exact .of (fun _ _ => rfl) fun _ _ => rfl
  | countRead tag h => exact .head fun _ => .reply fun _ _ => rfl
  | countZero tag g h => exact actCountZero_linkFree g h
  | coeffRead tag h => exact actCoeffRead_linkFree h
  | coeffWrite tag h c => exact actCoeffWrite_linkFree h c
  | storeQuery tag => exact .reply fun _ _ => rfl
  | cycleOnce tag h r => exact actCycleOnce_linkFree h r
  | inject tag h n => exact actInject_linkFree h n
  | step tag => exact actStep_linkFree
  | _ => exact fun _ _ => rfl

end Sys2Proof.Machine
end

