-- ==== Sys2Proof/Proofs/LastByte.lean ====
section
/-! PROOFS. The last byte of a message, and the frame that the slot it frees takes (R19, R42, R185, R187, R189). -/

namespace Sys2Proof.Machine

variable {s : State}

/-! ### The request that a frame spells (R186, R200) -/

/-- What is judged a request is one of a kind and a tag, and no unknown kind. -/
def spells (kind tag : Byte) (j : Judged) : Prop :=
  ∀ i, j = .request i → (∃ p, encodeFrame i = some ⟨kind, tag, p⟩) ∧ ∀ k t q, i ≠ .unknownKindFrame k t q

theorem spells_request {kind tag : Byte} {i : Instr} (e : ∃ p, encodeFrame i = some ⟨kind, tag, p⟩)
    (ne : ∀ k t q, i ≠ .unknownKindFrame k t q) : spells kind tag (.request i) := by
  rintro _ ⟨⟩
  exact ⟨e, ne⟩

theorem spells_badLength (kind tag : Byte) : spells kind tag .badLength := nofun

theorem payloadProfilePut_spells (tag : Byte) (p : List Byte) : spells Kind.profilePut tag (payloadProfilePut tag p) := by
  unfold payloadProfilePut
  split
  · split
    · split
      · exact spells_request ⟨_, rfl⟩ nofun
      · exact spells_badLength _ _
    · exact spells_badLength _ _
  · exact spells_badLength _ _

/-- A frame judged to be a request is of that request's kind and tag. -/
theorem decodeFrame_spells (f : Frame) : spells f.kind f.tag (decodeFrame f) := by
  have byte {b : Byte} {n : Nat} (e : b.toNat = n) : b = BitVec.ofNat 8 n := by
    subst e; simp
  unfold decodeFrame
  split
  case h_8 e => rw [byte e]; exact payloadProfilePut_spells _ _
  case h_36 => exact nofun
  all_goals
    rename_i e
    rw [byte e]
    simp only [payloadPartReset, payloadTrackSetup, payloadGateSetup, payloadHeadSetup, payloadHeadEnables, payloadFormatPut,
      payloadFormatDrop, payloadProfileDrop, payloadTrackStart, payloadTrackStop, payloadManifestPost, payloadManifestFlush,
      payloadVerdict, payloadHoldRelease, payloadHeadOnline, payloadHeadOffline, payloadHeadHalt, payloadHeadCancel,
      payloadHeadClear, payloadHeadRelease, payloadStatusTake, payloadTrackStatusTake, payloadHeadQuery, payloadTrackQuery,
      payloadNestQuery, payloadCountSnapshot, payloadCountRead, payloadCountZero, payloadCoeffRead, payloadCoeffWrite,
      payloadStoreQuery, payloadCycleOnce, payloadInject, payloadStep]
    split
    · exact spells_request ⟨_, rfl⟩ nofun
    · exact spells_badLength _ _

/-! ### Frames taken from the buffer (R185, R186) -/

/-- The state with other frames waiting in the receive buffer. -/
def State.waiting (frames : List Frame) (s : State) : State :=
  s.setLink { s.link with buffer := frames }

theorem State.takeFrames_stop (stop : s.link.buffer = [] ∨ 8 ≤ s.link.slotsUsed) (n : Nat) : s.takeFrames n = s := by
  cases n with
  | zero => rfl
  | succ n =>
    rw [State.takeFrames]
    rcases e : s.link.buffer with _ | ⟨f, rest⟩
    · rfl
    · have full : 8 ≤ s.link.slotsUsed := stop.resolve_left (by simp [e])
      exact if_neg (mt (Link.slotFree_iff _).1 (by omega))

theorem State.resumeTaking_stop (stop : s.link.buffer = [] ∨ 8 ≤ s.link.slotsUsed) : s.resumeTaking = s :=
  State.takeFrames_stop stop _

/-- A free slot takes the frame at the head of the buffer, and no other where that fills the slots or empties the buffer. -/
theorem State.resumeTaking_once {f : Frame} {rest : List Frame} (free : s.link.slotsUsed < 8)
    (stop : ((s.waiting rest).takeFrame f).link.buffer = [] ∨ 8 ≤ ((s.waiting rest).takeFrame f).link.slotsUsed) :
    (s.waiting (f :: rest)).resumeTaking = (s.waiting rest).takeFrame f :=
  (if_pos ((Link.slotFree_iff _).2 free)).trans (State.takeFrames_stop stop _)

theorem ActLinkFree.link {act : State → State × Option Answer} (h : ActLinkFree act) : (act s).1.link = s.link :=
  congrArg (fun r => r.1.link) (h s s.link)

/-- An act that knows nothing of the link fills or reserves one slot and leaves the buffer. -/
theorem ActLinkFree.take_slotsUsed {act : State → State × Option Answer} (h : ActLinkFree act) (kind tag : Byte) :
    (s.take kind tag act).link.slotsUsed = s.link.slotsUsed + 1 := by
  have link := h.link (s := s)
  unfold State.take Link.slotsUsed
  generalize act s = r at link ⊢
  rcases r with ⟨u, _ | a⟩ <;> dsimp only at link ⊢
  · rw [State.mapLink, State.setLink_link, link]
    simp only [Link.reserve, List.length_append, List.length_singleton]
    omega
  · rw [State.mapLink, State.setLink_link, link]
    simp only [Link.fill, List.length_append, List.length_singleton]
    omega

/-- What such an act does is the same whatever waits in the buffer. -/
theorem ActLinkFree.take_waiting {act : State → State × Option Answer} (h : ActLinkFree act) (kind tag : Byte)
    (frames : List Frame) : (s.waiting frames).take kind tag act = (s.take kind tag act).waiting frames := by
  have link := h.link (s := s)
  unfold State.take State.waiting
  rw [h]
  generalize act s = r at link ⊢
  rcases r with ⟨u, _ | a⟩ <;> dsimp only at link ⊢
  · simp only [State.mapLink, State.setLink_link, link]
    rfl
  · simp only [State.mapLink, State.setLink_link, link]
    rfl

/-- A frame that spells a request is taken as that request's command is. -/
theorem exec_of_decodeFrame {f : Frame} {i : Instr} (now : s.takesNow) (e : decodeFrame f = .request i) :
    exec i s = .next (s.takeFrame f) := by
  obtain ⟨⟨p, code⟩, known⟩ := decodeFrame_spells f i e
  rw [exec_of_takesNow now code known, State.takeFrame, e]

theorem decodeFrame_partReset {f : Frame} {i : Instr} (kind : f.kind = 0x01) (e : decodeFrame f = .request i) :
    i = .partReset f.tag := by
  rw [decodeFrame, kind] at e
  change payloadPartReset f.tag f.payload = .request i at e
  unfold payloadPartReset at e
  split at e
  · exact (Judged.request.inj e).symm
  · exact nomatch e

theorem decodeFrame_ne_partReset {f : Frame} {i : Instr} (kind : f.kind ≠ 0x01) (e : decodeFrame f = .request i) (tag : Byte) :
    i ≠ .partReset tag := by
  rintro rfl
  obtain ⟨⟨p, code⟩, -⟩ := decodeFrame_spells f _ e
  exact kind (congrArg Frame.kind (Option.some.inj code)).symm

/-- The frame of a request taken into the last free slot: PART-RESET empties the buffer, every other leaves it (R185, R190). -/
theorem State.resumeTaking_request {f : Frame} {rest : List Frame} {i : Instr} (last : s.link.slotsUsed = 7)
    (e : decodeFrame f = .request i) :
    (s.waiting (f :: rest)).resumeTaking = if f.kind = 0x01 then s.takeFrame f else (s.takeFrame f).waiting rest := by
  have free : s.link.slotsUsed < 8 := by omega
  have taken : ∀ t : State, t.takeFrame f = t.take f.kind f.tag (requestAct i) := fun t => by rw [State.takeFrame, e]
  by_cases kind : f.kind = 0x01
  · obtain rfl := decodeFrame_partReset kind e
    have emptied : (s.waiting rest).takeFrame f = s.takeFrame f := by rw [taken, taken]; rfl
    rw [if_pos kind, ← emptied]
    exact State.resumeTaking_once free (.inl (by rw [emptied, taken]; rfl))
  · have act := requestAct_linkFree (decodeFrame_ne_partReset kind e)
    have waits : (s.waiting rest).takeFrame f = (s.takeFrame f).waiting rest := by rw [taken, taken, act.take_waiting]
    rw [if_neg kind, ← waits]
    refine State.resumeTaking_once free (.inr ?_)
    have filled := act.take_slotsUsed (s := s.waiting rest) f.kind f.tag
    have same : (s.waiting rest).link.slotsUsed = s.link.slotsUsed := rfl
    rw [taken]; omega

/-- A frame refused into the last free slot (R186). -/
theorem State.resumeTaking_refused {f a : Frame} {rest : List Frame} (last : s.link.slotsUsed = 7)
    (refused : (s.waiting rest).takeFrame f = (s.waiting rest).mapLink (Link.fill a)) :
    (s.waiting (f :: rest)).resumeTaking = (s.waiting rest).mapLink (Link.fill a) := by
  rw [← refused]
  refine State.resumeTaking_once (by omega) (.inr ?_)
  rw [refused]
  simp only [Link.slotsUsed] at last
  simp only [State.mapLink, State.waiting, State.setLink_link, Link.fill, Link.slotsUsed, List.length_append,
    List.length_singleton]
  omega

/-! ### The sources of a message (R19, R42, R189) -/

/-- A report leaves the outcome queue; OUTCOME_BACKLOG leaves at the removal that leaves four, and only then can the cause set
become empty. -/
theorem State.removeReport_eq :
    let causes := if s.track.outcomes.length = 5 then s.causes &&& 0x7F else s.causes
    s.removeReport = ((s.setTrack { s.track with outcomes := s.track.outcomes.tail }).setCauseSet causes).setTrackStatus
      (if s.causes ≠ 0 ∧ causes = 0 then s.trackStatus.post .holdChanged else s.trackStatus) := by
  intro causes
  change (if s.track.outcomes.length = 5 then State.dropCause _ (s.setTrack _) else s.setTrack _) = _
  by_cases five : s.track.outcomes.length = 5
  · have removed : causes = s.causes &&& 0x7F := if_pos five
    have dropped : BitSet.remove s.causes Cause.outcomeBacklog.bit = causes := by rw [removed]; rfl
    have empty : s.causes = 0 → causes = 0 := fun none => by rw [removed, none]; rfl
    rw [if_pos five, State.dropCause, State.changeCauses_eq]
    change ((s.setTrack _).setCauseSet (BitSet.remove s.causes Cause.outcomeBacklog.bit)).setTrackStatus
      (if BitSet.remove s.causes Cause.outcomeBacklog.bit = 0 ↔ s.causes = 0 then s.trackStatus
        else s.trackStatus.post .holdChanged) = _
    rw [dropped]
    refine congrArg (State.setTrackStatus _) ?_
    by_cases same : causes = 0 ↔ s.causes = 0
    · rw [if_pos same, if_neg fun both => both.1 (same.1 both.2)]
    · have emptied : s.causes ≠ 0 ∧ causes = 0 := by tauto
      rw [if_neg same, if_pos emptied]
  · have kept : causes = s.causes := if_neg five
    rw [if_neg five, kept, if_neg (fun both => both.1 both.2)]
    rfl

theorem execMessageLastByte_eq {m : Sending} (sending : s.link.sending = some m) :
    exec .messageLastByte s = .next ((s.advanceTo m.due).endMessage m.source).resumeTaking := by
  change execMessageLastByte s = _
  rw [execMessageLastByte, sending]

end Sys2Proof.Machine

open Sys2Proof Sys2Proof.Machine

/-- Settles O12, by the source: only a reply frees a slot, and where a frame waits that slot is the only free one, so one frame
is taken and the next waits on. -/
theorem lastByteActsOnSource : Obligations.LastByteActsOnSource := by
  intro s m sending full free
  have waits : s.link.buffer = [] ∨ 8 ≤ s.link.slotsUsed := by
    by_cases empty : s.link.buffer = []
    · exact .inl empty
    · exact .inr (full empty).ge
  rw [execMessageLastByte_eq sending]
  refine ⟨fun reply empty => ?_, fun reply f rest buffer filled => ?_, fun report => ?_, ?_⟩
  · rw [reply]
    exact congrArg _ (State.resumeTaking_stop (.inl empty))
  · rw [reply]
    intro emptied waiting
    have freed : (s.advanceTo m.due).endMessage .reply = emptied.waiting (f :: rest) := by
      rw [← buffer]; rfl
    have last : emptied.link.slotsUsed = 7 := by
      have eight := full (by simp [buffer])
      have one := List.length_pos_iff.2 filled
      change s.link.reserved.length + s.link.filled.tail.length = 7
      rw [List.length_tail]; omega
    have now : emptied.takesNow := ⟨rfl, by simp only [Link.slotsUsed] at last; omega⟩
    rw [freed]
    refine ⟨fun i e => ⟨_, exec_of_decodeFrame now e, ?_⟩, fun e => ?_, fun e => ?_⟩
    · rw [State.resumeTaking_request last e]; rfl
    · exact congrArg _ (State.resumeTaking_refused last (by rw [State.takeFrame, e]; rfl))
    · exact congrArg _ (State.resumeTaking_refused last (by rw [State.takeFrame, e]; rfl))
  · rw [report]
    refine congrArg _ ((State.resumeTaking_stop ?_).trans ?_)
    · change (State.removeReport _).link.buffer = [] ∨ 8 ≤ (State.removeReport _).link.slotsUsed
      rw [State.removeReport_eq]
      exact waits
    · exact State.removeReport_eq
  · rintro (source | source) <;> rw [source] <;> exact congrArg _ (State.resumeTaking_stop waits)
end

section
/-! PROOFS. The manifest queue (R26, R28, R30), and verdicts on the packs of a nest (R33 to R36). -/

namespace Sys2Proof.Machine

variable {s : State}

section Manifests

/-! ### Checks of a manifest (R26) -/

variable {l : Library} {lane : Fin 8}

/-- Whether a lane code passes: 0, or the code of a stored format that allows the lane (R26). -/
def Library.passes (l : Library) (lane : Fin 8) (code : Nat) : Prop :=
  code = 0 ∨ ∃ f, l.format code = some f ∧ f.laneMask.getLsbD lane.val = true

theorem Library.laneFault_eq_none {code : Nat} : l.laneFault lane code = none ↔ l.passes lane code := by
  unfold Library.laneFault Library.passes BitSet.has
  by_cases empty : code = 0
  · simp [empty]
  · rcases l.format code with _ | f
    · simp [empty]
    · simp [empty]

/-- The result for a lane code that does not pass: UNKNOWN_FORMAT, or LANE_NOT_ALLOWED where the code is stored (R26). -/
theorem Library.laneFault_of_not_passes {code : Nat} (fails : ¬l.passes lane code) :
    l.laneFault lane code = some (if l.format code = none then .unknownFormat else .laneNotAllowed) := by
  obtain ⟨nonzero, forbids⟩ := not_or.1 fails
  unfold Library.laneFault BitSet.has
  rw [if_neg nonzero]
  rcases stored : l.format code with _ | f
  · rfl
  · exact if_neg fun allows => forbids ⟨f, stored, allows⟩

theorem Library.manifestFault_eq_none {codes : Lanes Nat} (lanes : List (Fin 8))
    (pass : ∀ i ∈ lanes, l.passes i (codes.get i)) : l.manifestFault codes lanes = none := by
  induction lanes with
  | nil => rfl
  | cons i rest ih =>
    obtain ⟨here, later⟩ := List.forall_mem_cons.1 pass
    rw [Library.manifestFault, Library.laneFault_eq_none.2 here]
    exact ih later

/-- Of lanes in rising order, the first that fails gives its result (R26). -/
theorem Library.manifestFault_first {codes : Lanes Nat} {r : Result} (fault : l.laneFault lane (codes.get lane) = some r)
    (pass : ∀ i < lane, l.passes i (codes.get i)) (lanes : List (Fin 8)) (rising : lanes.Pairwise (· < ·))
    (named : lane ∈ lanes) : l.manifestFault codes lanes = some (r, lane) := by
  induction lanes with
  | nil => cases named
  | cons i rest ih =>
    obtain ⟨below, rising⟩ := List.pairwise_cons.1 rising
    rcases List.mem_cons.1 named with rfl | named
    · rw [Library.manifestFault, fault]
    · rw [Library.manifestFault, Library.laneFault_eq_none.2 (pass i (below lane named))]
      exact ih rising named

theorem allLanes_rising : allLanes.Pairwise (· < ·) := by decide

/-! ### MANIFEST-POST (R26) -/

variable {codes : Lanes Byte}

theorem actManifestPost_full (full : 32 ≤ s.track.manifests.length) :
    actManifestPost codes s = answered (.refuse .queueFull 2) s :=
  if_pos full

theorem actManifestPost_fails (room : s.track.manifests.length < 32)
    (fails : ¬s.library.passes lane (codes.get lane).toNat) (pass : ∀ i < lane, s.library.passes i (codes.get i).toNat) :
    actManifestPost codes s =
      answered
        ⟨if s.library.format (codes.get lane).toNat = none then .unknownFormat else .laneNotAllowed, u8 0 ++ u8 lane.val⟩ s := by
  have fault := Library.manifestFault_first (codes := codes.map BitVec.toNat)
    (by rw [Lanes.get_map]; exact Library.laneFault_of_not_passes fails) (by simpa using pass)
    allLanes allLanes_rising (mem_allLanes lane)
  refine (if_neg room.not_ge).trans ?_
  rw [fault]

theorem actManifestPost_joins (room : s.track.manifests.length < 32)
    (pass : ∀ i, s.library.passes i (codes.get i).toNat) :
    actManifestPost codes s =
      answered (.ok (u8 (s.track.manifests.length + 1) ++ u8 0))
        (s.crossManifest { s.track with manifests := s.track.manifests ++ [codes.map BitVec.toNat] }) := by
  have fault := Library.manifestFault_eq_none (l := s.library) (codes := codes.map BitVec.toNat) allLanes
    fun i _ => by rw [Lanes.get_map]; exact pass i
  refine (if_neg room.not_ge).trans ?_
  rw [fault]

end Manifests

section PackVerdicts

/-! ### A verdict on one pack (R35, R36) -/

variable {mask : Byte} {reason : Nat} {lane : Fin 8} {p : Pack}

theorem Pack.judge_of_empty (empty : p.format = 0) : p.judge mask reason lane = p :=
  if_pos (beq_iff_eq.2 empty)

/-- A verdict before the decision, on a pack that is not empty (R35). -/
theorem Pack.judge_of_full (full : p.format ≠ 0) :
    p.judge mask reason lane =
      if p.verdict = .pending ∨ p.verdict = .good then
        if mask.getLsbD lane.val = true then { p with verdict := .bad reason, reasons := p.reasons ||| 1 }
        else { p with verdict := .good }
      else p := by
  have bit : RejectReason.verdict.set = 1 := rfl
  unfold Pack.judge BitSet.has
  rw [if_neg (by simpa [Pack.isEmpty] using full)]
  cases p.verdict <;> simp [Pack.addReasons, full, bit]

theorem Pack.judgeLate_of_empty (empty : p.format = 0) : p.judgeLate mask lane = p := by
  simp [Pack.judgeLate, verdictNames, Pack.isEmpty, empty]

/-- A verdict after the decision, on a pack that is not empty (R36). -/
theorem Pack.judgeLate_of_full (full : p.format ≠ 0) :
    p.judgeLate mask lane =
      if mask.getLsbD lane.val = true ∧ (p.verdict = .pending ∨ p.verdict = .good) then { p with verdict := .lateBad }
      else p := by
  have names : verdictNames mask lane p = mask.getLsbD lane.val := by
    simp [verdictNames, Pack.isEmpty, full, BitSet.has]
  unfold Pack.judgeLate
  rw [names]
  cases p.verdict <;> simp

/-- A verdict on the pack of a lane, by whether the decision of its nest has been made (R34). -/
def judgeOf (decided : Bool) (mask : Byte) (reason : Nat) : Fin 8 → Pack → Pack :=
  if decided then Pack.judgeLate mask else Pack.judge mask reason

@[simp] theorem judgeOf_false (mask : Byte) (reason : Nat) : judgeOf false mask reason = Pack.judge mask reason := rfl
@[simp] theorem judgeOf_true (mask : Byte) (reason : Nat) : judgeOf true mask reason = Pack.judgeLate mask := rfl

theorem judgeOf_of_empty (decided : Bool) (empty : p.format = 0) : judgeOf decided mask reason lane p = p := by
  cases decided
  · exact Pack.judge_of_empty empty
  · exact Pack.judgeLate_of_empty empty

/-- A verdict on the packs of a nest. -/
def Nest.judged (decided : Bool) (mask : Byte) (reason : Nat) (n : Nest) : Nest :=
  { n with packs := n.packs.mapIdx (judgeOf decided mask reason) }

theorem Nest.judged_get (decided : Bool) (n : Nest) :
    (n.judged decided mask reason).packs.get lane = judgeOf decided mask reason lane (n.packs.get lane) := by
  rw [Nest.judged, Lanes.get_mapIdx]

end PackVerdicts

section Verdicts

/-! ### VERDICT (R33 to R36) -/

variable {serial : Half} {mask reason : Byte}

theorem actVerdict_badValue (bad : serial = 0 ∨ reason = 0 ∨ 15 < reason.toNat) :
    actVerdict serial mask reason s = answered (.refuse .badValue 1) s := by
  refine if_pos (bad.imp_right fun bad => ?_)
  have outside : ¬(1 ≤ reason.toNat ∧ reason.toNat ≤ 15) := by
    rintro ⟨low, high⟩
    rcases bad with rfl | bad
    · exact absurd low (by decide)
    · omega
  simpa [within] using outside

/-- A verdict whose values are in range goes on to its nest. -/
theorem actVerdict_inRange (nonzero : serial ≠ 0) (low : 1 ≤ reason.toNat) (high : reason.toNat ≤ 15) :
    ¬(serial = 0 ∨ within 1 reason.toNat 15 = false) :=
  not_or.2 ⟨nonzero, by simp [within, low, high]⟩

theorem actVerdict_notFound (good : ¬(serial = 0 ∨ within 1 reason.toNat 15 = false))
    (absent : s.track.find serial.toNat = none) : actVerdict serial mask reason s = answered (.refuse .notFound 1) s := by
  refine (if_neg good).trans ?_
  rw [absent]

theorem actVerdict_found (good : ¬(serial = 0 ∨ within 1 reason.toNat 15 = false)) {p : Nat} {n : Nest}
    (found : s.track.find serial.toNat = some (p, n)) :
    actVerdict serial mask reason s =
      answered ⟨if s.gate.decided serial.toNat then .late else .ok, u8 (n.newlyNamed mask)⟩
        (s.setTrack
          (s.track.updateNest serial.toNat (Nest.judged (s.gate.decided serial.toNat) mask reason.toNat))) := by
  refine (if_neg good).trans ?_
  rw [found]
  rfl

/-- A write to the packs of the nests of one serial number moves no other pack (R15). -/
theorem State.packsKept_updateNest {k : Nat} {f : Nest → Nest} (packs : ∀ n, { f n with packs := n.packs } = n) :
    State.packsKept (fun named _ => named = k) s (s.setTrack (s.track.updateNest k f)) := by
  refine ⟨List.length_map _, fun p => ?_⟩
  rw [State.setTrack_track, Track.nestAt_updateNest]
  refine ⟨fun empty => by rw [empty]; rfl, fun n here => ⟨_, by rw [here]; rfl, ?_, fun lane other => ?_⟩⟩
  · dsimp only
    split
    · exact packs n
    · rfl
  · dsimp only
    rw [if_neg other]

/-- The named nest after the write of a verdict stands where it stood. -/
theorem Track.find_judged {t : Track} {k p : Nat} {n : Nest} (decided : Bool) (reason : Nat) (found : t.find k = some (p, n)) :
    (t.updateNest k (Nest.judged decided mask reason)).find k = some (p, n.judged decided mask reason) := by
  rw [Track.find_updateNest t k k (Nest.judged decided mask reason) fun _ => rfl, found]
  exact congrArg some (Prod.ext rfl (if_pos (Track.find_serial found)))

end Verdicts

end Sys2Proof.Machine

open Sys2Proof Sys2Proof.Machine

/-- Settles O23: the checks in their order, where the first lane that fails is the first of the lanes in rising order. -/
theorem manifestQueueFillsAndEmpties : Obligations.ManifestQueueFillsAndEmpties := by
  intro s tag now crossing
  refine ⟨?_, fun codes => ?_⟩
  · exact exec_answered (.manifestFlush tag) now (s.crossManifest { s.track with manifests := [] }) (.ok _) rfl
  intro passes unknown
  have zero (lane : Fin 8) : codes.get lane = 0 ↔ (codes.get lane).toNat = 0 := BitVec.toNat_inj.symm
  have passes_iff (lane : Fin 8) : passes lane ↔ s.library.passes lane (codes.get lane).toNat := or_congr_left (zero lane)
  refine ⟨fun full => ?_, fun room lane fails pass => ?_, fun room pass => ?_⟩
  · exact exec_answered (.manifestPost tag codes) now s (.refuse .queueFull 2) (actManifestPost_full full)
  · have fails' := (passes_iff lane).not.1 fails
    have act := actManifestPost_fails room fails' fun i below => (passes_iff i).1 (pass i below)
    have nonzero : codes.get lane ≠ 0 := fun empty => fails (.inl empty)
    refine ⟨fun ⟨_, absent⟩ => ?_, fun known => ?_⟩
    · rw [if_pos absent] at act
      exact exec_answered (.manifestPost tag codes) now s ⟨.unknownFormat, _⟩ act
    · rw [if_neg fun absent => known ⟨nonzero, absent⟩] at act
      exact exec_answered (.manifestPost tag codes) now s ⟨.laneNotAllowed, _⟩ act
  · exact exec_answered (.manifestPost tag codes) now _ (.ok _) (actManifestPost_joins room fun i => (passes_iff i).1 (pass i))

/-- Settles O24: the refusals, and the verdict on each pack of the named nest before and after its decision. -/
theorem verdictJudgesNamedNest : Obligations.VerdictJudgesNamedNest := by
  intro s tag serial mask reason now
  refine ⟨fun bad => ?_, fun nonzero low high => ?_⟩
  · exact exec_answered (.verdict tag serial mask reason) now s (.refuse .badValue 1) (actVerdict_badValue bad)
  have good := actVerdict_inRange nonzero low high
  refine ⟨fun absent => ?_, fun p n found => ?_⟩
  · exact exec_answered (.verdict tag serial mask reason) now s (.refuse .notFound 1) (actVerdict_notFound good absent)
  intro decided turns
  have reply := exec_answered (.verdict tag serial mask reason) now _ _ (actVerdict_found good found)
  have code : BitVec.ofNat 8 (if decided then Result.late else Result.ok).code = if decided then 13 else 0 := by
    cases decided <;> rfl
  have count : n.newlyNamed mask = (allLanes.filter turns).length := List.countP_eq_length_filter
  refine ⟨s.setTrack (s.track.updateNest serial.toNat (Nest.judged decided mask reason.toNat)), reply.trans ?_, rfl, rfl,
    State.packsKept_updateNest fun _ => rfl, n.judged decided mask reason.toNat,
    Track.find_judged decided reason.toNat found, rfl, fun lane => ?_⟩
  · rw [← count, ← code]; rfl
  intro old new undecided
  have new_eq : new = judgeOf decided mask reason.toNat lane old := n.judged_get decided
  refine ⟨fun empty => ?_, fun full before => ?_, fun full after => ?_⟩
  · exact new_eq.trans (judgeOf_of_empty decided empty)
  · rw [new_eq, before, judgeOf_false, Pack.judge_of_full full]
    refine ⟨fun named und => ?_, fun unnamed und => ?_, fun kept => if_neg kept⟩
    · exact (if_pos und).trans (if_pos named)
    · exact (if_pos und).trans (if_neg (by rw [unnamed]; decide))
  · rw [new_eq, after, judgeOf_true, Pack.judgeLate_of_full full]
    refine ⟨fun named und => if_pos ⟨named, und⟩, fun kept => if_neg fun ⟨named, und⟩ => ?_⟩
    exact kept.elim (fun unnamed => Bool.noConfusion (unnamed.symm.trans named)) fun judged => judged und
end

section
/-! PROOFS. One key of a table of the recipe library, and the format requests (R47 to R49, R52). -/

namespace Sys2Proof.Machine

/-! ### One key of a table (R47, R54) -/

section Tables

variable {α : Type} {k c : Nat}

theorem lookupKey_insertKey_self (a : α) (l : List (Nat × α)) : lookupKey k (insertKey k a l) = some a := by
  induction l with
  | nil => simp [insertKey, lookupKey]
  | cons y rest ih =>
    simp only [insertKey]
    split
    · simp [lookupKey]
    · split
      · simp [lookupKey]
      · rename_i other
        simp [lookupKey, Ne.symm other, ih]

theorem lookupKey_insertKey_of_ne (ne : c ≠ k) (a : α) (l : List (Nat × α)) :
    lookupKey c (insertKey k a l) = lookupKey c l := by
  induction l with
  | nil => simp [insertKey, lookupKey, ne.symm]
  | cons y rest ih =>
    simp only [insertKey]
    split
    · simp [lookupKey, ne.symm]
    · split
      · rename_i same
        simp [lookupKey, ne.symm, ← same]
      · simp [lookupKey, ih]

theorem lookupKey_eraseKey_self (l : List (Nat × α)) : lookupKey k (eraseKey k l) = none := by
  induction l with
  | nil => rfl
  | cons y rest ih =>
    unfold eraseKey at ih ⊢
    by_cases same : y.1 = k
    · simpa [List.filter_cons, same] using ih
    · simpa [List.filter_cons, same, lookupKey] using ih

theorem lookupKey_eraseKey_of_ne (ne : c ≠ k) (l : List (Nat × α)) : lookupKey c (eraseKey k l) = lookupKey c l := by
  induction l with
  | nil => rfl
  | cons y rest ih =>
    unfold eraseKey at ih ⊢
    by_cases same : y.1 = k
    · simpa [List.filter_cons, lookupKey, same, ne.symm] using ih
    · simp [lookupKey, same, ih]

end Tables

/-! ### The values of a FORMAT-PUT (R47, R48) -/

theorem within_iff {lo n hi : Nat} : within lo n hi = true ↔ lo ≤ n ∧ n ≤ hi := by
  simp [within]

theorem DoseItems.valid_iff (d : DoseItems) :
    d.valid = true ↔ d.base ≤ 3000 ∧ d.base < d.cap ∧ d.cap ≤ 4000 ∧ d.windowMin ≤ d.windowMax := by
  simp [DoseItems.valid, and_assoc]

/-- The values that the first check of R48 accepts; the form fields count only where the form profile is present. -/
def formatInRange (r : FormatReq) : Prop :=
  (1 ≤ r.code.toNat ∧ r.code.toNat ≤ 250) ∧ r.laneMask ≠ 0 ∧ (1 ≤ r.sealProfile.toNat ∧ r.sealProfile.toNat ≤ 24) ∧
  (doseItemsOf r.sealDose).valid = true ∧
  (r.flags.getLsbD 0 = true →
    (1 ≤ r.formProfile.toNat ∧ r.formProfile.toNat ≤ 24) ∧ (doseItemsOf r.formDose).valid = true)

/-- The record that a FORMAT-PUT spells (R47). -/
def formatRecord (r : FormatReq) : Format where
  laneMask := r.laneMask
  form := if r.flags.getLsbD 0 = true then some (r.formProfile.toNat, doseItemsOf r.formDose) else none
  sealProfile := r.sealProfile.toNat
  sealDose := doseItemsOf r.sealDose
  resealAllowed := r.flags.getLsbD 1
  skipRejected := r.flags.getLsbD 2

variable {r : FormatReq}

theorem formatInRange_iff (r : FormatReq) :
    (formatCodeOk r.code.toNat && r.laneMask != 0 && profileIdOk r.sealProfile.toNat && (doseItemsOf r.sealDose).valid &&
      (match (formatRecord r).form with
       | none => true
       | some (id, d) => profileIdOk id && d.valid)) = true ↔ formatInRange r := by
  unfold formatInRange formatRecord formatCodeOk profileIdOk
  generalize r.flags.getLsbD 0 = present
  cases present
  · simp [within_iff, and_assoc]
  · simp [within_iff, and_assoc]

theorem formatOf_of_inRange (good : formatInRange r) : formatOf r = some (formatRecord r) :=
  if_pos ((formatInRange_iff r).2 good)

theorem formatOf_of_not_inRange (bad : ¬formatInRange r) : formatOf r = none :=
  if_neg ((formatInRange_iff r).not.2 bad)

theorem Library.hasProfiles_record (l : Library) :
    l.hasProfiles (formatRecord r) = true ↔
      l.profile r.sealProfile.toNat ≠ none ∧ (r.flags.getLsbD 0 = true → l.profile r.formProfile.toNat ≠ none) := by
  unfold Library.hasProfiles formatRecord
  generalize r.flags.getLsbD 0 = present
  cases present
  · simp [Option.isSome_iff_ne_none]
  · simp [Option.isSome_iff_ne_none]

/-! ### FORMAT-PUT (R48, R49) -/

variable {s : State}

theorem actFormatPut_badValue (bad : ¬formatInRange r) : actFormatPut r s = answered (.refuse .badValue 2) s := by
  simp only [actFormatPut, formatOf_of_not_inRange bad]

theorem actFormatPut_unknownProfile (good : formatInRange r) (unnamed : ¬s.library.hasProfiles (formatRecord r) = true) :
    actFormatPut r s = answered (.refuse .unknownProfile 2) s := by
  simp only [actFormatPut, formatOf_of_inRange good]
  exact if_pos (by simpa using unnamed)

/-- Whether the format table takes a record under a code: a code that is stored already, or fewer than 32 records (R48). -/
def Library.takesFormat (l : Library) (code : Nat) : Prop :=
  l.format code ≠ none ∨ l.formats.length < 32

theorem Library.takesFormat_iff (l : Library) (code : Nat) :
    ¬(!(l.format code).isSome && decide (Config.formatRoom ≤ l.formats.length)) = true ↔ l.takesFormat code := by
  unfold Library.takesFormat
  rcases l.format code with _ | f
  · simp only [Option.isSome_none, Bool.not_false, Bool.true_and, decide_eq_true_eq, not_le]
    simp [Config.formatRoom]
  · simp

theorem actFormatPut_noRoom (good : formatInRange r) (named : s.library.hasProfiles (formatRecord r) = true)
    (full : ¬s.library.takesFormat r.code.toNat) : actFormatPut r s = answered (.refuse .noRoom 2) s := by
  simp only [actFormatPut, formatOf_of_inRange good]
  refine (if_neg (by simp [named])).trans (if_pos ?_)
  exact not_not.1 fun room => full ((s.library.takesFormat_iff _).1 room)

theorem actFormatPut_stores (good : formatInRange r) (named : s.library.hasProfiles (formatRecord r) = true)
    (room : s.library.takesFormat r.code.toNat) :
    actFormatPut r s =
      answered
        (.ok (u8 (insertKey r.code.toNat (formatRecord r) s.library.formats).length ++
          u8 (mark (s.library.format r.code.toNat).isSome)))
        (s.setLibrary ⟨insertKey r.code.toNat (formatRecord r) s.library.formats, s.library.profiles⟩) := by
  simp only [actFormatPut, formatOf_of_inRange good]
  exact (if_neg (by simp [named])).trans (if_neg ((s.library.takesFormat_iff _).2 room))

/-- The byte that says whether a record was replaced (R202). -/
theorem u8_mark_isSome {α : Type} (o : Option α) : u8 (mark o.isSome) = [if o = none then 0 else 1] := by
  cases o <;> rfl

/-! ### FORMAT-DROP (R52) -/

theorem Track.codeQueued_iff (t : Track) (code : Nat) :
    t.codeQueued code = true ↔ ∃ m ∈ t.manifests, ∃ lane, m.get lane = code := by
  simp [Track.codeQueued, Lanes.toList_eq, mem_allLanes]

theorem Track.codeOnTrack_iff (t : Track) (code : Nat) :
    t.codeOnTrack code = true ↔ ∃ n, some n ∈ t.slots ∧ ∃ lane, (n.packs.get lane).format = code := by
  have lane (n : Nest) : (n.packs.toList.any fun p => p.format == code) = true ↔ ∃ lane, (n.packs.get lane).format = code := by
    simp [Lanes.toList_eq, mem_allLanes]
  simp only [Track.codeOnTrack, List.any_eq_true, Option.any_eq_true, lane]
  exact ⟨fun ⟨_, slot, n, e, holds⟩ => ⟨n, e ▸ slot, holds⟩, fun ⟨n, slot, holds⟩ => ⟨some n, slot, n, rfl, holds⟩⟩

/-- The byte of the places that hold a code: the manifest queue in bit 0, the track in bit 1 (R202). -/
theorem marks_places (queued onTrack : Bool) :
    let place : Byte := BitVec.ofNat 8 (marks [queued, onTrack])
    place.getLsbD 0 = queued ∧ place.getLsbD 1 = onTrack ∧ place &&& 0xFC = 0 := by
  cases queued <;> cases onTrack <;> decide

variable {code : Byte}

theorem actFormatDrop_badValue (bad : ¬formatCodeOk code.toNat = true) :
    actFormatDrop code s = answered (.refuse .badValue 2) s :=
  if_pos (by simpa using bad)

theorem actFormatDrop_notFound (good : formatCodeOk code.toNat = true) (absent : s.library.format code.toNat = none) :
    actFormatDrop code s = answered (.refuse .notFound 2) s :=
  (if_neg (by simp [good])).trans (if_pos (by simp [absent]))

theorem actFormatDrop_inUse (good : formatCodeOk code.toNat = true) (stored : s.library.format code.toNat ≠ none)
    (used : s.track.codeQueued code.toNat = true ∨ s.track.codeOnTrack code.toNat = true) :
    actFormatDrop code s =
      answered ⟨.inUse, u8 0 ++ u8 (marks [s.track.codeQueued code.toNat, s.track.codeOnTrack code.toNat])⟩ s :=
  (if_neg (by simp [good])).trans ((if_neg (by simpa using stored)).trans (if_pos (by simpa using used)))

theorem actFormatDrop_removes (good : formatCodeOk code.toNat = true) (stored : s.library.format code.toNat ≠ none)
    (unqueued : ¬s.track.codeQueued code.toNat = true) (offTrack : ¬s.track.codeOnTrack code.toNat = true) :
    actFormatDrop code s =
      answered (.ok (u8 (eraseKey code.toNat s.library.formats).length ++ u8 0))
        (s.setLibrary ⟨eraseKey code.toNat s.library.formats, s.library.profiles⟩) :=
  (if_neg (by simp [good])).trans ((if_neg (by simpa using stored)).trans (if_neg (by simp [unqueued, offTrack])))

end Sys2Proof.Machine

open Sys2Proof Sys2Proof.Machine

/-- Settles O45, by the checks of each request in their order; a table changes under one key alone. -/
theorem formatTableChangesOneCode : Obligations.FormatTableChangesOneCode := by
  intro s tag now keeps
  refine ⟨fun r => ?_, fun code => ?_⟩
  · intro code hasForm dose items good named room
    have good_iff : good ↔ formatInRange r := by
      simp only [good, dose, hasForm, formatInRange, DoseItems.valid_iff, doseItemsOf, and_assoc, code]
    have named_iff : named ↔ s.library.hasProfiles (formatRecord r) = true := s.library.hasProfiles_record.symm
    refine ⟨fun bad => ?_, fun ok unnamed => ?_, fun ok known full => ?_, fun ok known space => ?_⟩
    · exact exec_answered (.formatPut tag r) now s (.refuse .badValue 2) (actFormatPut_badValue (good_iff.not.1 bad))
    · exact exec_answered (.formatPut tag r) now s (.refuse .unknownProfile 2)
        (actFormatPut_unknownProfile (good_iff.1 ok) (named_iff.not.1 unnamed))
    · exact exec_answered (.formatPut tag r) now s (.refuse .noRoom 2)
        (actFormatPut_noRoom (good_iff.1 ok) (named_iff.1 known) full)
    · have done := exec_answered (.formatPut tag r) now _ _ (actFormatPut_stores (good_iff.1 ok) (named_iff.1 known) space)
      rw [u8_mark_isSome] at done
      exact ⟨⟨insertKey code (formatRecord r) s.library.formats, s.library.profiles⟩,
        ⟨rfl, fun _ ne => lookupKey_insertKey_of_ne ne _ _⟩, done, lookupKey_insertKey_self _ _⟩
  · intro good queued onTrack
    have good_iff : good ↔ formatCodeOk code.toNat = true := within_iff.symm
    have queued_iff : s.track.codeQueued code.toNat = true ↔ queued := s.track.codeQueued_iff _
    have onTrack_iff : s.track.codeOnTrack code.toNat = true ↔ onTrack := s.track.codeOnTrack_iff _
    refine ⟨fun bad => ?_, fun ok absent => ?_, fun ok stored used => ?_, fun ok stored unqueued offTrack => ?_⟩
    · exact exec_answered (.formatDrop tag code) now s (.refuse .badValue 2) (actFormatDrop_badValue (good_iff.not.1 bad))
    · exact exec_answered (.formatDrop tag code) now s (.refuse .notFound 2) (actFormatDrop_notFound (good_iff.1 ok) absent)
    · have used' := used.imp queued_iff.2 onTrack_iff.2
      obtain ⟨bit0, bit1, rest⟩ := marks_places (s.track.codeQueued code.toNat) (s.track.codeOnTrack code.toNat)
      have done := exec_answered (.formatDrop tag code) now s ⟨.inUse, _⟩ (actFormatDrop_inUse (good_iff.1 ok) stored used')
      exact ⟨_, by rw [bit0, queued_iff], by rw [bit1, onTrack_iff], rest, done⟩
    · have done := exec_answered (.formatDrop tag code) now _ (.ok _)
        (actFormatDrop_removes (good_iff.1 ok) stored (queued_iff.not.2 unqueued) (onTrack_iff.not.2 offTrack))
      exact ⟨⟨eraseKey code.toNat s.library.formats, s.library.profiles⟩,
        ⟨rfl, fun _ ne => lookupKey_eraseKey_of_ne ne _⟩, lookupKey_eraseKey_self _, done⟩
end

section
/-! PROOFS. The checks of a profile: its segment records, and its structure and timing (R55 to R58, R194). -/

namespace Sys2Proof.Machine

/-! ### A segment record (R55, R56, R194) -/

theorem be16_toNat (hi lo : Byte) : (be16 hi lo).toNat = 256 * hi.toNat + lo.toNat := by
  unfold be16
  rw [BitVec.toNat_append, ← Nat.shiftLeft_add_eq_or_of_lt lo.isLt, Nat.shiftLeft_eq]
  omega

theorem segKindOf_of_kind {b : Byte} (kind : b = 1 ∨ b = 2 ∨ b = 3 ∨ b = 4) :
    segKindOf b = some (if b = 1 then .close else if b = 2 then .hold else if b = 3 then .ramp else .openUp) := by
  rcases kind with rfl | rfl | rfl | rfl <;> rfl

theorem segKindOf_of_other {b : Byte} (other : ¬(b = 1 ∨ b = 2 ∨ b = 3 ∨ b = 4)) : segKindOf b = none := by
  have code (c : Byte) : b = c ↔ b.toNat = c.toNat := BitVec.toNat_inj.symm
  simp only [code, not_or] at other
  unfold segKindOf
  split <;> simp_all

/-- A target in its range, or absent (R56). -/
theorem targetOf_of_le {present : Bool} {x : Half} {top : Nat} (le : present = true → x.toNat ≤ top) :
    targetOf present x top = some (if present = true then some x.toNat else none) := by
  cases present
  · rfl
  · exact if_pos (decide_eq_true (le rfl))

theorem targetOf_of_gt {present : Bool} {x : Half} {top : Nat} (gt : ¬(present = true → x.toNat ≤ top)) :
    targetOf present x top = none := by
  obtain ⟨rfl, gt⟩ := Classical.not_imp.1 gt
  exact if_neg fun le => gt fun _ => of_decide_eq_true le

/-- The values of a segment record that R56 accepts. -/
def segmentInRange (r : SegmentReq) : Prop :=
  (r.kind = 1 ∨ r.kind = 2 ∨ r.kind = 3 ∨ r.kind = 4) ∧ (r.flags.getLsbD 4 = true → r.temperature.toNat ≤ 3000) ∧
  (r.flags.getLsbD 5 = true → r.pressure.toNat ≤ 800)

theorem segmentOf_of_not_inRange {r : SegmentReq} (bad : ¬segmentInRange r) : segmentOf r = none := by
  by_cases kind : r.kind = 1 ∨ r.kind = 2 ∨ r.kind = 3 ∨ r.kind = 4
  · by_cases temperature : r.flags.getLsbD 4 = true → r.temperature.toNat ≤ 3000
    · have pressure : ¬(r.flags.getLsbD 5 = true → r.pressure.toNat ≤ 800) := fun le => bad ⟨kind, temperature, le⟩
      simp only [segmentOf, flag, BitSet.has, segKindOf_of_kind kind, targetOf_of_le temperature, targetOf_of_gt pressure]
    · simp only [segmentOf, flag, BitSet.has, segKindOf_of_kind kind, targetOf_of_gt temperature]
  · simp only [segmentOf, segKindOf_of_other kind]

/-! ### The structure tests (R57) -/

/-- Whether some segment before number `n` has a property. -/
def someBefore (gs : List Segment) (n : Nat) (p : Segment → Prop) : Prop :=
  ∃ m < n, ∃ g, gs[m]? = some g ∧ p g

/-- The structure tests of segment `n` of a profile (R57). -/
def Segment.fitsAt (gs : List Segment) (n : Nat) (g : Segment) : Prop :=
  (g.kind = .close → ¬someBefore gs n fun g' => g'.kind = .close) ∧
  (g.kind = .openUp → (someBefore gs n fun g' => g'.kind = .close) ∧ (¬someBefore gs n fun g' => g'.kind = .openUp) ∧
    g.pressure = none) ∧
  (g.dose = true → g.kind = .hold ∧ (someBefore gs n fun g' => g'.kind = .close) ∧
    ¬someBefore gs n fun g' => g'.kind = .openUp) ∧
  (g.resealPoint = true → (¬someBefore gs n fun g' => g'.resealPoint = true) ∧ (g.kind = .hold ∨ g.kind = .ramp) ∧
    (someBefore gs n fun g' => g'.kind = .close) ∧ ∃ m ≥ n, ∃ g', gs[m]? = some g' ∧ g'.dose = true)

theorem any_take_iff (gs : List Segment) (n : Nat) (q : Segment → Bool) :
    (gs.take n).any q = true ↔ someBefore gs n fun g => q g = true := by
  simp only [List.any_eq_true, List.mem_iff_getElem?, List.getElem?_take, someBefore]
  constructor
  · rintro ⟨g, ⟨m, at_m⟩, hg⟩
    split at at_m
    · exact ⟨m, ‹_›, g, at_m, hg⟩
    · cases at_m
  · rintro ⟨m, lt, g, at_m, hg⟩
    exact ⟨g, ⟨m, by rw [if_pos lt, at_m]⟩, hg⟩

theorem any_drop_iff (gs : List Segment) (n : Nat) (q : Segment → Bool) :
    (gs.drop n).any q = true ↔ ∃ m ≥ n, ∃ g, gs[m]? = some g ∧ q g = true := by
  simp only [List.any_eq_true, List.mem_iff_getElem?, List.getElem?_drop]
  constructor
  · rintro ⟨g, ⟨m, at_m⟩, hg⟩
    exact ⟨n + m, by omega, g, at_m, hg⟩
  · rintro ⟨m, ge, g, at_m, hg⟩
    exact ⟨g, ⟨m - n, by rw [← at_m]; congr 1; omega⟩, hg⟩

@[simp] theorem Segment.is_iff (k : SegKind) (g : Segment) : g.is k = true ↔ g.kind = k := by
  simp [Segment.is]

theorem segmentFits_iff {gs : List Segment} {n : Nat} {g : Segment} (here : gs[n]? = some g) :
    segmentFits (gs.take n) g (gs.drop (n + 1)) = true ↔ g.fitsAt gs n := by
  have onward : g :: gs.drop (n + 1) = gs.drop n := by
    obtain ⟨lt, rfl⟩ := List.getElem?_eq_some_iff.1 here
    exact (List.drop_eq_getElem_cons lt).symm
  have imp (a b : Bool) : (!a || b) = true ↔ (a = true → b = true) := by cases a <;> simp
  have no (a : Bool) : (!a) = true ↔ ¬a = true := by simp
  simp only [segmentFits, onward, Bool.and_eq_true, Bool.or_eq_true, imp, no, any_take_iff, any_drop_iff, Segment.is_iff,
    Option.isNone_iff_eq_none, Segment.fitsAt, and_assoc]

/-! ### The first segment that fails a test -/

theorem firstUnfit_skip {gs : List Segment} : ∀ {n : Nat}, n ≤ gs.length →
    (∀ m < n, ∀ g, gs[m]? = some g → g.fitsAt gs m) → firstUnfit 0 [] gs = firstUnfit n (gs.take n) (gs.drop n)
  | 0, _, _ => by simp
  | n + 1, le, fit => by
    have here : gs[n]? = some gs[n] := List.getElem?_eq_getElem le
    have passes := (segmentFits_iff here).2 (fit n n.lt_succ_self _ here)
    rw [firstUnfit_skip (Nat.le_of_lt le) fun m lt => fit m (lt.trans n.lt_succ_self), List.drop_eq_getElem_cons le, firstUnfit,
      if_pos passes, List.take_concat_get']

/-- The number of the first segment that fails the structure tests (R57). -/
theorem firstUnfit_first {gs : List Segment} {n : Nat} {g : Segment} (here : gs[n]? = some g) (unfit : ¬g.fitsAt gs n)
    (fit : ∀ m < n, ∀ g', gs[m]? = some g' → g'.fitsAt gs m) : firstUnfit 0 [] gs = some n := by
  obtain ⟨lt, rfl⟩ := List.getElem?_eq_some_iff.1 here
  rw [firstUnfit_skip (Nat.le_of_lt lt) fit, List.drop_eq_getElem_cons lt, firstUnfit,
    if_neg ((segmentFits_iff here).not.2 unfit)]

theorem firstUnfit_eq_none_iff {gs : List Segment} :
    firstUnfit 0 [] gs = none ↔ ∀ (n : Nat) (g : Segment), gs[n]? = some g → g.fitsAt gs n := by
  constructor
  · intro none n
    induction n using Nat.strong_induction_on with
    | _ n before =>
      intro g here
      by_contra unfit
      rw [firstUnfit_first here unfit before] at none
      cases none
  · intro fit
    rw [firstUnfit_skip le_rfl fun m _ => fit m, List.drop_length, firstUnfit]

theorem firstOfKind_eq (k : SegKind) (n : Nat) (gs : List Segment) :
    firstOfKind k n gs = (gs.findIdx? (Segment.is k)).map (n + ·) := by
  induction gs generalizing n with
  | nil => rfl
  | cons g rest ih =>
    rw [firstOfKind, List.findIdx?_cons, ih]
    split
    · rfl
    · simp [Function.comp_def, Nat.add_assoc, Nat.add_comm 1]

theorem firstUntimed_eq (n : Nat) (gs : List Segment) :
    firstUntimed n gs = (gs.findIdx? fun g => !g.timed).map (n + ·) := by
  induction gs generalizing n with
  | nil => rfl
  | cons g rest ih =>
    rw [firstUntimed, List.findIdx?_cons, ih]
    cases g.timed
    · rfl
    · simp [Function.comp_def, Nat.add_assoc, Nat.add_comm 1]

/-- The first place that passes a test. -/
theorem findIdx?_first {gs : List Segment} {n : Nat} {g : Segment} {q : Segment → Bool} (here : gs[n]? = some g)
    (hit : q g = true) (miss : ∀ m < n, ∀ g', gs[m]? = some g' → ¬q g' = true) : gs.findIdx? q = some n := by
  obtain ⟨lt, rfl⟩ := List.getElem?_eq_some_iff.1 here
  exact List.findIdx?_eq_some_iff_getElem.2 ⟨lt, hit, fun m less => miss m less _ (List.getElem?_eq_getElem _)⟩

/-! ### A CLOSE without an OPEN (R57) -/

/-- A profile with a CLOSE has an OPEN (R57). -/
def opensAgain (gs : List Segment) : Prop :=
  (∃ g ∈ gs, g.kind = .close) → ∃ g ∈ gs, g.kind = .openUp

theorem unopened_eq (gs : List Segment) :
    unopened gs = if ∃ g ∈ gs, g.kind = .openUp then none else gs.findIdx? (Segment.is .close) := by
  simp [unopened, firstOfKind_eq]

theorem unopened_eq_none_iff (gs : List Segment) : unopened gs = none ↔ opensAgain gs := by
  rw [unopened_eq, opensAgain]
  split
  · exact iff_of_true rfl fun _ => ‹_›
  · rename_i never
    have unclosed : gs.findIdx? (Segment.is .close) = none ↔ ¬∃ g ∈ gs, g.kind = .close := by
      simp [List.findIdx?_eq_none_iff, ← Bool.not_eq_true]
    exact unclosed.trans (imp_congr_right fun _ => (iff_false_intro never).symm)

/-- The CLOSE of a profile without an OPEN; the structure tests leave it the only one (R57). -/
theorem unopened_of_close {gs : List Segment} {n : Nat} {g : Segment}
    (fit : ∀ (n : Nat) (g : Segment), gs[n]? = some g → g.fitsAt gs n) (closed : ¬opensAgain gs) (here : gs[n]? = some g) (close : g.kind = .close) : unopened gs = some n := by
  obtain ⟨once, -⟩ := fit n g here
  rw [unopened_eq, if_neg (Classical.not_imp.1 closed).2]
  exact findIdx?_first here ((Segment.is_iff _ _).2 close) fun m lt g' at_m other =>
    once close ⟨m, lt, g', at_m, (Segment.is_iff _ _).1 other⟩

/-! ### Timing (R58) -/

/-- The timing test of one segment (R58). -/
def Segment.inTime (g : Segment) : Prop :=
  (g.kind = .close ∨ g.kind = .openUp → 50 ≤ g.duration ∧ g.duration ≤ 5000) ∧ g.duration ≤ 10000

theorem Segment.timed_iff (g : Segment) : g.timed = true ↔ g.inTime := by
  unfold Segment.timed Segment.inTime
  rcases kind : g.kind
  case close | openUp => simp [within]; omega
  case hold | ramp => simp

theorem firstUntimed_first {gs : List Segment} {n : Nat} {g : Segment} (here : gs[n]? = some g) (late : ¬g.inTime)
    (inTime : ∀ m < n, ∀ g', gs[m]? = some g' → g'.inTime) : firstUntimed 0 gs = some n := by
  have first := findIdx?_first (q := fun g => !g.timed) here (by simpa [Segment.timed_iff, ← Bool.not_eq_true] using late)
    fun m lt g' at_m => by simpa [Segment.timed_iff] using inTime m lt g' at_m
  rw [firstUntimed_eq, first, Option.map_some, Nat.zero_add]

theorem firstUntimed_eq_none_iff (gs : List Segment) : firstUntimed 0 gs = none ↔ ∀ g ∈ gs, g.inTime := by
  simp [firstUntimed_eq, List.findIdx?_eq_none_iff, Segment.timed_iff]

/-- The tests of the whole profile (R58): at most 30 s, and some segment that takes time. -/
def takesTime (gs : List Segment) : Prop :=
  (gs.map Segment.duration).sum ≤ 30000 ∧ ∃ g ∈ gs, g.duration ≠ 0 ∨ g.kind = .close ∨ g.kind = .openUp

theorem Segment.instant_iff (g : Segment) : g.instant = true ↔ ¬(g.duration ≠ 0 ∨ g.kind = .close ∨ g.kind = .openUp) := by
  unfold Segment.instant
  rcases g.kind <;> simp

theorem untimely_iff (gs : List Segment) :
    (30000 < (gs.map Segment.duration).sum || gs.all Segment.instant) = true ↔ ¬takesTime gs := by
  have instant : gs.all Segment.instant = true ↔ ¬∃ g ∈ gs, g.duration ≠ 0 ∨ g.kind = .close ∨ g.kind = .openUp := by
    simp only [List.all_eq_true, Segment.instant_iff, not_exists, not_and]
  rw [Bool.or_eq_true, instant, decide_eq_true_eq, takesTime, not_and_or, not_le]

theorem badTotal_of_not_takesTime {gs : List Segment} (whole : ¬takesTime gs) : badTotal gs = some 255 :=
  if_pos ((untimely_iff gs).2 whole)

theorem badTotal_eq_none_iff (gs : List Segment) : badTotal gs = none ↔ takesTime gs := by
  refine ⟨fun none => by_contra fun whole => ?_, fun whole => if_neg ((untimely_iff gs).not.2 (not_not.2 whole))⟩
  rw [badTotal_of_not_takesTime whole] at none
  cases none

end Sys2Proof.Machine

open Sys2Proof Sys2Proof.Machine

/-- Settles O46: the checks one after the other, each with what it accepts and the number it gives. -/
theorem profileChecksAreComplete : Obligations.ProfileChecksAreComplete := by
  refine ⟨fun tag id k g t1 t0 p1 p0 d1 d0 => ?_, fun r => ?_, fun gs => ?_⟩
  · exact ⟨⟨k, g, be16 t1 t0, be16 p1 p0, be16 d1 d0⟩, rfl, rfl, rfl, be16_toNat _ _, be16_toNat _ _, be16_toNat _ _⟩
  · intro hasTemperature hasPressure good
    refine ⟨fun bad => ?_, fun ⟨kind, temperature, pressure⟩ => ?_⟩
    · exact segmentOf_of_not_inRange bad
    · simp only [segmentOf, flag, BitSet.has, segKindOf_of_kind kind, targetOf_of_le temperature, targetOf_of_le pressure]
      rfl
  intro fits timed structured opened whole
  have unfit : firstUnfit 0 [] gs = none ↔ structured := firstUnfit_eq_none_iff
  have closed : unopened gs = none ↔ opened := unopened_eq_none_iff gs
  have untimed : firstUntimed 0 gs = none ↔ ∀ g ∈ gs, timed g := firstUntimed_eq_none_iff gs
  have total : badTotal gs = none ↔ whole := badTotal_eq_none_iff gs
  refine ⟨?_, fun n g here misfit before => ?_, fun fit never n g here close => ?_, fun fit opens n g here late before => ?_,
    fun fit opens inTime never => ?_⟩
  · simp only [profileFault, Option.or_eq_none_iff, unfit, closed, untimed, total]
  · rw [profileFault, firstUnfit_first here misfit before, Option.some_or]
  · rw [profileFault, unfit.2 fit, Option.none_or, unopened_of_close fit never here close, Option.some_or]
  · rw [profileFault, unfit.2 fit, closed.2 opens, Option.none_or, Option.none_or, firstUntimed_first here late before,
      Option.some_or]
  · rw [profileFault, unfit.2 fit, closed.2 opens, untimed.2 inTime, badTotal_of_not_takesTime never]
    rfl
end

section
/-! PROOFS. The profile requests (R56 to R61). -/

namespace Sys2Proof.Machine

variable {s : State} {id : Byte} {l : List SegmentReq}

/-! ### The segments of a PROFILE-PUT (R56) -/

theorem segmentList_of_bad (bad : ∃ r ∈ l, segmentOf r = none) : segmentList l = none := by
  induction l with
  | nil => obtain ⟨r, ⟨⟩, -⟩ := bad
  | cons r rest ih =>
    obtain ⟨r', named, bad⟩ := bad
    rcases List.mem_cons.1 named with rfl | later
    · simp only [segmentList, bad]
    · simp only [segmentList, ih ⟨r', later, bad⟩]
      cases segmentOf r <;> rfl

theorem segmentList_of_map {gs : List Segment} (spelled : l.map segmentOf = gs.map some) : segmentList l = some gs := by
  induction l generalizing gs with
  | nil => rw [List.map_nil, eq_comm, List.map_eq_nil_iff] at spelled; rw [spelled, segmentList]
  | cons r rest ih =>
    obtain _ | ⟨g, gs⟩ := gs
    · cases spelled
    · obtain ⟨first, others⟩ := List.cons.inj spelled
      simp only [segmentList, first, ih others]

/-! ### PROFILE-PUT (R56 to R60) -/

/-- A PROFILE-PUT whose id and number of segments are in range (R56). -/
def profileSized (id : Byte) (l : List SegmentReq) : Prop :=
  (1 ≤ id.toNat ∧ id.toNat ≤ 24) ∧ 1 ≤ l.length ∧ l.length ≤ 16

theorem profileSized_iff : ¬(!profileIdOk id.toNat || !within 1 l.length 16) = true ↔ profileSized id l := by
  unfold profileSized profileIdOk
  rw [← within_iff, ← within_iff]
  cases within 1 id.toNat 24 <;> cases within 1 l.length 16 <;> simp

theorem actProfilePut_unsized (bad : ¬profileSized id l) : actProfilePut id l s = answered (.refuse .badValue 2) s :=
  if_pos (not_not.1 (profileSized_iff.not.2 bad))

theorem actProfilePut_badSegment (bad : ∃ r ∈ l, segmentOf r = none) :
    actProfilePut id l s = answered (.refuse .badValue 2) s := by
  simp only [actProfilePut, segmentList_of_bad bad, ite_self]

section Spelled

variable {gs : List Segment} (sized : profileSized id l) (spelled : l.map segmentOf = gs.map some)

include sized spelled

theorem actProfilePut_invalid {n : Nat} (fault : profileFault gs = some n) :
    actProfilePut id l s = answered ⟨.profileInvalid, u8 0 ++ u8 n⟩ s := by
  refine (if_neg (profileSized_iff.2 sized)).trans ?_
  simp only [segmentList_of_map spelled, fault]

theorem actProfilePut_noRoom (valid : profileFault gs = none) (full : s.library.free + s.library.held id.toNat < gs.length) :
    actProfilePut id l s = answered ⟨.noRoom, u8 s.library.free ++ u8 0⟩ s := by
  refine (if_neg (profileSized_iff.2 sized)).trans ?_
  simp only [segmentList_of_map spelled, valid]
  exact if_pos full

theorem actProfilePut_stores (valid : profileFault gs = none) (room : gs.length ≤ s.library.free + s.library.held id.toNat) :
    actProfilePut id l s =
      let stored : Library := ⟨s.library.formats, insertKey id.toNat gs s.library.profiles⟩
      answered (.ok (u8 stored.free ++ u8 0)) (s.setLibrary stored) := by
  refine (if_neg (profileSized_iff.2 sized)).trans ?_
  simp only [segmentList_of_map spelled, valid]
  exact if_neg (Nat.not_lt.2 room)

end Spelled

/-! ### PROFILE-DROP (R61) -/

/-- A format names a profile as its seal profile or its form profile (R61). -/
theorem Format.names_iff (k : Nat) (f : Format) : f.names k = true ↔ f.sealProfile = k ∨ ∃ d, f.form = some (k, d) := by
  unfold Format.names
  rcases f.form with _ | ⟨k', d⟩
  · simp
  · simp

theorem Library.lowestNaming_eq_none {l : Library} {k : Nat} (unnamed : ∀ x ∈ l.formats, ¬x.2.names k = true) :
    l.lowestNaming k = none := by
  rw [Library.lowestNaming, List.find?_eq_none.2 unnamed, Option.map_none]

/-- Among formats in the order of their codes, the first that names a profile has the lowest code (R61). -/
theorem Library.lowestNaming_least {l : Library} {k : Nat} (named : ∃ x ∈ l.formats, x.2.names k = true) :
    ∃ x ∈ l.formats, x.2.names k = true ∧ l.lowestNaming k = some x.1 ∧
      (l.bounded → ∀ y ∈ l.formats, y.2.names k = true → x.1 ≤ y.1) := by
  obtain ⟨x, found⟩ := Option.isSome_iff_exists.1 (List.find?_isSome (p := fun x : Nat × Format => x.2.names k) |>.2 named)
  obtain ⟨names, before, after, split, earlier⟩ := List.find?_eq_some_iff_append.1 found
  refine ⟨x, List.mem_of_find?_eq_some found, names, by rw [Library.lowestNaming, found]; rfl, ?_⟩
  rintro ⟨-, rising, -⟩ y stored naming
  rw [split, List.map_append, List.map_cons, List.pairwise_append] at rising
  obtain ⟨-, rising, -⟩ := rising
  rw [split] at stored
  rcases List.mem_append.1 stored with earlier' | later
  · exact absurd naming (by simpa using earlier y earlier')
  · rcases List.mem_cons.1 later with rfl | later
    · exact le_rfl
    · exact ((List.pairwise_cons.1 rising).1 _ (List.mem_map_of_mem later)).le

theorem actProfileDrop_badValue (bad : ¬profileIdOk id.toNat = true) : actProfileDrop id s = answered (.refuse .badValue 2) s :=
  if_pos (by simpa using bad)

section Stored

variable (good : profileIdOk id.toNat = true)

include good

theorem actProfileDrop_notFound (absent : s.library.profile id.toNat = none) :
    actProfileDrop id s = answered (.refuse .notFound 2) s :=
  (if_neg (by simp [good])).trans (if_pos (by simp [absent]))

theorem actProfileDrop_inUse (stored : s.library.profile id.toNat ≠ none) {code : Nat}
    (named : s.library.lowestNaming id.toNat = some code) :
    actProfileDrop id s = answered ⟨.inUse, u8 0 ++ u8 code⟩ s := by
  refine (if_neg (by simp [good])).trans ((if_neg (by simpa using stored)).trans ?_)
  rw [named]

theorem actProfileDrop_removes (stored : s.library.profile id.toNat ≠ none) (unnamed : s.library.lowestNaming id.toNat = none) :
    actProfileDrop id s =
      let left : Library := ⟨s.library.formats, eraseKey id.toNat s.library.profiles⟩
      answered (.ok (u8 left.free ++ u8 0)) (s.setLibrary left) := by
  refine (if_neg (by simp [good])).trans ((if_neg (by simpa using stored)).trans ?_)
  rw [unnamed]

end Stored

end Sys2Proof.Machine

open Sys2Proof Sys2Proof.Machine

/-- Settles O47, by the checks of each request in their order; the store changes under one id alone. -/
theorem profileStoreChangesOneId : Obligations.ProfileStoreChangesOneId := by
  intro s tag idByte now id goodId used free held keeps
  have good_iff : goodId ↔ profileIdOk id = true := within_iff.symm
  refine ⟨fun l => ⟨fun bad => ?_, fun gs ok some few spelled => ?_⟩, fun bad => ?_, fun ok absent => ?_, fun ok stored => ?_⟩
  · have act : actProfilePut idByte l s = answered (.refuse .badValue 2) s := by
      by_cases sized : profileSized idByte l
      · obtain ⟨ok, some, few⟩ : goodId ∧ 1 ≤ l.length ∧ l.length ≤ 16 := sized
        exact actProfilePut_badSegment (((bad.resolve_left (not_not.2 ok)).resolve_left (by omega)).resolve_left (by omega))
      · exact actProfilePut_unsized sized
    exact exec_answered (.profilePut tag idByte l) now s (.refuse .badValue 2) act
  · have sized : profileSized idByte l := ⟨ok, some, few⟩
    refine ⟨fun n fault => ?_, fun valid full => ?_, fun valid room => ?_⟩
    · exact exec_answered (.profilePut tag idByte l) now s ⟨.profileInvalid, _⟩ (actProfilePut_invalid sized spelled fault)
    · exact exec_answered (.profilePut tag idByte l) now s ⟨.noRoom, _⟩ (actProfilePut_noRoom sized spelled valid full)
    · have done := exec_answered (.profilePut tag idByte l) now _ (.ok _) (actProfilePut_stores sized spelled valid room)
      exact ⟨⟨s.library.formats, insertKey id gs s.library.profiles⟩, ⟨rfl, fun _ ne => lookupKey_insertKey_of_ne ne _ _⟩,
        lookupKey_insertKey_self _ _, done⟩
  · exact exec_answered (.profileDrop tag idByte) now s (.refuse .badValue 2) (actProfileDrop_badValue (good_iff.not.1 bad))
  · exact exec_answered (.profileDrop tag idByte) now s (.refuse .notFound 2) (actProfileDrop_notFound (good_iff.1 ok) absent)
  · intro names
    have names_iff (f : Format) : names f ↔ f.names id = true := (f.names_iff id).symm
    refine ⟨fun named => ?_, fun unnamed => ?_⟩
    · obtain ⟨x, kept, names_x, lowest, least⟩ := Library.lowestNaming_least (by simpa only [names_iff] using named)
      have done := exec_answered (.profileDrop tag idByte) now s ⟨.inUse, _⟩ (actProfileDrop_inUse (good_iff.1 ok) stored lowest)
      exact ⟨x, kept, (names_iff _).2 names_x,
        fun bounded y kept' naming => least bounded y kept' ((names_iff _).1 naming), done⟩
    · have lowest := Library.lowestNaming_eq_none fun x kept => (names_iff x.2).not.1 (unnamed x kept)
      have done := exec_answered (.profileDrop tag idByte) now _ (.ok _) (actProfileDrop_removes (good_iff.1 ok) stored lowest)
      exact ⟨⟨s.library.formats, eraseKey id s.library.profiles⟩, ⟨rfl, fun _ ne => lookupKey_eraseKey_of_ne ne _⟩,
        lookupKey_eraseKey_self _, done⟩
end

section
/-! PROOFS. The start of a pending pack cycle, and its drop (R51, R74, R75). -/

namespace Sys2Proof.Machine

variable {s : State} {h : Fin 16}

/-! ### The start of a cycle on a pack (R51, R75) -/

section Starts

variable {x : HeadCtx} {lib : Library} {ref : PackRef} {code : Nat}

/-- With the profile named and stored, the cycle starts from the items read at its start (R75). -/
theorem HeadCtx.startPack_launches (href : x.head.packRef = some ref) {f : Format} {id : Nat} {d : DoseItems} {gs : List Segment}
    (format : lib.format code = some f) (items : f.forStation ref.station = some (id, d)) (profile : lib.profile id = some gs) :
    x.startPack lib (some code) =
      x.launch .pack (.fresh id gs d.base d.cap (some (d.windowMin, d.windowMax)) f.resealAllowed) := by
  simp only [HeadCtx.startPack, href, Option.bind_some, format, items, profile]

/-- Without a profile for the station the pending cycle is dropped (R51). -/
theorem HeadCtx.startPack_drops
    (lost : ∀ f id d, lib.format code = some f → f.forStation ref.station = some (id, d) → lib.profile id = none)
    (href : x.head.packRef = some ref) : x.startPack lib (some code) = x.dropPending := by
  simp only [HeadCtx.startPack, href, Option.bind_some]
  rcases format : lib.format code with _ | f
  · rfl
  · rcases items : f.forStation ref.station with _ | ⟨id, d⟩
    · simp only [items]
    · simp only [items, lost f id d format items]

end Starts

/-! ### The start in the device -/

/-- A pending head reads the format of its pack and starts or drops its cycle (R51, R75). -/
theorem State.startPending_pendingStarts {ref : PackRef} {p : Pack} (pending : (s.head h).state = .pending)
    (href : (s.head h).packRef = some ref) (pack : s.track.packOf ref = some p) :
    s.pendingStarts h ref p (s.startPending h) := by
  have act : s.startPending h = s.actHead h (HeadCtx.startPack s.library (some p.format)) := by
    simp only [State.startPending, href, Option.bind_some, pack, Option.map_some]
  have calm : (s.head h).state ≠ .safe := by rw [pending]; decide
  rw [act]
  unfold State.pendingStarts
  intro x items
  refine ⟨fun f id d gs format named profile => ?_, fun lost => ?_⟩
  · have station : f.forStation ref.station = some (id, d) := by rw [← named]; simp only [items, format]; rfl
    refine State.actHead_goesOn rfl calm (fun _ e => by rw [href, ← e]; rfl) ?_
    rw [HeadCtx.startPack_launches (x := s.ctx h) href format station profile]
    have started : x.startsPack ref f id d gs = (s.ctx h).head.started .pack (s.ctx h).head.packRef
        (.fresh id gs d.base d.cap (some (d.windowMin, d.windowMax)) f.resealAllowed) := by
      rw [show (s.ctx h).head.packRef = some ref from href]; rfl
    rw [started]
    exact (s.ctx h).launch_continues .pack _
  · have drops : (s.ctx h).startPack s.library (some p.format) = (s.ctx h).dropPending := by
      refine HeadCtx.startPack_drops (ref := ref) (fun f id d format station => ?_) href
      have named : items = some (id, d) := by rw [← station]; simp only [items, format]; rfl
      rcases lost with none | ⟨id', d', named', gone⟩
      · rw [named] at none; cases none
      · rw [named] at named'; cases named'; exact gone
    obtain ⟨only, track⟩ := s.actHead_silent (h := h) (f := HeadCtx.startPack s.library (some p.format)) (by rw [drops]; rfl)
    have quiet := s.actHead_quiet h (HeadCtx.startPack s.library (some p.format)) (by rw [drops]; rfl) (by
      rw [drops]
      exact iff_of_false (by change HeadState.ready ≠ .safe; decide) calm)
    refine ⟨only, track, by rw [quiet]; rfl, ?_, ?_⟩
    · rw [State.actHead_status_self, drops]; rfl
    · rw [State.actHead_head_self, drops]
      exact ⟨rfl, ⟨rfl, rfl, rfl, rfl, rfl⟩, rfl, rfl⟩

theorem Head.waitsFor_iff (source : StartSource) (x : Head) :
    x.waitsFor source = true ↔ x.state = .pending ∧ x.params.source = source := by
  simp [Head.waitsFor]

end Sys2Proof.Machine

open Sys2Proof Sys2Proof.Machine

/-- Settles O34: an edge and an expiry bring about one act, the start of what the pack's format calls for now. -/
theorem pendingCycleStarts : Obligations.PendingCycleStarts := by
  intro s h
  refine ⟨fun idle => ?_, fun ref p pending href pack => ⟨fun line => ?_, fun due delayed timer => ?_⟩⟩
  · exact congrArg Host.Outcome.next (if_neg ((Head.waitsFor_iff .line _).not.2 idle))
  · exact ⟨s.startPending h, congrArg Host.Outcome.next (if_pos ((Head.waitsFor_iff .line _).2 ⟨pending, line⟩)),
      State.startPending_pendingStarts pending href pack⟩
  · refine ⟨(s.setNow (max s.now due)).startPending h, ?_,
      State.startPending_pendingStarts (s := s.setNow (max s.now due)) pending href pack⟩
    exact congrArg (fun timer => Host.Outcome.next (s.expire timer (State.startPending h))) (Head.startDue_of pending delayed timer)
end

section
/-! PROOFS. What a sound head is: coherent, and presenting what it should (R72, R83, R84, R96, R105, R106, R110). -/

namespace Sys2Proof.Machine

section HeadSound

/-! ### A sound head -/

/-- A head that is coherent and presents what it should (R96, R105, R106). -/
def Head.sound (x : Head) : Prop :=
  x.coherent ∧ x.presentsSafely

/-- Both ports hold what the setpoints present (R105, R106). -/
def Head.portsFit (x : Head) : Prop :=
  x.heaterCode = (x.present .heater x.tempSet).1 ∧ x.pressureCode = (x.present .pressure x.presSet).1

/-- The setpoints that a state other than RUNNING has (R96). -/
def Head.setpointsRest (x : Head) : Prop :=
  x.tempSet = (if x.state = .offline ∨ x.state = .safe then 0 else x.params.standby) ∧ x.presSet = 0

/-- No cycle, no ramp and no output: what a head has in every state but PENDING and RUNNING. -/
def Head.drivesNothing (x : Head) : Prop :=
  x.cycle = none ∧ x.ramp = none ∧ x.closeOut = false ∧ x.auxOut = false

theorem limitCode_le (i : Int) : (limitCode i).1 ≤ 65535 := by
  unfold limitCode
  split
  · exact Nat.zero_le _
  · split
    · exact Nat.le_refl _
    · dsimp only; omega

theorem correctedCode_le (o : Output) (c : CoeffItems) (v : Nat) : (correctedCode o c v).1 ≤ 65535 := by
  unfold correctedCode
  split
  · exact Nat.zero_le _
  · cases o <;> exact limitCode_le _

theorem Head.portsOff_iff (x : Head) :
    x.portsOff = true ↔ x.state = .offline ∨ x.state = .safe ∨ x.params.loopMode = .dry := by
  simp [Head.portsOff, or_assoc]

theorem Head.present_off {x : Head} (h : x.portsOff = true) (o : Output) (v : Nat) : x.present o v = (0, false) :=
  if_pos h

theorem Head.present_on {x : Head} (h : x.portsOff = false) (o : Output) (v : Nat) :
    x.present o v = correctedCode o x.coeffs v :=
  if_neg (by simp [h])

/-- The clauses of `presentsSafely` say that the ports fit and that the setpoints are those of the state. -/
theorem Head.presentsSafely_iff (x : Head) : x.presentsSafely ↔ x.portsFit ∧ (x.state ≠ .running → x.setpointsRest) := by
  unfold Head.presentsSafely Head.portsFit
  simp only [← Head.portsOff_iff]
  cases off : x.portsOff
  · simp only [Head.present_on off, Bool.false_eq_true, false_implies, not_false_eq_true, true_implies, true_and]
    constructor
    · rintro ⟨-, -, fits, rest⟩
      exact ⟨fits, rest⟩
    · rintro ⟨⟨heater, pressure⟩, rest⟩
      exact ⟨heater ▸ correctedCode_le .heater _ _, pressure ▸ correctedCode_le .pressure _ _, ⟨heater, pressure⟩, rest⟩
  · simp only [Head.present_off off, not_true_eq_false, false_implies, true_implies, true_and]
    constructor
    · rintro ⟨-, -, zero, rest⟩
      exact ⟨zero, rest⟩
    · rintro ⟨⟨heater, pressure⟩, rest⟩
      exact ⟨heater ▸ Nat.zero_le _, pressure ▸ Nat.zero_le _, ⟨heater, pressure⟩, rest⟩

section States

variable {x : Head}

theorem Head.sound.portsFit (h : x.sound) : x.portsFit :=
  ((Head.presentsSafely_iff x).1 h.2).1

theorem Head.sound.setpointsRest (h : x.sound) (notRunning : x.state ≠ .running) : x.setpointsRest :=
  ((Head.presentsSafely_iff x).1 h.2).2 notRunning

/-- A head with a cycle is PENDING or RUNNING. -/
theorem Head.sound.cycle_state (h : x.sound) (c : x.cycle.isSome) : x.state = .pending ∨ x.state = .running := by
  obtain ⟨⟨running, pending, -⟩, -⟩ := h
  rcases hr : x.run? with _ | r
  · exact .inl (pending.2 ⟨c, hr⟩)
  · exact .inr (running.2 (by simp [hr]))

/-- A head in a state without a cycle drives nothing (R72, R81). -/
theorem Head.sound.drivesNothing (h : x.sound) (notRunning : x.state ≠ .running) (notPending : x.state ≠ .pending) :
    x.drivesNothing := by
  have noCycle : x.cycle = none := by
    rcases hc : x.cycle with _ | c
    · rfl
    · exact absurd (h.cycle_state (by simp [hc])) (by simp [notRunning, notPending])
  obtain ⟨⟨-, -, -, -, ramp, -, close, aux⟩, -⟩ := h
  refine ⟨noCycle, ?_, Bool.eq_false_iff.2 fun e => notRunning (close e).1, Bool.eq_false_iff.2 fun e => notRunning (aux e).1⟩
  exact Option.not_isSome_iff_eq_none.1 fun e => notRunning (ramp e)

theorem Head.sound.drivesNothing_of_cycle (h : x.sound) (c : x.cycle = none) : x.drivesNothing := by
  obtain ⟨⟨running, pending, -⟩, -⟩ := id h
  refine h.drivesNothing (fun e => ?_) fun e => ?_
  · simpa [Head.run?, c] using running.1 e
  · simpa [c] using pending.1 e

/-- Only a head in RELEASING or SAFE has a release phase (R84). -/
theorem Head.sound.release_none (h : x.sound) (notReleasing : x.state ≠ .releasing) (notSafe : x.state ≠ .safe) :
    x.release = none := by
  obtain ⟨⟨-, -, releasing, safe, -⟩, -⟩ := h
  rcases hr : x.release with _ | r
  · rfl
  · by_cases d : r.dest = .safe
    · exact absurd (safe r hr d) notSafe
    · exact absurd (releasing.2 ⟨r, hr, d⟩) notReleasing

/-- A release phase toward another state than SAFE is one of a RELEASING head (R84). -/
theorem Head.sound.release_state (h : x.sound) {r : Release} (hr : x.release = some r) :
    (r.dest = .safe → x.state = .safe) ∧ (r.dest ≠ .safe → x.state = .releasing) := by
  obtain ⟨⟨-, -, releasing, safe, -⟩, -⟩ := h
  exact ⟨safe r hr, fun d => releasing.2 ⟨r, hr, d⟩⟩

theorem Head.sound.sampled_iff (h : x.sound) : x.state = .offline ↔ x.monitor.sampleTimer = none := by
  obtain ⟨⟨-, -, -, -, -, timer, -⟩, -⟩ := h
  exact timer

/-- A release phase agrees with the state (R84). -/
def Head.releaseAgrees (st : HeadState) : Option Release → Prop
  | none => st ≠ .releasing
  | some r => (r.dest = .safe ∧ st = .safe) ∨ (r.dest ≠ .safe ∧ st = .releasing)

theorem Head.releaseAgrees_iff (st : HeadState) (o : Option Release) :
    Head.releaseAgrees st o ↔
      (st = .releasing ↔ ∃ r, o = some r ∧ r.dest ≠ .safe) ∧ ∀ r, o = some r → r.dest = .safe → st = .safe := by
  rcases o with _ | r
  · simp [Head.releaseAgrees]
  · by_cases d : r.dest = .safe
    · by_cases e : st = .safe <;> simp [Head.releaseAgrees, d, e]
    · simp [Head.releaseAgrees, d]

theorem Head.sound.withRelease (h : x.sound) {o : Option Release} (agrees : Head.releaseAgrees x.state o) :
    ({ x with release := o } : Head).sound := by
  obtain ⟨⟨running, pending, -, -, rest⟩, presents⟩ := h
  obtain ⟨releasing, safe⟩ := (Head.releaseAgrees_iff _ _).1 agrees
  exact ⟨⟨running, pending, releasing, safe, rest⟩, presents⟩

/-- A head that enters a state without a cycle is sound there when it drives nothing and its setpoint, release phase and sample
timer are those of the state (R96). -/
theorem Head.rest_sound {now v : Nat} {st : HeadState} (still : x.drivesNothing) (notRunning : st ≠ .running) (notPending : st ≠ .pending)
    (release : Head.releaseAgrees st x.release) (timer : st = .offline ↔ x.monitor.sampleTimer = none)
    (setpoint : v = if st = .offline ∨ st = .safe then 0 else x.params.standby) : (x.rest now st v).sound := by
  obtain ⟨cycle, ramp, close, aux⟩ := still
  obtain ⟨releasing, safe⟩ := (Head.releaseAgrees_iff _ _).1 release
  refine ⟨⟨?_, ?_, releasing, safe, ?_, timer, ?_, ?_⟩, (Head.presentsSafely_iff _).2 ⟨⟨rfl, rfl⟩, fun _ => ⟨setpoint, rfl⟩⟩⟩
  · simp [Head.rest, Head.run?, cycle, notRunning]
  · simp [Head.rest, cycle, notPending]
  · simp [Head.rest, ramp]
  · simp [Head.rest, close]
  · simp [Head.rest, aux]

end States

end HeadSound
end Sys2Proof.Machine
end

section
/-! PROOFS. Release phases, the ends of a cycle and the requests on a head keep it sound (R68 to R70, R83 to R91). -/

namespace Sys2Proof.Machine

section Rests

variable {x : Head}

theorem Head.enterReady_sound (now : Nat) (still : x.drivesNothing) (release : x.release = none)
    (sampled : x.monitor.sampleTimer ≠ none) : (x.enterReady now).sound :=
  Head.rest_sound still (by decide) (by decide) (by simp [release, Head.releaseAgrees]) (by simp [sampled]) (by simp)

theorem Head.enterHeating_sound (now : Nat) (still : x.drivesNothing) (release : x.release = none)
    (sampled : x.monitor.sampleTimer ≠ none) : (x.enterHeating now).sound := by
  unfold Head.enterHeating
  split
  · exact Head.rest_sound still (by decide) (by decide) (by simp [release, Head.releaseAgrees]) (by simp [sampled]) (by simp)
  · exact Head.rest_sound still (by decide) (by decide) (by simp [release, Head.releaseAgrees]) (by simp [sampled]) (by simp)

theorem Head.restSafe_sound (now : Nat) (still : x.drivesNothing) (release : ∀ r, x.release = some r → r.dest = .safe)
    (sampled : x.monitor.sampleTimer ≠ none) : (x.rest now .safe 0).sound := by
  refine Head.rest_sound still (by decide) (by decide) ?_ (by simp [sampled]) (by simp)
  rcases hr : x.release with _ | r
  · simp [Head.releaseAgrees]
  · simp [Head.releaseAgrees, release r hr]

theorem Head.enterDest_sound (now : Nat) (dest : ReleaseDest) (still : x.drivesNothing) (release : x.release = none)
    (sampled : x.monitor.sampleTimer ≠ none) : (x.enterDest now dest).sound := by
  cases dest with
  | ready => exact Head.enterReady_sound now still release sampled
  | heating => exact Head.enterHeating_sound now still release sampled
  | safe => exact Head.restSafe_sound now still (by simp [release]) sampled

theorem Head.restFor_sound (now : Nat) {r : Release} (still : x.drivesNothing) (release : x.release = some r)
    (sampled : x.monitor.sampleTimer ≠ none) : (x.restFor now r.dest).sound := by
  cases hd : r.dest with
  | ready =>
    exact Head.rest_sound still (by decide) (by decide) (by simp [release, hd, Head.releaseAgrees]) (by simp [sampled]) (by simp)
  | heating =>
    exact Head.rest_sound still (by decide) (by decide) (by simp [release, hd, Head.releaseAgrees]) (by simp [sampled]) (by simp)
  | safe => exact Head.restSafe_sound now still (by simp [release, hd]) sampled

theorem Head.virtualOpen_sound (now : Nat) (h : x.sound) : (x.virtualOpen now).sound := by
  rw [Head.virtualOpen_eq]; exact h

end Rests

/-! ### The release phase and the ends of a cycle -/

section Ends

variable {x : HeadCtx}

/-- A sound head whose release phase is confirmed is sound at its destination (R85). -/
theorem HeadCtx.confirm_sound {r : Release} (h : x.head.sound) (release : x.head.release = some r) : (x.confirm r).head.sound := by
  have still : x.head.drivesNothing := by
    by_cases d : r.dest = .safe
    · exact h.drivesNothing (by simp [(h.release_state release).1 d]) (by simp [(h.release_state release).1 d])
    · exact h.drivesNothing (by simp [(h.release_state release).2 d]) (by simp [(h.release_state release).2 d])
  have sampled : r.dest ≠ .safe → x.head.monitor.sampleTimer ≠ none := fun d e => by
    simpa [(h.release_state release).2 d] using h.sampled_iff.2 e
  rw [HeadCtx.confirm_head]
  rcases hd : r.dest with _ | _ | _ <;> dsimp only
  · exact Head.enterReady_sound _ still rfl (sampled (by simp [hd]))
  · exact Head.enterHeating_sound _ still rfl (sampled (by simp [hd]))
  · have safe := (h.release_state release).1 hd
    exact h.withRelease (by simp [Head.releaseAgrees, safe])

/-- A head without cycle and ramp is sound after its release phase has begun (R84). -/
theorem HeadCtx.beginRelease_sound (dest : ReleaseDest) (owed : Bool) (cycle : x.head.cycle = none) (ramp : x.head.ramp = none)
    (sampled : x.head.monitor.sampleTimer ≠ none) : (x.beginRelease dest owed).head.sound := by
  unfold HeadCtx.beginRelease
  dsimp only
  generalize hr : Release.mk (x.now + x.head.params.openLimit) dest owed = r
  obtain rfl : dest = r.dest := by rw [← hr]
  have begun : Head.sound (Head.virtualOpen x.now (Head.restFor x.now r.dest
      { x.head with closeOut := false, auxOut := false, platen := x.head.platen.retract, release := some r })) :=
    Head.virtualOpen_sound _ (Head.restFor_sound _ ⟨cycle, ramp, rfl, rfl⟩ rfl sampled)
  split
  · refine HeadCtx.confirm_sound begun ?_
    rw [HeadCtx.mapHead_head, Head.virtualOpen_eq]
    unfold Head.restFor
    split <;> rfl
  · exact begun

theorem Head.sound.sampled (h : x.head.sound) (online : x.head.state ≠ .offline) : x.head.monitor.sampleTimer ≠ none :=
  fun e => online (h.sampled_iff.2 e)

/-- A PENDING or RUNNING head is sampled and in no release phase (R84, R110). -/
theorem Head.sound.of_cycle (h : x.head.sound) (cycle : x.head.cycle.isSome) :
    x.head.release = none ∧ x.head.monitor.sampleTimer ≠ none := by
  rcases h.cycle_state cycle with e | e
  · exact ⟨h.release_none (by simp [e]) (by simp [e]), h.sampled (by simp [e])⟩
  · exact ⟨h.release_none (by simp [e]) (by simp [e]), h.sampled (by simp [e])⟩

theorem HeadCtx.abnormal_sound (reason : EndReason) (dest : ReleaseDest) (primary : Bool) (h : x.head.sound)
    (cycle : x.head.cycle.isSome) : (x.abnormal reason dest primary).head.sound := by
  obtain ⟨release, sampled⟩ := h.of_cycle cycle
  unfold HeadCtx.abnormal
  dsimp only
  split
  · rw [HeadCtx.mapHead_head, HeadCtx.finish_head]
    exact Head.enterDest_sound _ _ ⟨rfl, rfl, rfl, rfl⟩ release sampled
  · refine HeadCtx.beginRelease_sound dest primary ?_ ?_ ?_
    all_goals rw [HeadCtx.finish_head]
    · rfl
    · rfl
    · exact sampled

theorem HeadCtx.enterSafe_sound (reason : EndReason) (h : x.head.sound) : (x.enterSafe reason).head.sound := by
  unfold HeadCtx.enterSafe
  split
  · exact h
  rename_i outside
  simp only [not_or] at outside
  split
  · exact HeadCtx.abnormal_sound _ _ _ h (by assumption)
  rename_i noCycle
  have still := h.drivesNothing_of_cycle (by simpa using noCycle)
  have sampled := h.sampled outside.2
  split
  · exact Head.restSafe_sound _ still (by simp) sampled
  · split
    · exact Head.restSafe_sound _ ⟨still.1, still.2.1, rfl, rfl⟩ (by simp [*]) sampled
    · exact HeadCtx.beginRelease_sound _ _ still.1 still.2.1 sampled

theorem HeadCtx.openLate_sound (h : x.head.sound) : x.openLate.head.sound :=
  HeadCtx.enterSafe_sound _ h

theorem HeadCtx.releaseExpiry_sound (h : x.head.sound) (release : x.head.release.isSome) : x.releaseExpiry.head.sound := by
  obtain ⟨r, hr⟩ := Option.isSome_iff_exists.1 release
  have state : x.head.state = .safe ∨ x.head.state = .releasing := by
    by_cases d : r.dest = .safe
    · exact .inl ((h.release_state hr).1 d)
    · exact .inr ((h.release_state hr).2 d)
  refine Head.restSafe_sound _ (h.drivesNothing ?_ ?_) (fun _ e => by cases e) (h.sampled ?_)
  all_goals rcases state with e | e <;> simp [e]

theorem HeadCtx.indexStart_sound (h : x.head.sound) : x.indexStart.head.sound := by
  have ended : (if x.head.cycle.isSome then x.abnormal .overrun .ready true else x).head.sound := by
    split
    · exact HeadCtx.abnormal_sound _ _ _ h (by assumption)
    · exact h
  unfold HeadCtx.indexStart
  split
  · exact h
  · dsimp only
    split
    · exact ended
    · split <;> exact ended

theorem HeadCtx.trackStop_sound (h : x.head.sound) : x.trackStop.head.sound := by
  unfold HeadCtx.trackStop
  split
  · exact HeadCtx.abnormal_sound _ _ _ h (by assumption)
  · exact h

end Ends

/-! ### Requests on a head -/

section Requests

variable {x : HeadCtx}

theorem HeadCtx.online_sound (h : x.head.sound) (offline : x.head.state = .offline) : x.online.head.sound := by
  have still := h.drivesNothing (by simp [offline]) (by simp [offline])
  have release := h.release_none (by simp [offline]) (by simp [offline])
  unfold HeadCtx.online
  dsimp only
  split
  · exact Head.enterHeating_sound _ still release (by simp [Monitor.fresh])
  · exact HeadCtx.beginRelease_sound _ _ still.1 still.2.1 (by simp [Monitor.fresh])

theorem HeadCtx.offline_sound (h : x.head.sound) : x.offline.head.sound := by
  unfold HeadCtx.offline
  split
  · exact h
  · exact Head.rest_sound ⟨rfl, rfl, rfl, rfl⟩ (by decide) (by decide) (by simp [Head.releaseAgrees]) (by simp [Monitor.stop]) (by simp)

theorem HeadCtx.clear_sound (h : x.head.sound) (online : x.head.state ≠ .offline) : x.clear.head.sound := by
  unfold HeadCtx.clear
  dsimp only
  split
  · exact HeadCtx.abnormal_sound _ _ _ h (by assumption)
  rename_i noCycle
  have still := h.drivesNothing_of_cycle (by simpa using noCycle)
  split
  · exact h
  rename_i notSafe
  split
  · rename_i r hr
    have releasing : x.head.state = .releasing :=
      (h.release_state hr).2 fun d => notSafe ((h.release_state hr).1 d)
    exact h.withRelease (by simp [Head.releaseAgrees, releasing])
  · split
    · exact Head.enterHeating_sound x.now still (by assumption) (h.sampled online)
    · exact HeadCtx.beginRelease_sound _ _ still.1 still.2.1 (h.sampled online)

theorem HeadCtx.releaseSafe_sound (h : x.head.sound) (safe : x.head.state = .safe) : x.releaseSafe.head.sound := by
  have still := h.drivesNothing (by simp [safe]) (by simp [safe])
  have sampled := h.sampled (by simp [safe])
  unfold HeadCtx.releaseSafe
  split
  · exact Head.restFor_sound (r := { ‹Release› with dest := .heating }) _ still rfl sampled
  · split
    · exact Head.enterHeating_sound x.now still (by assumption) sampled
    · exact HeadCtx.beginRelease_sound _ _ still.1 still.2.1 sampled

end Requests
end Sys2Proof.Machine
end

section
/-! PROOFS. A RUNNING head and its segments, platen edges, and the start of a cycle keep a head sound (R71 to R81, R97 to R100). -/

namespace Sys2Proof.Machine

/-! ### A RUNNING head -/

section Running

variable {x : Head}

/-- A head that is sound in RUNNING. -/
def Head.runsSoundly (x : Head) : Prop :=
  x.state = .running ∧ x.sound

/-- What soundness says of a RUNNING head (R72, R84, R105, R106, R110). -/
theorem Head.runsSoundly_iff (x : Head) :
    x.runsSoundly ↔
      x.state = .running ∧ x.run?.isSome ∧ x.release = none ∧ x.monitor.sampleTimer ≠ none ∧
        (x.closeOut = true → x.params.loopMode = .normal) ∧ (x.auxOut = true → x.params.loopMode = .normal) ∧ x.portsFit := by
  constructor
  · rintro ⟨running, h⟩
    have release := h.release_none (by simp [running]) (by simp [running])
    have fits := h.portsFit
    obtain ⟨⟨run, -, -, -, -, timer, close, aux⟩, -⟩ := h
    exact ⟨running, run.1 running, release, fun e => by simpa [running] using timer.2 e, fun e => (close e).2,
      fun e => (aux e).2, fits⟩
  · rintro ⟨running, run, release, sampled, close, aux, fits⟩
    refine ⟨running, ⟨by simp [running, run], ?_, ?_, ?_, fun _ => running, ?_, fun e => ⟨running, close e⟩,
      fun e => ⟨running, aux e⟩⟩, (Head.presentsSafely_iff x).2 ⟨fits, fun n => absurd running n⟩⟩
    · obtain ⟨r, hr⟩ := Option.isSome_iff_exists.1 run
      simp [running, hr]
    · simp [running, release]
    · simp [release]
    · simp [running, sampled]

/-- A RUNNING head stays sound under a change that keeps what `runsSoundly_iff` names, its ports fitting. -/
theorem Head.runsSoundly.of {y : Head} (h : x.runsSoundly) (state : y.state = x.state) (run : y.run?.isSome = x.run?.isSome)
    (release : y.release = x.release) (monitor : y.monitor = x.monitor) (params : y.params = x.params)
    (close : y.closeOut = true → y.params.loopMode = .normal ∨ x.closeOut = true)
    (aux : y.auxOut = true → y.params.loopMode = .normal ∨ x.auxOut = true) (fits : y.portsFit) : y.runsSoundly := by
  obtain ⟨running, hrun, hrelease, sampled, hclose, haux, -⟩ := (Head.runsSoundly_iff x).1 h
  refine (Head.runsSoundly_iff y).2 ⟨state.trans running, run.trans hrun, release.trans hrelease, monitor ▸ sampled,
    fun e => ?_, fun e => ?_, fits⟩
  · exact (close e).elim id fun e => params ▸ hclose e
  · exact (aux e).elim id fun e => params ▸ haux e

theorem Head.runsSoundly.portsFit (h : x.runsSoundly) : x.portsFit :=
  h.2.portsFit

theorem Head.updateRun_run?_isSome (f : Run → Run) (x : Head) : (x.updateRun f).run?.isSome = x.run?.isSome := by
  rw [Head.updateRun_run?, Option.isSome_map]

theorem Head.runsSoundly.updateRun (h : x.runsSoundly) (f : Run → Run) : (x.updateRun f).runsSoundly :=
  h.of rfl (x.updateRun_run?_isSome f) rfl rfl rfl .inr .inr h.portsFit

theorem Head.runsSoundly.noteClamp (h : x.runsSoundly) (c : Bool) : (x.noteClamp c).runsSoundly := by
  unfold Head.noteClamp
  split
  · exact h.updateRun _
  · exact h

theorem Head.runsSoundly.noteCeiling (h : x.runsSoundly) (v : Nat) : (x.noteCeiling v).runsSoundly := by
  unfold Head.noteCeiling
  split
  · exact h.updateRun _
  · exact h

theorem Head.runsSoundly.setTemp (h : x.runsSoundly) (now v : Nat) : (x.setTemp now v).runsSoundly := by
  unfold Head.setTemp
  split
  · exact h
  · exact (h.of (y := { x with tempSet := v, tempChanged := some now, heaterCode := (x.present .heater v).1 })
      rfl rfl rfl rfl rfl .inr .inr ⟨rfl, h.portsFit.2⟩).noteClamp _

theorem Head.runsSoundly.setPres (h : x.runsSoundly) (v : Nat) : (x.setPres v).runsSoundly := by
  unfold Head.setPres
  split
  · exact h
  · exact (h.of (y := { x with presSet := v, pressureCode := (x.present .pressure v).1 })
      rfl rfl rfl rfl rfl .inr .inr ⟨h.portsFit.1, rfl⟩).noteClamp _

theorem Head.runsSoundly.stepTemp (h : x.runsSoundly) (now : Nat) (t : Option Nat) : (x.stepTemp now t).runsSoundly := by
  cases t with
  | none => exact h
  | some v => exact (h.noteCeiling v).setTemp now _

theorem Head.runsSoundly.stepPres (h : x.runsSoundly) (t : Option Nat) : (x.stepPres t).runsSoundly := by
  cases t with
  | none => exact h
  | some v => exact h.setPres v

theorem Head.runsSoundly.ramped (h : x.runsSoundly) (o : Option Ramp) : ({ x with ramp := o } : Head).runsSoundly :=
  h.of rfl rfl rfl rfl rfl .inr .inr h.portsFit

theorem Head.runsSoundly.rampTo (h : x.runsSoundly) (now elapsed : Nat) (p : Ramp) : (x.rampTo now elapsed p).runsSoundly := by
  unfold Head.rampTo
  rcases p with ⟨start, duration, next, _ | t, _ | w⟩
  · exact h
  · exact h.setPres _
  · exact h.setTemp now _
  · exact (h.setTemp now _).setPres _

theorem Head.runsSoundly.rampEnd (h : x.runsSoundly) (now : Nat) (p : Ramp) : (x.rampEnd now p).runsSoundly := by
  unfold Head.rampEnd
  rcases p with ⟨start, duration, next, _ | t, _ | w⟩
  · exact h
  · exact h.setPres _
  · exact h.setTemp now _
  · exact (h.setTemp now _).setPres _

theorem Head.runsSoundly.startRamp (h : x.runsSoundly) (now : Nat) (g : Segment) : (x.startRamp now g).runsSoundly := by
  have noted : (match g.temperature with
      | none => x
      | some t => x.noteCeiling t : Head).runsSoundly := by
    cases g.temperature with
    | none => exact h
    | some t => exact h.noteCeiling t
  unfold Head.startRamp
  dsimp only
  split
  · exact noted.rampEnd now _
  · split
    · exact noted.ramped _
    · exact noted

theorem Head.runsSoundly.applyTargets (h : x.runsSoundly) (now : Nat) (g : Segment) : (x.applyTargets now g).runsSoundly := by
  unfold Head.applyTargets
  cases g.kind with
  | close => exact (h.stepTemp now _).stepPres _
  | hold => exact (h.stepTemp now _).stepPres _
  | openUp => exact (h.setPres 0).stepTemp now _
  | ramp => exact h.startRamp now g

theorem Head.drives_iff (x : Head) : x.drives = true ↔ x.params.loopMode = .normal := by
  simp [Head.drives]

theorem Head.runsSoundly.movePlaten (h : x.runsSoundly) (now : Nat) (g : Segment) : (x.movePlaten now g).runsSoundly := by
  rw [Head.movePlaten_eq]
  refine h.of rfl rfl rfl rfl rfl ?_ .inr h.portsFit
  cases g.kind with
  | close => exact fun e => .inl ((Head.drives_iff x).1 e)
  | openUp => exact fun e => by cases e
  | hold => exact .inr
  | ramp => exact .inr

end Running

/-! ### Segments -/

section Cycles

variable {x : HeadCtx}

theorem HeadCtx.beginSegment_runsSoundly (h : x.head.runsSoundly) (n : Nat) (g : Segment) : (x.beginSegment n g).head.runsSoundly := by
  rw [HeadCtx.beginSegment_head]
  have moved := ((h.updateRun fun r => { r with current := n, segStart := x.now, segDue := x.now + g.duration }).applyTargets
    x.now g).movePlaten x.now g
  refine moved.of rfl rfl rfl rfl rfl .inr (fun e => ?_) moved.portsFit
  dsimp only at e
  split at e
  · rename_i driven
    simp only [Bool.and_eq_true] at driven
    exact .inl ((Head.drives_iff _).1 driven.1.2)
  · exact .inr e

theorem HeadCtx.endSegment_runsSoundly (h : x.head.runsSoundly) (r : Run) : (x.endSegment r).2.head.runsSoundly := by
  have ended : ({ x.head with ramp := none, auxOut := false } : Head).runsSoundly :=
    h.of rfl rfl rfl rfl rfl .inr (fun e => by cases e) h.portsFit
  unfold HeadCtx.endSegment
  dsimp only
  split
  · split
    · have resealed := ended.updateRun fun r => { r with resealUsed := true }
      exact resealed.of rfl rfl rfl rfl rfl .inr .inr resealed.portsFit
    · exact ended.updateRun _
  · exact ended

theorem HeadCtx.complete_sound (h : x.head.runsSoundly) : x.complete.head.sound := by
  obtain ⟨-, -, release, sampled, -⟩ := (Head.runsSoundly_iff _).1 h
  have head : x.complete.head = Head.enterReady x.now { x.head.dropCycle with packRef := none } := by
    unfold HeadCtx.complete
    dsimp only
    split <;> simp
  rw [head]
  exact Head.enterReady_sound _ ⟨rfl, rfl, rfl, rfl⟩ release sampled

/-- A cycle that goes on leaves a sound head, at a segment or past the last (R76, R80). -/
theorem HeadCtx.runFrom_sound (fuel : Nat) : ∀ (n : Nat) {x : HeadCtx}, x.head.runsSoundly → (x.runFrom fuel n).head.sound := by
  induction fuel with
  | zero => exact fun _ _ h => h.2
  | succ fuel ih =>
    intro n x h
    unfold HeadCtx.runFrom
    split
    · exact h.2
    split
    · exact HeadCtx.complete_sound h
    · rename_i g _
      have begun := HeadCtx.beginSegment_runsSoundly h n g
      dsimp only
      split
      · split
        · exact begun.2
        · exact ih _ (HeadCtx.endSegment_runsSoundly begun _)
      · exact begun.2

theorem HeadCtx.advance_sound (h : x.head.runsSoundly) : x.advance.head.sound := by
  unfold HeadCtx.advance
  split
  · exact h.2
  · exact HeadCtx.runFrom_sound _ _ (HeadCtx.endSegment_runsSoundly h _)

theorem HeadCtx.segmentExpiry_sound (h : x.head.runsSoundly) : x.segmentExpiry.head.sound := by
  unfold HeadCtx.segmentExpiry
  dsimp only
  split
  · exact HeadCtx.advance_sound (h.rampEnd _ _)
  · exact HeadCtx.advance_sound h

theorem HeadCtx.rampStep_sound (h : x.head.runsSoundly) (p : Ramp) : (x.rampStep p).head.sound :=
  ((h.rampTo x.now p.next p).ramped _).2

/-- A segment is current only in RUNNING (R76). -/
theorem Head.sound.running_of_run {y : Head} (h : y.sound) (run : y.run?.isSome) : y.runsSoundly := by
  obtain ⟨⟨running, -⟩, -⟩ := id h
  exact ⟨running.2 run, h⟩

theorem Head.sound.running_of_ramp {y : Head} (h : y.sound) (ramp : y.ramp.isSome) : y.runsSoundly := by
  obtain ⟨⟨-, -, -, -, running, -⟩, -⟩ := id h
  exact ⟨running ramp, h⟩

theorem Head.segment_run {y : Head} {k : SegKind} (e : y.segment.map Segment.kind = some k) : y.run?.isSome := by
  unfold Head.segment at e
  rcases hr : y.run? with _ | r
  · simp [hr] at e
  · rfl

/-! ### Platen edges -/

theorem HeadCtx.closedEdge_sound (h : x.head.sound) : x.closedEdge.head.sound := by
  unfold HeadCtx.closedEdge
  split
  · rename_i r _ hr
    have running := h.running_of_run (by simp [hr])
    have recorded := running.updateRun fun r' => { r' with closure := some (min (x.now - r.segStart) (r.segDue - r.segStart)) }
    have closed : ({ x.head.updateRun (fun r' => { r' with closure := some (min (x.now - r.segStart) (r.segDue - r.segStart)) }) with
        platen := .closed
        counters := { x.head.counters with
          longest := max x.head.counters.longest (min (x.now - r.segStart) (r.segDue - r.segStart)) } } : Head).runsSoundly :=
      recorded.of rfl rfl rfl rfl rfl .inr .inr recorded.portsFit
    dsimp only
    split
    · exact HeadCtx.advance_sound closed
    · exact closed.2
  · exact h
  · exact h

theorem HeadCtx.openEdge_sound (h : x.head.sound) : x.openEdge.head.sound := by
  have opened : (x.mapHead fun y => { y with platen := .opened }).head.sound := h
  unfold HeadCtx.openEdge
  split
  all_goals try exact h
  all_goals
    dsimp only
    split
    · exact HeadCtx.confirm_sound opened (by assumption)
    · split
      · exact HeadCtx.advance_sound (Head.sound.running_of_run opened (Head.segment_run (y := x.head) (by assumption)))
      · exact opened

/-! ### Selection and start -/

/-- A head that waits for a cycle or for its start: what READY and PENDING have in common (R96, R106). -/
def Head.standsBy (x : Head) : Prop :=
  (x.state = .ready ∨ x.state = .pending) ∧ x.release = none ∧ x.monitor.sampleTimer ≠ none ∧ x.ramp = none ∧
  x.closeOut = false ∧ x.auxOut = false ∧ x.portsFit ∧ x.tempSet = x.params.standby ∧ x.presSet = 0

theorem Head.sound.standsBy {y : Head} (h : y.sound) (state : y.state = .ready ∨ y.state = .pending) : y.standsBy := by
  have notRunning : y.state ≠ .running := by rcases state with e | e <;> simp [e]
  have online : y.state ≠ .offline := by rcases state with e | e <;> simp [e]
  have notSafe : y.state ≠ .safe := by rcases state with e | e <;> simp [e]
  have notReleasing : y.state ≠ .releasing := by rcases state with e | e <;> simp [e]
  obtain ⟨temp, pres⟩ := h.setpointsRest notRunning
  have release := h.release_none notReleasing notSafe
  have timer := mt h.sampled_iff.2 online
  have fits := h.portsFit
  obtain ⟨⟨-, -, -, -, ramp, -, close, aux⟩, -⟩ := h
  refine ⟨state, release, timer, Option.not_isSome_iff_eq_none.1 fun e => notRunning (ramp e),
    Bool.eq_false_iff.2 fun e => notRunning (close e).1, Bool.eq_false_iff.2 fun e => notRunning (aux e).1, fits, ?_, pres⟩
  simpa [online, notSafe] using temp

/-- A state whose ports are not held at 0 is entered without a change of the codes (R106). -/
theorem Head.portsFit.enters {y : Head} (fits : y.portsFit) (live : y.state ≠ .offline ∧ y.state ≠ .safe) {st : HeadState}
    (live' : st ≠ .offline ∧ st ≠ .safe) : ({ y with state := st } : Head).portsFit := by
  have off : ({ y with state := st } : Head).portsOff = y.portsOff := by
    simp only [Head.portsOff, beq_eq_false_iff_ne.2 live.1, beq_eq_false_iff_ne.2 live.2, beq_eq_false_iff_ne.2 live'.1,
      beq_eq_false_iff_ne.2 live'.2]
  unfold Head.portsFit Head.present
  rw [off]
  exact fits

theorem Head.standsBy.live {y : Head} (h : y.standsBy) : y.state ≠ .offline ∧ y.state ≠ .safe := by
  obtain ⟨state, -⟩ := h
  rcases state with e | e <;> simp [e]

/-- The head after the start of a cycle, before segment 0 begins (R75). -/
theorem Head.standsBy.runs {y : Head} (h : y.standsBy) (o : Origin) (r : Run) (t : Option Nat) (c : Counters) :
    ({ y with state := .running, cycle := some ⟨o, some r⟩, startTimer := t, counters := c } : Head).runsSoundly := by
  have live := h.live
  obtain ⟨-, release, sampled, -, close, aux, fits, -⟩ := h
  exact (Head.runsSoundly_iff _).2 ⟨rfl, rfl, release, sampled, by simp [close], by simp [aux], fits.enters live (by decide)⟩

/-- A head that stands by is sound in READY without a cycle, and in PENDING with one that has not started. -/
theorem Head.standsBy.rests {y : Head} (h : y.standsBy) {st : HeadState} {c : Option Cycle} {p : Option PackRef} {t : Option Nat}
    (agrees : (st = .ready ∧ c = none) ∨ (st = .pending ∧ ∃ o, c = some ⟨o, none⟩)) :
    ({ y with state := st, cycle := c, packRef := p, startTimer := t } : Head).sound := by
  have live := h.live
  obtain ⟨-, release, sampled, ramp, close, aux, fits, temp, pres⟩ := h
  have live' : st ≠ .offline ∧ st ≠ .safe := by rcases agrees with ⟨e, -⟩ | ⟨e, -⟩ <;> simp [e]
  have notReleasing : st ≠ .releasing := by rcases agrees with ⟨e, -⟩ | ⟨e, -⟩ <;> simp [e]
  refine ⟨⟨?_, ?_, by simp [release, notReleasing], by simp [release], by simp [ramp], by simp [live', sampled], by simp [close],
    by simp [aux]⟩, (Head.presentsSafely_iff _).2 ⟨fits.enters live live', fun _ => ⟨by simpa [live'] using temp, pres⟩⟩⟩
  · rcases agrees with ⟨rfl, rfl⟩ | ⟨rfl, o, rfl⟩ <;> simp [Head.run?]
  · rcases agrees with ⟨rfl, rfl⟩ | ⟨rfl, o, rfl⟩ <;> simp [Head.run?]

theorem HeadCtx.launch_sound (h : x.head.standsBy) (o : Origin) (r : Run) : (x.launch o r).head.sound :=
  HeadCtx.runFrom_sound _ _ (h.runs o r none _)

theorem Head.standsBy.dropCycle {y : Head} (h : y.standsBy) : y.dropCycle.standsBy := by
  obtain ⟨state, release, sampled, -, -, -, rest⟩ := h
  exact ⟨state, release, sampled, rfl, rfl, rfl, rest⟩

theorem HeadCtx.dropPending_sound (h : x.head.standsBy) : x.dropPending.head.sound :=
  h.dropCycle.rests (.inl ⟨rfl, rfl⟩)

theorem HeadCtx.startPack_sound (h : x.head.standsBy) (l : Library) (code : Option Nat) : (x.startPack l code).head.sound := by
  unfold HeadCtx.startPack
  split
  · split
    · exact HeadCtx.dropPending_sound h
    · split
      · exact HeadCtx.dropPending_sound h
      · exact HeadCtx.launch_sound h _ _
  · exact HeadCtx.dropPending_sound h

theorem HeadCtx.choose_sound (h : x.head.standsBy) (l : Library) (ref : PackRef) (code : Nat) : (x.choose l ref code).head.sound := by
  have chosen : (x.mapHead fun y => { y with cycle := some ⟨.pack, none⟩, packRef := some ref }).head.standsBy := h
  have waits (t : Option Nat) := h.rests (p := some ref) (t := t) (.inr ⟨rfl, .pack, rfl⟩)
  unfold HeadCtx.choose
  dsimp only
  split
  · exact HeadCtx.startPack_sound chosen l _
  · split
    · exact HeadCtx.startPack_sound chosen l _
    · exact waits _
  · exact waits _

theorem HeadCtx.select_sound (h : x.head.sound) (l : Library) (ref : PackRef) (p : Pack) : (x.select l ref p).head.sound := by
  unfold HeadCtx.select
  split
  · exact h
  split
  · exact h
  split
  · exact h
  split
  · exact h
  split
  · exact h
  · rename_i ready
    simp only [ne_eq, not_or, not_not] at ready
    exact HeadCtx.choose_sound (h.standsBy (.inl ready.1)) l ref _

end Cycles
end Sys2Proof.Machine
end

section
/-! PROOFS. Samples and OFFLINE heads, and all heads with the store that serves them (R68, R107, R110 to R124, R178). -/

namespace Sys2Proof.Machine

/-! ### Samples and what leaves the cycle alone -/

section Samples

variable {x : HeadCtx}

/-- A cycle record rewritten leaves a head as sound as it was. -/
theorem Head.sound.updateRun {y : Head} (h : y.sound) (f : Run → Run) : (y.updateRun f).sound := by
  obtain ⟨⟨running, pending, rest⟩, presents⟩ := h
  refine ⟨⟨?_, ?_, rest⟩, presents⟩
  · rw [y.updateRun_run?_isSome f]
    exact running
  · rw [Head.updateRun_run?, Option.map_eq_none_iff, show (y.updateRun f).cycle.isSome = y.cycle.isSome from Option.isSome_map]
    exact pending

theorem Head.fiveSteps_sound {y : Head} (h : y.sound) (online : y.state ≠ .offline) (k : SampleClass) (m : Option Nat) (both : Bool)
    (due : Nat) : (y.fiveSteps k m both due).sound := by
  have marked := h.updateRun fun r =>
    let r' := if y.countsDose then r.addDose y.params.samplePeriod m else r
    { r' with lowSeen := r.lowSeen || BitSet.has (y.fiveSteps k m both due).monitor.live 0 }
  obtain ⟨⟨running, pending, releasing, safe, ramp, -, rest⟩, presents⟩ := marked
  exact ⟨⟨running, pending, releasing, safe, ramp, by simpa [Head.fiveSteps, Head.updateRun] using online, rest⟩, presents⟩

theorem HeadCtx.moveReady_sound (h : x.head.sound) (m : Option Nat) : (x.moveReady m).head.sound := by
  unfold HeadCtx.moveReady
  by_cases heating : x.head.state = .heating
  · rw [if_pos heating, HeadCtx.mapHead_head]
    generalize (if m.any x.head.inStandby then x.head.monitor.ready + 1 else 0) = n
    dsimp only
    split
    · exact Head.enterReady_sound x.now (h.drivesNothing (by simp [heating]) (by simp [heating]))
        (h.release_none (by simp [heating]) (by simp [heating])) (h.sampled (by simp [heating]))
    · exact h
  · rw [if_neg heating]
    exact h

theorem Head.cycle_of_run {y : Head} (run : y.run?.isSome) : y.cycle.isSome := by
  rcases hc : y.cycle with _ | c
  · simp [Head.run?, hc] at run
  · rfl

theorem HeadCtx.takeDeclared_sound (h : x.head.sound) (before : Head) : (x.takeDeclared before).head.sound := by
  have fault {y : HeadCtx} (hy : y.head.sound) (p : Prop) [Decidable p] :
      (if p ∧ y.head.state = .running then y.abnormal .platenFault .ready true else y).head.sound := by
    split
    · rename_i running
      have run := (Head.runsSoundly_iff _).1 ⟨running.2, hy⟩
      exact HeadCtx.abnormal_sound _ _ _ hy (Head.cycle_of_run run.2.1)
    · exact hy
  unfold HeadCtx.takeDeclared
  dsimp only
  refine fault ?_ _
  split
  · exact HeadCtx.enterSafe_sound _ h
  · split
    · exact HeadCtx.enterSafe_sound _ h
    · exact h

theorem HeadCtx.sampleAt_sound (h : x.head.sound) (online : x.head.state ≠ .offline) (due : Nat) (reading : Option Nat) :
    (x.sampleAt due reading).head.sound := by
  rw [HeadCtx.sampleAt_eq]
  refine HeadCtx.takeDeclared_sound ?_ _
  rw [HeadCtx.judge_eq]
  exact HeadCtx.moveReady_sound (Head.fiveSteps_sound h online _ _ _ _) _

end Samples

/-! ### OFFLINE heads, their parameters and their coefficients -/

section Offline

variable {x : Head}

/-- A head in OFFLINE that has and drives nothing is sound. -/
theorem Head.sound_of_offline (offline : x.state = .offline) (still : x.drivesNothing) (release : x.release = none)
    (unsampled : x.monitor.sampleTimer = none)
    (zero : x.tempSet = 0 ∧ x.presSet = 0 ∧ x.heaterCode = 0 ∧ x.pressureCode = 0) : x.sound := by
  obtain ⟨cycle, ramp, close, aux⟩ := still
  obtain ⟨temp, pres, heater, pressure⟩ := zero
  have off : x.portsOff = true := x.portsOff_iff.2 (.inl offline)
  refine ⟨⟨?_, ?_, ?_, ?_, ?_, ?_, ?_, ?_⟩, x.presentsSafely_iff.2 ⟨⟨?_, ?_⟩, fun _ => ⟨?_, pres⟩⟩⟩
  · simp [offline, Head.run?, cycle]
  · simp [offline, cycle]
  · simp [offline, release]
  · simp [release]
  · simp [ramp]
  · simp [offline, unsampled]
  · simp [close]
  · simp [aux]
  · rw [Head.present_off off, heater]
  · rw [Head.present_off off, pressure]
  · simp [offline, temp]

theorem Head.softReset_sound (x : Head) : x.softReset.sound :=
  Head.sound_of_offline rfl ⟨rfl, rfl, rfl, rfl⟩ rfl rfl ⟨rfl, rfl, rfl, rfl⟩

theorem Head.deviceReset_sound (openLevel : Bool) : (Head.deviceReset openLevel).sound :=
  Head.sound_of_offline rfl ⟨rfl, rfl, rfl, rfl⟩ rfl rfl ⟨rfl, rfl, rfl, rfl⟩

/-- Neither parameters nor coefficients show at the ports of an OFFLINE head (R66, R107, R179). -/
theorem Head.sound.reconfigured (h : x.sound) (offline : x.state = .offline) (p : HeadParams) (c : CoeffItems) :
    ({ x with params := p, coeffs := c } : Head).sound := by
  have off : x.portsOff = true := x.portsOff_iff.2 (.inl offline)
  obtain ⟨heater, pressure⟩ := h.portsFit
  obtain ⟨temp, pres⟩ := h.setpointsRest (by simp [offline])
  rw [Head.present_off off] at heater pressure
  exact Head.sound_of_offline offline (h.drivesNothing (by simp [offline]) (by simp [offline]))
    (h.release_none (by simp [offline]) (by simp [offline])) (h.sampled_iff.1 offline)
    ⟨by simpa [offline] using temp, pres, heater, pressure⟩

end Offline

/-! ### All heads and the store -/

section Heads

variable {s t : State} {i : Fin 16}

/-- Whether the store loads, or writes the record of a head (R68). -/
def Store.serves (i : Fin 16) (t : Store) : Prop :=
  t.isLoading = true ∨ t.isWriting i = true

/-- One head is sound, and OFFLINE while the store serves it. -/
def State.headSound (s : State) (i : Fin 16) : Prop :=
  (s.head i).sound ∧ (s.store.serves i → (s.head i).state = .offline)

/-- Every head is sound, and OFFLINE while the store serves it. -/
def State.headsSound (s : State) : Prop :=
  ∀ i, s.headSound i

theorem Store.isWriting_iff (t : Store) : t.isWriting i = true ↔ ∃ c, t.op = .writing i c := by
  unfold Store.isWriting
  cases t.op <;> simp

theorem State.storeServesOffline_iff (s : State) : s.storeServesOffline ↔ ∀ i, s.store.serves i → (s.head i).state = .offline := by
  simp only [Store.serves, Store.isLoading_iff, Store.isWriting_iff]
  constructor
  · rintro ⟨loading, writing⟩ i (⟨l, e⟩ | ⟨c, e⟩)
    · exact loading l e i
    · exact writing i c e
  · exact fun h => ⟨fun l e i => h i (.inl ⟨l, e⟩), fun i c e => h i (.inr ⟨c, e⟩)⟩

theorem State.headsSound_iff (s : State) :
    s.headsSound ↔ s.everyHead Head.coherent ∧ s.everyHead Head.presentsSafely ∧ s.storeServesOffline := by
  rw [State.storeServesOffline_iff]
  constructor
  · exact fun h => ⟨fun i => (h i).1.1, fun i => (h i).1.2, fun i => (h i).2⟩
  · exact fun ⟨coherent, presents, serves⟩ i => ⟨⟨coherent i, presents i⟩, serves i⟩

/-- What an act leaves of heads and store decides. -/
theorem State.headsSound.of_same (h : s.headsSound) (heads : t.heads = s.heads) (store : t.store = s.store) : t.headsSound := by
  unfold State.headsSound State.headSound State.head at *
  rw [heads, store]
  exact h

/-- A store that serves no head that it did not serve. -/
theorem State.headsSound.setStore (h : s.headsSound) {k : Store} (serves : ∀ i, k.serves i → s.store.serves i ∨ (s.head i).state = .offline) :
    (s.setStore k).headsSound :=
  fun i => ⟨(h i).1, fun e => (serves i e).elim (h i).2 id⟩

theorem State.headsSound.setStore_idle (h : s.headsSound) {k : Store} (loading : k.isLoading = false) (writing : ∀ i, k.isWriting i = false) :
    (s.setStore k).headsSound :=
  h.setStore fun i e => by simp [Store.serves, loading, writing i] at e

theorem State.headsSound.putHead (h : s.headsSound) {x : Head} (sound : x.sound)
    (offline : s.store.serves i → x.state = .offline) : (s.putHead i x).headsSound := by
  intro j
  by_cases e : j = i
  · subst e
    exact ⟨by rw [State.putHead_head_self]; exact sound, by rw [State.putHead_head_self]; exact offline⟩
  · have same := State.putHead_head_of_ne (s := s) x e
    exact ⟨by rw [same]; exact (h j).1, by rw [same]; exact (h j).2⟩

/-- The act of one head keeps all sound when it leaves that head sound, and OFFLINE where the store serves it. -/
theorem State.headsSound.actHead_of (h : s.headsSound) {f : HeadCtx → HeadCtx} (sound : (f (s.ctx i)).head.sound)
    (offline : s.store.serves i → (f (s.ctx i)).head.state = .offline) : (s.actHead i f).headsSound := by
  intro j
  by_cases e : j = i
  · subst e
    exact ⟨by rw [State.actHead_head_self]; exact sound, by rw [State.actHead_head_self, State.actHead_store]; exact offline⟩
  · have same := (s.actHead_of_ne f e).1
    exact ⟨by rw [same]; exact (h j).1, by rw [same, State.actHead_store]; exact (h j).2⟩

/-- An act of a head that leaves a sound head sound, and an OFFLINE one OFFLINE. -/
def HeadCtx.soundAct (f : HeadCtx → HeadCtx) (x : HeadCtx) : Prop :=
  x.head.sound → (f x).head.sound ∧ (x.head.state = .offline → (f x).head.state = .offline)

/-- An act of a head that is not OFFLINE. -/
theorem HeadCtx.soundAct.of_online {f : HeadCtx → HeadCtx} {x : HeadCtx} (online : x.head.sound → x.head.state ≠ .offline)
    (sound : x.head.sound → (f x).head.sound) : HeadCtx.soundAct f x :=
  fun h => ⟨sound h, fun e => absurd e (online h)⟩

theorem State.headsSound.actHead (h : s.headsSound) {f : HeadCtx → HeadCtx} (act : HeadCtx.soundAct f (s.ctx i)) :
    (s.actHead i f).headsSound :=
  h.actHead_of (act (h i).1).1 fun e => (act (h i).1).2 ((h i).2 e)

theorem State.headsSound.actHeads (h : s.headsSound) {f : Fin 16 → HeadCtx → HeadCtx} (act : ∀ i x, HeadCtx.soundAct (f i) x)
    (hs : List (Fin 16)) : (s.actHeads f hs).headsSound :=
  State.actHeads_induction hs h fun _ i _ hu => hu.actHead (act i _)

theorem State.headsSound.expire (h : s.headsSound) {due : Option Nat} {f : State → State}
    (act : ∀ n, due = some n → (s.advanceTo n).headsSound → (f (s.advanceTo n)).headsSound) : (s.expire due f).headsSound := by
  unfold State.expire
  split
  · exact h
  · exact act _ rfl (h.of_same rfl rfl)

theorem State.headsSound.expireHead (h : s.headsSound) {due : Option Nat} {f : HeadCtx → HeadCtx}
    (act : ∀ n, due = some n → HeadCtx.soundAct f ((s.advanceTo n).ctx i)) : (s.expireHead i due f).headsSound :=
  h.expire fun n e hn => hn.actHead (act n e)

end Heads

/-! ### Acts that every head may take -/

section Acts

variable {x : HeadCtx}

theorem Head.sound.online_of_cycle {y : Head} (h : y.sound) (cycle : y.cycle.isSome) : y.state ≠ .offline := by
  rcases h.cycle_state cycle with e | e <;> simp [e]

theorem Head.sound.online_of_run {y : Head} (h : y.sound) (run : y.run?.isSome) : y.state ≠ .offline :=
  h.online_of_cycle (Head.cycle_of_run run)

theorem Head.sound.no_run {y : Head} (h : y.sound) (offline : y.state = .offline) : y.run? = none :=
  Option.not_isSome_iff_eq_none.1 fun run => h.online_of_run run offline

theorem HeadCtx.abnormal_soundAct (reason : EndReason) (dest : ReleaseDest) (primary : Bool) (cycle : x.head.cycle.isSome) :
    HeadCtx.soundAct (HeadCtx.abnormal reason dest primary) x :=
  .of_online (fun h => h.online_of_cycle cycle) fun h => HeadCtx.abnormal_sound _ _ _ h cycle

theorem HeadCtx.indexStart_soundAct : HeadCtx.soundAct HeadCtx.indexStart x :=
  fun h => ⟨HeadCtx.indexStart_sound h, fun e => by simp [HeadCtx.indexStart, e]⟩

theorem HeadCtx.trackStop_soundAct : HeadCtx.soundAct HeadCtx.trackStop x := by
  intro h
  refine ⟨HeadCtx.trackStop_sound h, fun e => ?_⟩
  unfold HeadCtx.trackStop
  rw [if_neg fun cycle => h.online_of_cycle cycle e]
  exact e

theorem HeadCtx.select_soundAct (l : Library) (ref : PackRef) (p : Pack) : HeadCtx.soundAct (HeadCtx.select l ref p) x := by
  intro h
  refine ⟨HeadCtx.select_sound h l ref p, fun e => ?_⟩
  unfold HeadCtx.select
  split
  · exact e
  split
  · exact e
  split
  · exact e
  split
  · exact e
  split
  · exact e
  · rename_i ready
    exact absurd (.inl (by simp [e])) ready

theorem HeadCtx.zeroCounters_soundAct : HeadCtx.soundAct HeadCtx.zeroCounters x := by
  unfold HeadCtx.soundAct HeadCtx.zeroCounters
  dsimp only
  split <;> exact fun h => ⟨h, fun e => e⟩

theorem HeadCtx.enables_soundAct (mask flags : Byte) : HeadCtx.soundAct (HeadCtx.enables mask flags) x :=
  fun h => ⟨h, fun e => e⟩

theorem HeadCtx.offline_soundAct : HeadCtx.soundAct HeadCtx.offline x :=
  fun h => ⟨HeadCtx.offline_sound h, fun e => by simp [HeadCtx.offline, e]⟩

theorem HeadCtx.closedEdge_soundAct : HeadCtx.soundAct HeadCtx.closedEdge x := by
  intro h
  refine ⟨HeadCtx.closedEdge_sound h, fun e => ?_⟩
  unfold HeadCtx.closedEdge
  rw [h.no_run e]
  split
  · rename_i run
    cases run
  · exact e
  · exact e

theorem HeadCtx.openEdge_soundAct : HeadCtx.soundAct HeadCtx.openEdge x := by
  intro h
  refine ⟨HeadCtx.openEdge_sound h, fun e => ?_⟩
  have segment : x.head.segment.map Segment.kind ≠ some .openUp := by simp [Head.segment, h.no_run e]
  unfold HeadCtx.openEdge
  rw [h.release_none (by simp [e]) (by simp [e])]
  split
  · exact (congrArg (fun y : HeadCtx => y.head.state) (if_neg segment)).trans e
  · exact (congrArg (fun y : HeadCtx => y.head.state) (if_neg segment)).trans e
  all_goals exact e

theorem HeadCtx.physicalEdge_soundAct {edge : HeadCtx → HeadCtx} (act : HeadCtx.soundAct edge x) :
    HeadCtx.soundAct (HeadCtx.physicalEdge edge) x := by
  unfold HeadCtx.soundAct HeadCtx.physicalEdge
  split
  · exact fun h => ⟨h, fun e => e⟩
  · exact act

theorem HeadCtx.virtualEdge_soundAct (e : VirtualEdge) : HeadCtx.soundAct (HeadCtx.virtualEdge e) x := by
  cases e with
  | closed => exact HeadCtx.closedEdge_soundAct (x := x.mapHead fun h => { h with virtual := none })
  | opened => exact HeadCtx.openEdge_soundAct (x := x.mapHead fun h => { h with virtual := none })

end Acts
end Sys2Proof.Machine
end

section
/-! PROOFS. Every step keeps all heads sound. -/

namespace Sys2Proof.Machine

section Steps

variable {s t : State}

/-! ### The track and the store -/

theorem State.headsSound.withNestAt (h : s.headsSound) {p : Nat} {f : Nest → State → State} (act : ∀ n, (f n s).headsSound) :
    (s.withNestAt p f).headsSound := by
  unfold State.withNestAt
  split
  · exact act _
  · exact h

theorem State.headsSound.stationArrival (h : s.headsSound) (st : Station) (n : Nest) : (s.stationArrival st n).headsSound := by
  refine (h.actHeads (fun i x => ?_) _).of_same (State.noHeads_heads _ st n) (State.noHeads_store _ st n)
  unfold HeadCtx.soundAct
  dsimp only
  split
  · exact HeadCtx.select_soundAct _ _ _
  · exact fun hx => ⟨hx, fun e => e⟩

theorem State.headsSound.arrivals (h : s.headsSound) : s.arrivals.headsSound := by
  have form : s.formArrival.headsSound := by
    unfold State.formArrival
    split
    · exact h.withNestAt fun n => h.stationArrival _ n
    · exact h
  have sealing := form.withNestAt (p := s.formArrival.track.config.sealPos) fun n => form.stationArrival .sealing n
  exact sealing.withNestAt fun n => sealing.of_same (by simp) (by simp)

theorem State.headsSound.shift (h : s.headsSound) : s.shift.headsSound := by
  have out : (s.withNestAt (s.track.config.length - 1) State.discharge).headsSound :=
    h.withNestAt fun n => h.of_same (by simp) (by simp)
  exact (out.of_same (by simp) (by simp)).arrivals

theorem State.headsSound.takeIndexStart (h : s.headsSound) : s.takeIndexStart.headsSound := by
  have acts := (h.of_same (t := s.trackIndexStart) (by simp) (by simp)).actHeads (f := fun _ => HeadCtx.indexStart)
    (fun _ _ => HeadCtx.indexStart_soundAct) allHeads
  exact acts.of_same (State.gateIndexStart_heads _) (State.gateIndexStart_store _)

theorem State.headsSound.takeIndexDone (h : s.headsSound) (m : TrackMode) : (s.takeIndexDone m).1.headsSound := by
  unfold State.takeIndexDone
  split
  · exact h.of_same (by simp) (by simp)
  · have back : (s.setTrack { s.track with index := .dwell, stallTimer := none }).headsSound := h.of_same rfl rfl
    dsimp only
    split
    · exact back.shift
    · exact back

theorem State.headsSound.stopTrack (h : s.headsSound) : s.stopTrack.headsSound := by
  unfold State.stopTrack
  dsimp only
  generalize s.track.nests.map _ = purged
  have emptied {u : State} (hu : u.headsSound) (k : Track) (g : Gate) :
      (((u.setTrack k).actHeads (fun _ => HeadCtx.trackStop) allHeads).setGate g).headsSound :=
    ((hu.of_same (State.setTrack_heads u k) (State.setTrack_store u k)).actHeads (f := fun _ => HeadCtx.trackStop)
      (fun _ _ => HeadCtx.trackStop_soundAct) allHeads).of_same (State.setGate_heads _ g) (State.setGate_store _ g)
  exact emptied (h.of_same (by simp) (by simp)) _ _

theorem HeadCtx.loadCoeffs_offline {x : HeadCtx} (items : Option CoeffItems) (h : x.head.sound) (offline : x.head.state = .offline) :
    (x.loadCoeffs items).head.sound ∧ (x.loadCoeffs items).head.state = .offline := by
  cases items with
  | none => exact ⟨h.reconfigured offline x.head.params ⟨0, 0, 0, 0⟩, offline⟩
  | some c => exact ⟨h.reconfigured offline x.head.params c, offline⟩

theorem State.endLoad_head (judged : List (Option CoeffItems)) (i : Fin 16) :
    (s.endLoad judged).head i = ((s.ctx i).loadCoeffs ((judged[i.val]?).join)).head :=
  (State.actHeads_all (s := s.setStore { s.store with op := .idle }) (fun h x => x.loadCoeffs ((judged[h.val]?).join)) i).1

/-- The load ends with every head OFFLINE, so that no code follows the coefficients (R68, R107, R175). -/
theorem State.headsSound.judgeRecord (h : s.headsSound) (loading : s.store.isLoading = true) (judged : List (Option CoeffItems))
    (due : Nat) : (s.judgeRecord judged due).headsSound := by
  have offline (i : Fin 16) : (s.head i).state = .offline := (h i).2 (.inl loading)
  unfold State.judgeRecord
  split
  · intro i
    have head := State.endLoad_head (s := s) (s.store.judgedWith judged) i
    have acts := HeadCtx.loadCoeffs_offline (x := s.ctx i) (((s.store.judgedWith judged)[i.val]?).join) (h i).1 (offline i)
    rw [State.headSound, head]
    exact ⟨acts.1, fun _ => acts.2⟩
  · exact h.setStore fun i _ => .inr (offline i)

theorem State.headsSound.endWrite (h : s.headsSound) {i : Fin 16} (writing : s.store.isWriting i = true) (c : CoeffItems) :
    (s.endWrite i c).headsSound := by
  have offline : (s.head i).state = .offline := (h i).2 (.inr writing)
  refine (h.setStore_idle rfl fun _ => rfl).actHead fun sound => ?_
  unfold HeadCtx.writeCoeffs
  dsimp only
  split
  · exact ⟨sound.reconfigured offline (s.head i).params c, fun _ => offline⟩
  · exact ⟨sound.reconfigured offline (s.head i).params c, fun _ => offline⟩

/-! ### Resets -/

theorem State.softReset_headsSound (s : State) : s.softReset.headsSound := by
  intro i
  have head : s.softReset.head i = (s.head i).softReset := Bank.get_map _ _ _
  rw [State.headSound, head]
  exact ⟨Head.softReset_sound _, fun _ => rfl⟩

theorem State.deviceReset_headsSound (s : State) (openLevels closedLevels : BitVec 16) : (s.deviceReset openLevels closedLevels).headsSound := by
  intro i
  have head : (s.deviceReset openLevels closedLevels).head i =
      Head.deviceReset ((s.lines.setPlatens openLevels closedLevels).heads.get i).openLevel := Bank.get_map _ _ _
  rw [State.headSound, head]
  exact ⟨Head.deviceReset_sound _, fun _ => rfl⟩

/-! ### Requests -/

theorem actTrackSetup_headsSound (r : TrackSetupReq) (h : s.headsSound) : (actTrackSetup r s).1.headsSound := by
  simp only [actTrackSetup]
  split
  · exact h
  split
  · exact h
  split
  · exact h
  · exact h.of_same (by simp [answered]) (by simp [answered])

theorem actGateSetup_headsSound (r : GateSetupReq) (h : s.headsSound) : (actGateSetup r s).1.headsSound := by
  simp only [actGateSetup]
  split
  · exact h
  split
  · exact h
  · exact h.of_same rfl rfl

theorem actTrackStart_headsSound (g : Byte) (h : s.headsSound) : (actTrackStart g s).1.headsSound := by
  unfold actTrackStart
  split
  · exact h
  split
  · exact h
  · exact h.of_same rfl rfl

theorem actTrackStop_headsSound (h : s.headsSound) : (actTrackStop s).1.headsSound := by
  unfold actTrackStop
  split
  · exact h
  · exact h.stopTrack

theorem actStep_headsSound (h : s.headsSound) : (actStep s).1.headsSound := by
  simp only [actStep]
  split
  · exact h
  split
  · exact h
  · exact h.takeIndexStart.of_same (State.setTrack_heads _ _) (State.setTrack_store _ _)

theorem actManifestPost_headsSound (c : Lanes Byte) (h : s.headsSound) : (actManifestPost c s).1.headsSound := by
  simp only [actManifestPost]
  split
  · exact h
  split
  · exact h
  · exact h.of_same (by simp [answered]) (by simp [answered])

theorem actVerdict_headsSound (n : Half) (m r : Byte) (h : s.headsSound) : (actVerdict n m r s).1.headsSound := by
  simp only [actVerdict]
  split
  · exact h
  split
  · exact h
  · exact h.of_same rfl rfl

theorem actFormatPut_headsSound (r : FormatReq) (h : s.headsSound) : (actFormatPut r s).1.headsSound := by
  simp only [actFormatPut]
  split
  · exact h
  split
  · exact h
  split
  · exact h
  · exact h.of_same rfl rfl

theorem actFormatDrop_headsSound (c : Byte) (h : s.headsSound) : (actFormatDrop c s).1.headsSound := by
  simp only [actFormatDrop]
  split
  · exact h
  split
  · exact h
  split
  · exact h
  · exact h.of_same rfl rfl

theorem actProfilePut_headsSound (id : Byte) (gs : List SegmentReq) (h : s.headsSound) : (actProfilePut id gs s).1.headsSound := by
  simp only [actProfilePut]
  split
  · exact h
  split
  · exact h
  split
  · exact h
  split
  · exact h
  · exact h.of_same rfl rfl

theorem actProfileDrop_headsSound (id : Byte) (h : s.headsSound) : (actProfileDrop id s).1.headsSound := by
  simp only [actProfileDrop]
  split
  · exact h
  split
  · exact h
  split
  · exact h
  · exact h.of_same rfl rfl

theorem actCoeffRead_headsSound (b : Byte) (h : s.headsSound) : (actCoeffRead b s).1.headsSound := by
  unfold actCoeffRead
  split
  · exact h
  split
  · exact h
  · exact h.setStore_idle rfl fun _ => rfl

/-- A write begins only for a head that is OFFLINE (R178). -/
theorem actCoeffWrite_headsSound (b : Byte) (c : CoeffItems) (h : s.headsSound) : (actCoeffWrite b c s).1.headsSound := by
  unfold actCoeffWrite
  split
  · exact h
  split
  · exact h
  split
  · exact h
  · rename_i i _ _ offline
    refine h.setStore fun j serves => .inr ?_
    obtain rfl : i = j := by simpa [Store.serves, Store.isLoading, Store.isWriting] using serves
    exact not_not.1 offline

theorem actHeadSetup_headsSound (b : Byte) (r : HeadSetupReq) (h : s.headsSound) : (actHeadSetup b r s).1.headsSound := by
  unfold actHeadSetup
  split
  · exact h
  split
  · exact h
  split
  · exact h
  split
  · exact h
  split
  · exact h
  · rename_i i _ offline _ p _ _ _
    have off := not_not.1 offline
    exact h.putHead ((h i).1.reconfigured off p (s.head i).coeffs) fun _ => off

theorem actHeadEnables_headsSound (b m g : Byte) (h : s.headsSound) : (actHeadEnables b m g s).1.headsSound := by
  unfold actHeadEnables
  split
  · exact h
  · exact h.actHead (HeadCtx.enables_soundAct m g)

/-- A head leaves OFFLINE only while the store does not serve it (R68). -/
theorem actHeadOnline_headsSound (b : Byte) (h : s.headsSound) : (actHeadOnline b s).1.headsSound := by
  simp only [actHeadOnline]
  split
  · exact h
  split
  · exact h
  split
  · exact h
  split
  · exact h
  · rename_i i _ offline loading writing
    exact h.actHead_of (HeadCtx.online_sound (x := s.ctx i) (h i).1 (not_not.1 offline)) fun serves =>
      absurd serves (not_or.2 ⟨loading, writing⟩)

theorem actHeadOffline_headsSound (b : Byte) (h : s.headsSound) : (actHeadOffline b s).1.headsSound := by
  unfold actHeadOffline
  split
  · exact h
  · exact h.actHead HeadCtx.offline_soundAct

/-- A head PENDING or RUNNING has a cycle. -/
theorem Head.sound.cycle_isSome {x : Head} (h : x.sound) (state : x.state = .pending ∨ x.state = .running) : x.cycle.isSome := by
  obtain ⟨⟨running, pending, -⟩, -⟩ := h
  rcases state with e | e
  · exact (pending.1 e).1
  · exact Head.cycle_of_run (running.1 e)

theorem actHeadHalt_headsSound (b : Byte) (h : s.headsSound) : (actHeadHalt b s).1.headsSound := by
  unfold actHeadHalt
  split
  · exact h
  split
  · rename_i i _ state
    exact h.actHead (HeadCtx.abnormal_soundAct _ _ _ ((h i).1.cycle_isSome state))
  · exact h

theorem actHeadCancel_headsSound (b : Byte) (h : s.headsSound) : (actHeadCancel b s).1.headsSound := by
  unfold actHeadCancel
  split
  · exact h
  split
  · rename_i i _ state
    exact h.actHead (HeadCtx.abnormal_soundAct _ _ _ ((h i).1.cycle_isSome (.inl state)))
  · exact h

theorem actHeadClear_headsSound (b : Byte) (h : s.headsSound) : (actHeadClear b s).1.headsSound := by
  simp only [actHeadClear]
  split
  · exact h
  split
  · exact h
  · exact h.actHead (.of_online (fun _ => by assumption) fun sound => HeadCtx.clear_sound sound (by assumption))

theorem actHeadRelease_headsSound (b : Byte) (h : s.headsSound) : (actHeadRelease b s).1.headsSound := by
  simp only [actHeadRelease]
  split
  · exact h
  split
  · exact h
  · rename_i i _ guard
    have safe : (s.head i).state = .safe := not_not.1 fun n => guard (.inl n)
    exact h.actHead (.of_online (fun _ => show (s.head i).state ≠ .offline by simp [safe]) fun sound =>
      HeadCtx.releaseSafe_sound sound safe)

theorem actStatusTake_headsSound (b : Byte) (h : s.headsSound) : (actStatusTake b s).1.headsSound := by
  unfold actStatusTake
  split
  · exact h
  · exact h.of_same rfl rfl

theorem actHeadQuery_headsSound (b : Byte) (h : s.headsSound) : (actHeadQuery b s).1.headsSound := by
  unfold actHeadQuery
  split <;> exact h

theorem actNestQuery_headsSound (n : Half) (h : s.headsSound) : (actNestQuery n s).1.headsSound := by
  unfold actNestQuery
  split
  · exact h
  · split <;> exact h

theorem actCountRead_headsSound (b : Byte) (h : s.headsSound) : (actCountRead b s).1.headsSound := by
  unfold actCountRead
  split <;> exact h

theorem actCountSnapshot_headsSound (h : s.headsSound) : (actCountSnapshot s).1.headsSound := by
  intro i
  have head : (actCountSnapshot s).1.head i = (s.head i).snapshot := Bank.get_map _ _ _
  rw [State.headSound, head]
  exact h i

theorem actCountZero_headsSound (g b : Byte) (h : s.headsSound) : (actCountZero g b s).1.headsSound := by
  simp only [actCountZero, answered]
  split
  · dsimp only
    exact h.actHeads (f := fun _ => HeadCtx.zeroCounters) (fun _ _ => HeadCtx.zeroCounters_soundAct) allHeads
  split
  · exact h
  · exact h.actHead HeadCtx.zeroCounters_soundAct

theorem actCycleOnce_headsSound (b : Byte) (r : CycleOnceReq) (h : s.headsSound) : (actCycleOnce b r s).1.headsSound := by
  unfold actCycleOnce
  split
  · exact h
  split
  · exact h
  split
  · exact h
  split
  · exact h
  rename_i i _ _ _ guard
  have ready : (s.head i).state = .ready := not_not.1 fun n => guard (.inl n)
  split
  · exact h
  · exact h.actHead (.of_online (fun _ => show (s.head i).state ≠ .offline by simp [ready]) fun sound =>
      HeadCtx.launch_sound (x := (s.ctx i).mapHead fun y => { y with packRef := none }) (sound.standsBy (.inl ready)) _ _)

theorem actInject_headsSound (b n : Byte) (h : s.headsSound) : (actInject b n s).1.headsSound := by
  unfold actInject
  split
  · exact h
  split
  · exact h
  split
  · exact h
  · rename_i i _ _ _
    exact h.putHead (h i).1 (h i).2

/-- Every request keeps all heads sound. -/
theorem requestAct_headsSound (i : Instr) (h : s.headsSound) : (requestAct i s).1.headsSound := by
  cases i with
  | partReset => exact State.softReset_headsSound s
  | trackSetup _ r => exact actTrackSetup_headsSound r h
  | gateSetup _ r => exact actGateSetup_headsSound r h
  | headSetup _ b r => exact actHeadSetup_headsSound b r h
  | headEnables _ b m g => exact actHeadEnables_headsSound b m g h
  | formatPut _ r => exact actFormatPut_headsSound r h
  | formatDrop _ c => exact actFormatDrop_headsSound c h
  | profilePut _ id gs => exact actProfilePut_headsSound id gs h
  | profileDrop _ id => exact actProfileDrop_headsSound id h
  | trackStart _ g => exact actTrackStart_headsSound g h
  | trackStop => exact actTrackStop_headsSound h
  | manifestPost _ c => exact actManifestPost_headsSound c h
  | manifestFlush => exact h.of_same (State.crossManifest_heads _ _) (State.crossManifest_store _ _)
  | verdict _ n m r => exact actVerdict_headsSound n m r h
  | holdRelease => exact h.of_same (State.changeCauses_heads _ _) (State.changeCauses_store _ _)
  | headOnline _ b => exact actHeadOnline_headsSound b h
  | headOffline _ b => exact actHeadOffline_headsSound b h
  | headHalt _ b => exact actHeadHalt_headsSound b h
  | headCancel _ b => exact actHeadCancel_headsSound b h
  | headClear _ b => exact actHeadClear_headsSound b h
  | headRelease _ b => exact actHeadRelease_headsSound b h
  | statusTake _ b => exact actStatusTake_headsSound b h
  | trackStatusTake => exact h.of_same rfl rfl
  | headQuery _ b => exact actHeadQuery_headsSound b h
  | nestQuery _ n => exact actNestQuery_headsSound n h
  | countSnapshot => exact actCountSnapshot_headsSound h
  | countRead _ b => exact actCountRead_headsSound b h
  | countZero _ g b => exact actCountZero_headsSound g b h
  | coeffRead _ b => exact actCoeffRead_headsSound b h
  | coeffWrite _ b c => exact actCoeffWrite_headsSound b c h
  | cycleOnce _ b r => exact actCycleOnce_headsSound b r h
  | inject _ b n => exact actInject_headsSound b n h
  | step => exact actStep_headsSound h
  | _ => exact h

/-! ### Frames taken (R185, R186) -/

theorem State.headsSound.mapLink (h : s.headsSound) (f : Link → Link) : (s.mapLink f).headsSound :=
  h.of_same rfl rfl

theorem State.headsSound.take (kind tag : Byte) {act : State → State × Option Answer} (h : (act s).1.headsSound) :
    (s.take kind tag act).headsSound := by
  unfold State.take
  split
  all_goals
    rename_i e
    rw [e] at h
    exact h.mapLink _

theorem State.headsSound.takeFrame (h : s.headsSound) (f : Frame) : (s.takeFrame f).headsSound := by
  unfold State.takeFrame
  split
  · exact h.mapLink _
  · exact h.mapLink _
  · exact State.headsSound.take _ _ (requestAct_headsSound _ h)

theorem State.headsSound.takeFrames (h : s.headsSound) (n : Nat) : (s.takeFrames n).headsSound := by
  induction n generalizing s with
  | zero => exact h
  | succ n ih =>
    unfold State.takeFrames
    split
    · exact h
    · split
      · exact ih ((h.mapLink _).takeFrame _)
      · exact h

theorem State.headsSound.resumeTaking (h : s.headsSound) : s.resumeTaking.headsSound :=
  h.takeFrames _

theorem State.headsSound.offerFrame (h : s.headsSound) (f : Frame) : (s.offerFrame f).headsSound :=
  (h.mapLink _).resumeTaking

theorem State.headsSound.request (h : s.headsSound) (i : Instr) : (s.request i (requestAct i)).headsSound := by
  unfold State.request
  split
  · exact h
  · split
    · exact State.headsSound.take _ _ (requestAct_headsSound i h)
    · exact h.offerFrame _

theorem State.headsSound.judgeFrame (h : s.headsSound) : s.judgeFrame.headsSound := by
  unfold State.judgeFrame
  split
  · exact h
  · dsimp only
    split
    · exact (h.mapLink _).offerFrame _
    · exact h.mapLink _

/-! ### Events -/

theorem State.nextMessage_heads {f : Frame} {src : Source} (h : s.nextMessage = some (f, src, t)) :
    t.heads = s.heads ∧ t.store = s.store := by
  unfold State.nextMessage at h
  split at h
  · cases h; exact ⟨rfl, rfl⟩
  · cases h; exact ⟨rfl, rfl⟩
  · cases h; exact ⟨rfl, rfl⟩
  · split at h
    · cases h; exact ⟨rfl, rfl⟩
    · cases h

theorem State.headsSound.beginMessage (h : s.headsSound) : s.beginMessage.headsSound := by
  unfold State.beginMessage
  split
  · split
    · rename_i source s' e
      exact (h.of_same (State.nextMessage_heads e).1 (State.nextMessage_heads e).2).mapLink _
    · exact h
  · exact h

/-- A segment timer runs only in a cycle that has started. -/
theorem Head.run_of_segmentDue {x : Head} {kinds : List SegKind} {n : Nat} (due : x.segmentDue kinds = some n) : x.run?.isSome := by
  unfold Head.segmentDue at due
  split at due
  · cases due
  · rename_i e
    rw [e]; rfl

/-- A start timer runs only in a cycle. -/
theorem Head.sound.pending_of_startDue {x : Head} {source : StartSource} {n : Nat} (due : x.startDue source = some n) :
    x.state = .pending := by
  unfold Head.startDue Head.waitsFor at due
  split at due
  · rename_i waits
    simp only [Bool.and_eq_true, beq_iff_eq] at waits
    exact waits.1
  · cases due

theorem State.headsSound.startPending (h : s.headsSound) {i : Fin 16} (pending : (s.head i).state = .pending) :
    (s.startPending i).headsSound :=
  h.actHead (.of_online (fun _ => show (s.head i).state ≠ .offline by simp [pending]) fun sound =>
    HeadCtx.startPack_sound (sound.standsBy (.inr pending)) _ _)

theorem execSample_headsSound {i : Fin 16} {r : Option Nat} {c o : Bool} (h : s.headsSound) (e : execSample i r c o s = .next t) :
    t.headsSound := by
  have lines : (s.setHeadLines i ⟨r, c, o⟩).headsSound := h.of_same rfl rfl
  simp only [execSample] at e
  split at e
  · cases e; exact lines
  · rename_i due timer
    cases e
    have online : (s.head i).state ≠ .offline := fun off => by simpa [timer] using (h i).1.sampled_iff.1 off
    have later := lines.of_same (State.advanceTo_heads _ due) (State.advanceTo_store _ due)
    exact later.actHead (f := HeadCtx.sampleAt due r) (.of_online (fun _ => online) fun sound => HeadCtx.sampleAt_sound sound online _ _)

theorem execRampStep_headsSound {i : Fin 16} (h : s.headsSound) (e : execRampStep i s = .next t) : t.headsSound := by
  unfold execRampStep at e
  split at e
  · cases e; exact h
  · rename_i p ramp
    cases e
    have runs : (s.head i).runsSoundly := (h i).1.running_of_ramp (by simp [ramp])
    exact h.expireHead fun n _ => .of_online (fun _ => show (s.head i).state ≠ .offline by simp [runs.1]) fun _ =>
      HeadCtx.rampStep_sound (x := (s.advanceTo n).ctx i) runs p

theorem execSyntheticIndexDone_headsSound (h : s.headsSound) (e : execSyntheticIndexDone s = .next t) : t.headsSound := by
  unfold execSyntheticIndexDone at e
  split at e
  · cases e; exact h
  · cases e
    have taken {u : State} (hu : u.headsSound) (k : Track) (f : Link → Link) : (((u.setTrack k).takeIndexDone .test).1.mapLink f).headsSound :=
      (State.headsSound.takeIndexDone (hu.of_same (State.setTrack_heads _ k) (State.setTrack_store _ k)) .test).mapLink f
    exact taken (h.of_same (State.advanceTo_heads _ _) (State.advanceTo_store _ _)) _ _

theorem execVirtualEdgeExpiry_headsSound {i : Fin 16} (h : s.headsSound) (e : execVirtualEdgeExpiry i s = .next t) : t.headsSound := by
  unfold execVirtualEdgeExpiry at e
  split at e
  · cases e; exact h
  · cases e
    exact (h.of_same (State.advanceTo_heads _ _) (State.advanceTo_store _ _)).actHead (HeadCtx.virtualEdge_soundAct _)

theorem execStartLineEdge_headsSound {i : Fin 16} (h : s.headsSound) (e : execStartLineEdge i s = .next t) : t.headsSound := by
  unfold execStartLineEdge at e
  cases e
  split
  · rename_i waits
    simp only [Head.waitsFor, Bool.and_eq_true, beq_iff_eq] at waits
    exact h.startPending waits.1
  · exact h

theorem execLoadRecordJudged_headsSound (h : s.headsSound) (e : execLoadRecordJudged s = .next t) : t.headsSound := by
  unfold execLoadRecordJudged at e
  split at e
  · rename_i judged op
    cases e
    have loading : s.store.isLoading = true := s.store.isLoading_iff.2 ⟨judged, op⟩
    exact State.headsSound.judgeRecord (h.of_same (State.advanceTo_heads _ _) (State.advanceTo_store _ _)) loading _ _
  all_goals
    cases e
    exact h

theorem execCoeffReadEnd_headsSound (h : s.headsSound) (e : execCoeffReadEnd s = .next t) : t.headsSound := by
  unfold execCoeffReadEnd at e
  split at e
  · cases e
    have later := h.of_same (State.advanceTo_heads s s.store.due) (State.advanceTo_store _ _)
    exact (later.setStore_idle rfl fun _ => rfl).mapLink _
  all_goals
    cases e
    exact h

theorem execCoeffWriteEnd_headsSound (h : s.headsSound) (e : execCoeffWriteEnd s = .next t) : t.headsSound := by
  unfold execCoeffWriteEnd at e
  split at e
  · rename_i i c op
    cases e
    have writing : s.store.isWriting i = true := s.store.isWriting_iff.2 ⟨c, op⟩
    exact State.headsSound.endWrite (h.of_same (State.advanceTo_heads _ _) (State.advanceTo_store _ _)) writing c
  all_goals
    cases e
    exact h

theorem execMessageLastByte_headsSound (h : s.headsSound) (e : execMessageLastByte s = .next t) : t.headsSound := by
  unfold execMessageLastByte at e
  split at e
  · cases e; exact h
  · cases e
    have later := h.of_same (State.advanceTo_heads s ‹Sending›.due) (State.advanceTo_store _ _)
    exact (later.of_same (State.endMessage_heads _ _) (State.endMessage_store _ _)).resumeTaking

theorem exec_request_headsSound (i : Instr) (h : s.headsSound) (request : exec i s = .next (s.request i (requestAct i)))
    (e : exec i s = .next t) : t.headsSound := by
  rw [request] at e
  cases e
  exact h.request i

theorem State.headsSound.expire_frame (h : s.headsSound) {due : Option Nat} {f : State → State}
    (frame : ∀ u : State, (f u).heads = u.heads ∧ (f u).store = u.store) : (s.expire due f).headsSound :=
  h.expire fun _ _ hn => hn.of_same (frame _).1 (frame _).2

/-- Every command keeps all heads sound. -/
theorem exec_headsSound (i : Instr) (h : s.headsSound) (e : exec i s = .next t) : t.headsSound := by
  cases i with
  | deviceReset a b => cases e; exact State.deviceReset_headsSound s a b
  | frameReceived => cases e; exact h.judgeFrame
  | receiveGapTimeout => cases e; exact h.expire_frame fun _ => ⟨rfl, rfl⟩
  | unknownKindFrame => cases e; exact h.offerFrame _
  | syntheticIndexDone => exact execSyntheticIndexDone_headsSound h e
  | indexStart => exact Host.Outcome.next.inj e ▸ h.takeIndexStart
  | indexDone => cases e; exact h.takeIndexDone _
  | stallExpiry => cases e; exact h.expire_frame fun u => ⟨State.postCause_heads _ _, State.postCause_store _ _⟩
  | platenClosedEdge i o =>
    cases e
    exact (h.of_same (State.setLines_heads _ _) (State.setLines_store _ _)).actHead
      (HeadCtx.physicalEdge_soundAct HeadCtx.closedEdge_soundAct)
  | platenOpenEdge i c =>
    cases e
    exact (h.of_same (State.setLines_heads _ _) (State.setLines_store _ _)).actHead
      (HeadCtx.physicalEdge_soundAct HeadCtx.openEdge_soundAct)
  | startLineEdge i => exact execStartLineEdge_headsSound h e
  | startDelayExpiry i =>
    cases e
    exact h.expire fun _ due later => later.startPending (Head.sound.pending_of_startDue due)
  | startLimitExpiry i =>
    cases e
    exact h.expireHead fun _ due =>
      HeadCtx.abnormal_soundAct _ _ _ ((h i).1.cycle_isSome (.inl (Head.sound.pending_of_startDue due)))
  | segmentExpiry i =>
    cases e
    exact h.expireHead fun _ due => .of_online (fun sound => sound.online_of_run (Head.run_of_segmentDue due)) fun sound =>
      HeadCtx.segmentExpiry_sound (sound.running_of_run (Head.run_of_segmentDue due))
  | closeLimitExpiry i =>
    cases e
    exact h.expireHead fun _ due => HeadCtx.abnormal_soundAct _ _ _ (Head.cycle_of_run (Head.run_of_segmentDue due))
  | openLimitExpiry i =>
    cases e
    exact h.expireHead fun _ due => .of_online (fun sound => sound.online_of_run (Head.run_of_segmentDue due)) HeadCtx.openLate_sound
  | rampStep i => exact execRampStep_headsSound h e
  | releaseOpenLimitExpiry i =>
    cases e
    refine h.expireHead fun _ due => ?_
    have release : (s.head i).release.isSome := by
      rcases hr : (s.head i).release with _ | r
      · rw [hr] at due; cases due
      · rfl
    have online : (s.head i).state ≠ .offline := fun off => by
      simp [(h i).1.release_none (by simp [off]) (by simp [off])] at release
    exact .of_online (fun _ => online) fun sound => HeadCtx.releaseExpiry_sound sound release
  | sample i r c o => exact execSample_headsSound h e
  | virtualEdgeExpiry i => exact execVirtualEdgeExpiry_headsSound h e
  | rejectConfirmEdge =>
    unfold exec execRejectConfirmEdge at e
    cases e
    split
    · exact h.of_same rfl rfl
    · exact h
  | punchDelayExpiry => cases e; exact h.expire_frame fun _ => ⟨rfl, rfl⟩
  | punchWidthExpiry => cases e; exact h.expire_frame fun _ => ⟨rfl, rfl⟩
  | diverterDelayExpiry => cases e; exact h.expire_frame fun u => ⟨u.divert_heads, u.divert_store⟩
  | diverterWidthExpiry => cases e; exact h.expire_frame fun _ => ⟨rfl, rfl⟩
  | confirmWindowExpiry =>
    cases e
    refine h.expire_frame fun u => ?_
    unfold State.endWindow
    split
    · exact ⟨rfl, rfl⟩
    · exact ⟨State.windowEnd_heads _ _, State.windowEnd_store _ _⟩
  | loadRecordJudged => exact execLoadRecordJudged_headsSound h e
  | coeffReadEnd => exact execCoeffReadEnd_headsSound h e
  | coeffWriteEnd => exact execCoeffWriteEnd_headsSound h e
  | transmitBegin b => cases e; exact (h.of_same (State.setLines_heads _ _) (State.setLines_store _ _)).beginMessage
  | messageLastByte => exact execMessageLastByte_headsSound h e
  | byteReceived b g => cases e; exact h.judgeFrame.mapLink _
  | _ => exact exec_request_headsSound _ h rfl e

theorem State.headsSound.idle (h : s.headsSound) (e : s.idle = .next t) : t.headsSound := by
  unfold State.idle at e
  split at e
  · cases e; exact h.of_same rfl rfl
  · exact exec_headsSound _ h e
  · exact exec_headsSound _ (h.of_same (State.setDraws_heads _ _) (State.setDraws_store _ _)) e

theorem step_headsSound (h : s.headsSound) (e : step s = .next t) : t.headsSound := by
  unfold step at e
  split at e
  · exact exec_headsSound _ (h.of_same (State.setPending_heads _ _) (State.setPending_store _ _)) e
  · exact h.idle e

end Steps
end Sys2Proof.Machine

open Sys2Proof Sys2Proof.Machine

/-- Settles O58: coherence, presentation and the store's service of OFFLINE heads are one property of each head (`State.headSound`),
which every act of a head keeps. -/
theorem stepKeepsHeadsCoherent : Obligations.StepKeepsHeadsCoherent := fun s t coherent presents serves e =>
  (State.headsSound_iff t).1 (step_headsSound ((State.headsSound_iff s).2 ⟨coherent, presents, serves⟩) e)
end

section
/-! PROOFS. Every request that names a head refuses a number above 15 (R65, R132, R133, R155, R168, R170, R177, R178). -/

namespace Sys2Proof.Machine

variable {s : State} {b : Byte}

section NoHead

variable (above : 16 ≤ b.toNat)
include above

theorem actHeadSetup_noHead (r : HeadSetupReq) : actHeadSetup b r s = answered (.refuse .badValue 3) s := by
  simp only [actHeadSetup, headOf_none above]

theorem actHeadEnables_noHead (m g : Byte) : actHeadEnables b m g s = answered (.refuse .badValue 0) s := by
  simp only [actHeadEnables, headOf_none above]

theorem actHeadOnline_noHead : actHeadOnline b s = answered (.refuse .badValue 1) s := by
  simp only [actHeadOnline, headOf_none above]

theorem actHeadOffline_noHead : actHeadOffline b s = answered (.refuse .badValue 0) s := by
  simp only [actHeadOffline, headOf_none above]

theorem actHeadHalt_noHead : actHeadHalt b s = answered (.refuse .badValue 0) s := by
  simp only [actHeadHalt, headOf_none above]

theorem actHeadCancel_noHead : actHeadCancel b s = answered (.refuse .badValue 0) s := by
  simp only [actHeadCancel, headOf_none above]

theorem actHeadClear_noHead : actHeadClear b s = answered (.refuse .badValue 1) s := by
  simp only [actHeadClear, headOf_none above]

theorem actHeadRelease_noHead : actHeadRelease b s = answered (.refuse .badValue 1) s := by
  simp only [actHeadRelease, headOf_none above]

theorem actStatusTake_noHead : actStatusTake b s = answered (.refuse .badValue 22) s := by
  simp only [actStatusTake, headOf_none above]

theorem actHeadQuery_noHead : actHeadQuery b s = answered (.refuse .badValue 49) s := by
  simp only [actHeadQuery, headOf_none above]

theorem actCountRead_noHead : actCountRead b s = answered (.refuse .badValue 15) s := by
  simp only [actCountRead, headOf_none above]

/-- The mark for all heads takes the head number out of play (R133). -/
theorem actCountZero_noHead {g : Byte} (one : g.getLsbD 0 = false) : actCountZero g b s = answered (.refuse .badValue 0) s := by
  have unmarked : flag g 0 = false := one
  simp only [actCountZero, unmarked, headOf_none above, Bool.false_eq_true, if_false]

theorem actCoeffRead_noHead : actCoeffRead b s = answered (.refuse .badValue 10) s := by
  simp only [actCoeffRead, headOf_none above]

theorem actCoeffWrite_noHead (c : CoeffItems) : actCoeffWrite b c s = answered (.refuse .badValue 0) s := by
  simp only [actCoeffWrite, headOf_none above]

theorem actCycleOnce_noHead (r : CycleOnceReq) : actCycleOnce b r s = answered (.refuse .badValue 0) s := by
  simp only [actCycleOnce, headOf_none above]

theorem actInject_noHead (n : Byte) : actInject b n s = answered (.refuse .badValue 1) s := by
  simp only [actInject, headOf_none above]

end NoHead

end Sys2Proof.Machine

open Sys2Proof Sys2Proof.Machine

/-- Settles O25: each request asks first whether the head exists. -/
theorem headNumbersAbove15AreRefused : Obligations.HeadNumbersAbove15AreRefused := by
  intro s tag b now above refused
  refine ⟨fun r => ?_, fun m g => ?_, ?_, ?_, ?_, ?_, ?_, ?_, ?_, ?_, ?_, fun g one => ?_, ?_, fun c => ?_, fun r => ?_, fun n => ?_⟩
  · exact exec_answered (.headSetup tag b r) now s (.refuse .badValue 3) (actHeadSetup_noHead above r)
  · exact exec_answered (.headEnables tag b m g) now s (.refuse .badValue 0) (actHeadEnables_noHead above m g)
  · exact exec_answered (.headOnline tag b) now s (.refuse .badValue 1) (actHeadOnline_noHead above)
  · exact exec_answered (.headOffline tag b) now s (.refuse .badValue 0) (actHeadOffline_noHead above)
  · exact exec_answered (.headHalt tag b) now s (.refuse .badValue 0) (actHeadHalt_noHead above)
  · exact exec_answered (.headCancel tag b) now s (.refuse .badValue 0) (actHeadCancel_noHead above)
  · exact exec_answered (.headClear tag b) now s (.refuse .badValue 1) (actHeadClear_noHead above)
  · exact exec_answered (.headRelease tag b) now s (.refuse .badValue 1) (actHeadRelease_noHead above)
  · exact exec_answered (.statusTake tag b) now s (.refuse .badValue 22) (actStatusTake_noHead above)
  · exact exec_answered (.headQuery tag b) now s (.refuse .badValue 49) (actHeadQuery_noHead above)
  · exact exec_answered (.countRead tag b) now s (.refuse .badValue 15) (actCountRead_noHead above)
  · exact exec_answered (.countZero tag g b) now s (.refuse .badValue 0) (actCountZero_noHead above one)
  · exact exec_answered (.coeffRead tag b) now s (.refuse .badValue 10) (actCoeffRead_noHead above)
  · exact exec_answered (.coeffWrite tag b c) now s (.refuse .badValue 0) (actCoeffWrite_noHead above c)
  · exact exec_answered (.cycleOnce tag b r) now s (.refuse .badValue 0) (actCycleOnce_noHead above r)
  · exact exec_answered (.inject tag b n) now s (.refuse .badValue 1) (actInject_noHead above n)
end

section
/-! PROOFS. HEAD-SETUP: its items, their ranges and the parameters they become (R65, R66, R203). -/

namespace Sys2Proof.Machine

variable {s : State} {b : Byte}

/-! ### The items of HEAD-SETUP (R65, R203) -/

theorem laneOf_eq_some {lane : Byte} {l : Fin 8} : laneOf lane = some l ↔ l.val = lane.toNat := by
  unfold laneOf
  split
  · rw [Option.some_inj, Fin.ext_iff, eq_comm]
  · simp only [reduceCtorEq, false_iff]
    omega

/-- A binding names the station and the lane that a request carries (R65). -/
def namesBinding (station lane : Byte) (x : Option (Station × Fin 8)) : Prop :=
  ∃ st l, x = some (st, l) ∧ st.code = station.toNat ∧ l.val = lane.toNat

theorem Station.code_inj {st st' : Station} (h : st.code = st'.code) : st = st' := by
  cases st <;> cases st' <;> first | rfl | cases h

/-- Two bindings that a request names are one. -/
theorem namesBinding_unique {station lane : Byte} {x y : Option (Station × Fin 8)} (hx : namesBinding station lane x)
    (hy : namesBinding station lane y) : x = y := by
  obtain ⟨st, l, rfl, code, number⟩ := hx
  obtain ⟨st', l', rfl, code', number'⟩ := hy
  rw [Station.code_inj (code.trans code'.symm), Fin.ext (number.trans number'.symm)]

theorem station_toNat_ne {station : Byte} (n : station ≠ 0) : station.toNat ≠ 0 := fun e => n (BitVec.eq_of_toNat_eq e)

/-- The binding a request carries: none for station NONE, and otherwise the one it names (R65, R201). -/
theorem bindingOf_eq_some {station lane : Byte} {x : Option (Station × Fin 8)} :
    bindingOf station lane = some x ↔ (station = 0 ∧ x = none) ∨ (station ≠ 0 ∧ namesBinding station lane x) := by
  have zero : station = 0 ↔ station.toNat = 0 := ⟨fun e => by rw [e]; rfl, fun e => BitVec.eq_of_toNat_eq e⟩
  unfold bindingOf namesBinding
  rw [ne_eq, zero]
  rcases station.toNat with _ | _ | _ | n
  · simp [eq_comm]
  · simp only [Option.map_eq_some_iff, laneOf_eq_some]
    constructor
    · rintro ⟨l, number, rfl⟩
      exact .inr ⟨by simp, .form, l, rfl, rfl, number⟩
    · rintro (⟨z, -⟩ | ⟨-, _ | _, l, rfl, code, number⟩)
      · cases z
      · exact ⟨l, number, rfl⟩
      · cases code
  · simp only [Option.map_eq_some_iff, laneOf_eq_some]
    constructor
    · rintro ⟨l, number, rfl⟩
      exact .inr ⟨by simp, .sealing, l, rfl, rfl, number⟩
    · rintro (⟨z, -⟩ | ⟨-, _ | _, l, rfl, code, number⟩)
      · cases z
      · cases code
      · exact ⟨l, number, rfl⟩
  · simp only [reduceCtorEq, false_iff]
    rintro (⟨z, -⟩ | ⟨-, _ | _, l, -, code, -⟩)
    · exact z
    · simp only [Station.code] at code; omega
    · simp only [Station.code] at code; omega

theorem bindingOf_isSome {station lane : Byte} :
    (bindingOf station lane).isSome = true ↔ station.toNat ≤ 2 ∧ (station = 0 ∨ lane.toNat ≤ 7) := by
  rw [Option.isSome_iff_exists]
  simp only [bindingOf_eq_some]
  constructor
  · rintro ⟨x, ⟨rfl, -⟩ | ⟨n, st, l, -, code, number⟩⟩
    · simp
    · refine ⟨?_, .inr (by omega)⟩
      cases st <;> simp only [Station.code] at code <;> omega
  · rintro ⟨small, lanes⟩
    by_cases z : station = 0
    · exact ⟨none, .inl ⟨z, rfl⟩⟩
    · have nz := station_toNat_ne z
      have number := lanes.resolve_left z
      by_cases one : station.toNat = 1
      · exact ⟨_, .inr ⟨z, .form, ⟨lane.toNat, by omega⟩, rfl, one.symm, rfl⟩⟩
      · exact ⟨_, .inr ⟨z, .sealing, ⟨lane.toNat, by omega⟩, rfl, by simp only [Station.code]; omega, rfl⟩⟩

theorem startSourceOf_eq_some {c : Byte} {x : StartSource} : startSourceOf c = some x ↔ x.code = c.toNat := by
  unfold startSourceOf
  rcases c.toNat with _ | _ | _ | n <;> cases x <;> simp [StartSource.code]

theorem startSourceOf_isSome {c : Byte} : (startSourceOf c).isSome = true ↔ c.toNat ≤ 2 := by
  unfold startSourceOf
  rcases c.toNat with _ | _ | _ | n <;> simp

theorem loopModeOf_eq_some {c : Byte} {x : LoopMode} : loopModeOf c = some x ↔ x.code = c.toNat := by
  unfold loopModeOf
  rcases c.toNat with _ | _ | _ | n <;> cases x <;> simp [LoopMode.code]

theorem loopModeOf_isSome {c : Byte} : (loopModeOf c).isSome = true ↔ c.toNat ≤ 2 := by
  unfold loopModeOf
  rcases c.toNat with _ | _ | _ | n <;> simp

/-- The ranges of HEAD-SETUP's items that the request alone decides (R65). -/
def setupInRange (r : HeadSetupReq) : Prop :=
  r.station.toNat ≤ 2 ∧ (r.station = 0 ∨ r.lane.toNat ≤ 7) ∧ r.source.toNat ≤ 2 ∧ r.loopMode.toNat ≤ 2 ∧
  r.startDelay.toNat ≤ 2000 ∧ 500 ≤ r.ceiling.toNat ∧ r.ceiling.toNat ≤ 3000 ∧ r.standby.toNat ≤ r.ceiling.toNat ∧
  r.settle.toNat ≤ 5000 ∧ 100 ≤ r.openLimit.toNat ∧ r.openLimit.toNat ≤ 3000

/-- The parameters carry the items of the request, the sample period and the band clamped (R65, R203). -/
def HeadParams.carry (p : HeadParams) (r : HeadSetupReq) : Prop :=
  (r.station = 0 → p.binding = none) ∧ (r.station ≠ 0 → namesBinding r.station r.lane p.binding) ∧
  p.source.code = r.source.toNat ∧ p.startDelay = r.startDelay.toNat ∧
  p.samplePeriod = max 5 (min 100 r.samplePeriod.toNat) ∧ p.standby = r.standby.toNat ∧
  p.ceiling = r.ceiling.toNat ∧ p.band = max 5 (min 300 r.band.toNat) ∧ p.settle = r.settle.toNat ∧
  p.lowExtended = r.flags.getLsbD 0 ∧ p.autoReject = r.flags.getLsbD 1 ∧ p.holdOnSafe = r.flags.getLsbD 2 ∧
  p.openLimit = r.openLimit.toNat ∧ p.loopMode.code = r.loopMode.toNat

theorem headParamsOf_none {r : HeadSetupReq} (out : ¬setupInRange r) : headParamsOf r = none := by
  unfold headParamsOf
  split
  · rename_i binding source mode hb hs hm
    have station := bindingOf_isSome.1 (Option.isSome_iff_exists.2 ⟨_, hb⟩)
    have line := startSourceOf_isSome.1 (Option.isSome_iff_exists.2 ⟨_, hs⟩)
    have loop := loopModeOf_isSome.1 (Option.isSome_iff_exists.2 ⟨_, hm⟩)
    refine if_neg fun ok => out ?_
    simp only [within, Bool.and_eq_true, decide_eq_true_eq] at ok
    obtain ⟨⟨⟨⟨⟨-, delay⟩, low, high⟩, standby⟩, -, settle⟩, early, late⟩ := ok
    exact ⟨station.1, station.2, line, loop, delay, low, high, standby, settle, early, late⟩
  · rfl

theorem headParamsOf_carry {r : HeadSetupReq} (good : setupInRange r) : ∃ p, headParamsOf r = some p ∧ p.carry r := by
  obtain ⟨station, lanes, line, loop, delay, low, high, standby, settle, early, late⟩ := good
  obtain ⟨binding, hb⟩ := Option.isSome_iff_exists.1 (bindingOf_isSome.2 ⟨station, lanes⟩)
  obtain ⟨source, hs⟩ := Option.isSome_iff_exists.1 (startSourceOf_isSome.2 line)
  obtain ⟨mode, hm⟩ := Option.isSome_iff_exists.1 (loopModeOf_isSome.2 loop)
  have bound := bindingOf_eq_some.1 hb
  unfold headParamsOf
  rw [hb, hs, hm]
  refine ⟨_, if_pos (by simp [within, delay, low, high, standby, settle, early, late]), fun z => ?_, fun n => ?_,
    startSourceOf_eq_some.1 hs, rfl, rfl, rfl, rfl, rfl, rfl, rfl, rfl, rfl, rfl, loopModeOf_eq_some.1 hm⟩
  · exact (bound.resolve_right fun k => k.1 z).2
  · exact (bound.resolve_left fun k => n k.1).2

/-- A binding to the FORM station on a track without one (R65). -/
theorem State.formAbsent_iff {p : HeadParams} {r : HeadSetupReq} (carried : p.carry r) :
    s.formAbsent p.binding = true ↔ r.station = 1 ∧ s.track.config.form = none := by
  obtain ⟨unbound, bound, -⟩ := carried
  rw [State.formAbsent, Bool.and_eq_true, Option.isNone_iff_eq_none, and_comm]
  refine and_congr_left fun _ => ?_
  by_cases z : r.station = 0
  · rw [unbound z, z]; decide
  · obtain ⟨st, l, e, code, -⟩ := bound z
    rw [e]
    have one : r.station = 1 ↔ r.station.toNat = 1 := ⟨fun e => by rw [e]; rfl, fun e => BitVec.eq_of_toNat_eq e⟩
    rw [one, ← code]
    cases st <;> simp [Station.code]

/-- A binding that another head holds (R65). -/
theorem State.boundElsewhere_iff {h : Fin 16} {p : HeadParams} {r : HeadSetupReq} (carried : p.carry r) :
    s.boundElsewhere h p.binding = true ↔ ∃ h' ≠ h, namesBinding r.station r.lane (s.head h').params.binding := by
  obtain ⟨unbound, bound, -⟩ := carried
  by_cases z : r.station = 0
  · rw [unbound z]
    refine iff_of_false (by simp [State.boundElsewhere]) ?_
    rintro ⟨h', -, st, l, -, code, -⟩
    rw [z] at code
    cases st <;> cases code
  · have named := bound z
    have isSome : p.binding.isSome = true := by
      obtain ⟨st, l, e, -⟩ := named
      rw [e]; rfl
    simp only [State.boundElsewhere, isSome, Bool.true_and, List.any_eq_true, mem_allHeads, true_and, Bool.and_eq_true, bne_iff_ne,
      beq_iff_eq]
    refine exists_congr fun h' => and_congr_right fun _ => ⟨fun e => e ▸ named, fun other => namesBinding_unique other named⟩

section Setup

variable {h : Fin 16} (e : b.toNat = h.val) {r : HeadSetupReq}
include e

theorem actHeadSetup_wrongState (online : (s.head h).state ≠ .offline) : actHeadSetup b r s = answered (.refuse .wrongState 3) s := by
  simp only [actHeadSetup, headOf_eq e]
  exact if_pos online

theorem actHeadSetup_badValue (offline : (s.head h).state = .offline)
    (out : ¬(setupInRange r ∧ ¬(r.station = 1 ∧ s.track.config.form = none))) :
    actHeadSetup b r s = answered (.refuse .badValue 3) s := by
  simp only [actHeadSetup, headOf_eq e]
  rw [if_neg (not_not.2 offline)]
  by_cases good : setupInRange r
  · obtain ⟨p, hp, carried⟩ := headParamsOf_carry good
    rw [hp]
    exact if_pos ((State.formAbsent_iff carried).2 (not_not.1 fun n => out ⟨good, n⟩))
  · rw [headParamsOf_none good]

theorem actHeadSetup_inRange (offline : (s.head h).state = .offline) (good : setupInRange r)
    (form : ¬(r.station = 1 ∧ s.track.config.form = none)) :
    ∃ p : HeadParams, p.carry r ∧ actHeadSetup b r s =
      if s.boundElsewhere h p.binding then answered (.refuse .conflict 3) s
      else answered (.ok (u8 p.samplePeriod ++ u16 p.band)) (s.putHead h { s.head h with params := p }) := by
  obtain ⟨p, hp, carried⟩ := headParamsOf_carry good
  refine ⟨p, carried, ?_⟩
  simp only [actHeadSetup, headOf_eq e]
  rw [if_neg (not_not.2 offline), hp]
  exact if_neg fun a => form ((State.formAbsent_iff carried).1 a)

end Setup

end Sys2Proof.Machine

open Sys2Proof Sys2Proof.Machine

/-- Settles O26: a request out of range has no parameters, and one within the ranges has those it carries. -/
theorem headSetupReplacesParameters : Obligations.HeadSetupReplacesParameters := by
  intro s tag b h r now e names inRange taken offline
  have split : inRange ↔ setupInRange r ∧ ¬(r.station = 1 ∧ s.track.config.form = none) := by
    simp only [inRange, setupInRange, and_assoc]
  refine ⟨fun on => ?_, fun off out => ?_, fun off good held => ?_, fun off good free => ?_⟩
  · exact exec_answered (.headSetup tag b r) now s (.refuse .wrongState 3) (actHeadSetup_wrongState e on)
  · exact exec_answered (.headSetup tag b r) now s (.refuse .badValue 3) (actHeadSetup_badValue e off fun k => out (split.2 k))
  · obtain ⟨p, carried, act⟩ := actHeadSetup_inRange e off (split.1 good).1 (split.1 good).2
    exact exec_answered (.headSetup tag b r) now s (.refuse .conflict 3) (act.trans (if_pos ((State.boundElsewhere_iff carried).2 held)))
  · obtain ⟨p, carried, act⟩ := actHeadSetup_inRange e off (split.1 good).1 (split.1 good).2
    have unbound : ¬s.boundElsewhere h p.binding = true := fun k => free ((State.boundElsewhere_iff carried).1 k)
    have done := exec_answered (.headSetup tag b r) now _ (.ok (u8 p.samplePeriod ++ u16 p.band)) (act.trans (if_neg unbound))
    rw [u16_eq] at done
    exact ⟨p, done, carried⟩
end

section
/-! PROOFS. HEAD-ENABLES and INJECT (R67, R154, R168). -/

namespace Sys2Proof.Machine

theorem condMask_and (changed mask : Byte) : changed &&& (mask &&& condMask) = changed &&& mask &&& 0x3F :=
  (BitVec.and_assoc ..).symm

theorem State.actHead_enables (s : State) (h : Fin 16) (mask flags : Byte) :
    s.actHead h (HeadCtx.enables mask flags) =
      s.withHead h { s.head h with params := { (s.head h).params with autoReject := flags.getLsbD 0 } }
        (HeadStatus.alertTest { s.status h with enable := mask &&& 0x3F }) :=
  s.actHead_quiet h _ rfl Iff.rfl

end Sys2Proof.Machine

open Sys2Proof Sys2Proof.Machine

/-- Settles O27: HEAD-ENABLES replaces two fields and makes the alert test, INJECT replaces one. -/
theorem enablesAndInjectSetFields : Obligations.EnablesAndInjectSetFields := by
  intro s tag b mask flags count h now e x y alerts
  have enables : requestAct (.headEnables tag b mask flags) s = (s.withHead h x y.alertTest, some (.ok [])) := by
    simp only [requestAct, actHeadEnables, headOf_eq e, State.actHead_enables]; rfl
  have tested : (y.pending = .empty ∧ y.changed &&& y.enable ≠ 0) ↔ alerts := by
    rw [show y.changed &&& y.enable = _ from condMask_and (s.status h).changed mask]
  have done := exec_answered (.headEnables tag b mask flags) now _ (.ok []) enables
  refine ⟨fun yes => ?_, fun no => ?_, fun zero => ?_, fun nz offline => ?_, fun nz online => ?_⟩
  · rw [HeadStatus.alertTest, if_pos (tested.2 yes)] at done
    exact done
  · rw [HeadStatus.alertTest, if_neg (mt tested.1 no)] at done
    exact done
  · refine exec_answered (.inject tag b count) now s (.refuse .badValue 1) ?_
    simp only [requestAct, actInject, headOf_eq e]; exact if_pos zero
  · refine exec_answered (.inject tag b count) now s (.refuse .wrongState 1) ?_
    simp only [requestAct, actInject, headOf_eq e, if_neg nz]; exact if_pos offline
  · have act : requestAct (.inject tag b count) s =
        (s.putHead h ((s.head h).injected count.toNat), some (.ok (u8 (s.head h).monitor.inject))) := by
      simp only [requestAct, actInject, headOf_eq e, if_neg nz]; exact if_neg online
    exact exec_answered (.inject tag b count) now _ (.ok (u8 (s.head h).monitor.inject)) act
end

section
/-! PROOFS. HEAD-ONLINE: its refusals and the head it leaves, by platen and levels (R68, R84, R110). -/

namespace Sys2Proof.Machine

variable {s : State} {b : Byte} {h : Fin 16}

theorem Monitor.fresh_eq (m : Monitor) (due : Nat) :
    m.fresh due =
      { sampleTimer := some due, lowRun := 0, nonLowRun := 0, highRun := 0, nonHighRun := 0, live := m.live &&& 0xF0, ready := 0,
        inject := m.inject } := by
  have mask : ~~~monitoredConds = (0xF0 : Byte) := by decide
  simp only [Monitor.fresh, mask]

/-! ### The head after HEAD-ONLINE, by platen and levels (R68, R84) -/

section Online

variable {x : HeadCtx}

/-- A head whose sampling has just begun (R110). -/
def Head.freshlySampled (now : Nat) (x : Head) : Head :=
  { x with monitor := x.monitor.fresh (now + x.params.samplePeriod) }

/-- A head in the release phase toward HEATING that HEAD-ONLINE begins (R84). -/
def Head.onlineReleasing (now : Nat) (x : Head) : Head :=
  Head.restFor now .heating
    { x.freshlySampled now with
      closeOut := false
      auxOut := false
      platen := x.platen.retract
      release := some ⟨now + x.params.openLimit, .heating, false⟩ }

theorem Head.virtualOpen_of_driven {x : Head} (driven : x.params.loopMode ≠ .dry) (now : Nat) : x.virtualOpen now = x := by
  simp [Head.virtualOpen, Head.isDry, driven]

theorem HeadCtx.online_rest (x : HeadCtx) : x.online.out = x.out ∧ x.online.status = x.status := by
  unfold HeadCtx.online
  dsimp only
  split
  · exact ⟨rfl, rfl⟩
  · exact ⟨HeadCtx.beginRelease_out .., HeadCtx.beginRelease_status_unowed ..⟩

theorem HeadCtx.online_opened (opened : x.head.platen = .opened) :
    x.online.head = (x.head.freshlySampled x.now).enterHeating x.now :=
  congrArg HeadCtx.head (if_pos opened)

theorem HeadCtx.online_begins (closed : x.head.platen ≠ .opened) :
    x.online = (x.mapHead (Head.freshlySampled x.now)).beginRelease .heating false :=
  if_neg closed

theorem HeadCtx.online_waits (closed : x.head.platen ≠ .opened)
    (waits : x.head.params.loopMode = .dry ∨ x.openLevel = false ∨ x.closedLevel = true) :
    x.online.head = (x.head.onlineReleasing x.now).virtualOpen x.now := by
  rw [HeadCtx.online_begins closed, HeadCtx.beginRelease_waits (x.mapHead (Head.freshlySampled x.now)) _ _ waits]
  rfl

/-- A release phase confirmed in the act of its beginning (R84, R85). -/
theorem HeadCtx.online_confirmed (closed : x.head.platen ≠ .opened)
    (confirmed : ¬(x.head.params.loopMode = .dry ∨ x.openLevel = false ∨ x.closedLevel = true)) :
    x.online.head =
      Head.enterHeating x.now { x.head.onlineReleasing x.now with platen := .opened, release := none, packRef := none } := by
  simp only [not_or, Bool.not_eq_false, Bool.not_eq_true] at confirmed
  obtain ⟨driven, openLevel, closedLevel⟩ := confirmed
  have dry : x.head.isDry = false := by simpa [Head.isDry] using driven
  rw [HeadCtx.online_begins closed]
  unfold HeadCtx.beginRelease
  dsimp only
  rw [HeadCtx.mapHead_head, if_pos (by simp [show (x.head.freshlySampled x.now).isDry = false from dry, openLevel, closedLevel]),
    HeadCtx.confirm_head]
  exact congrArg (fun y : Head => Head.enterHeating x.now { y with platen := .opened, release := none, packRef := none })
    (Head.virtualOpen_of_driven (x := x.head.onlineReleasing x.now) driven x.now)

/-- What HEAD-ONLINE leaves of a head, whatever its platen does (R68, R101, R110). -/
theorem HeadCtx.online_keeps (x : HeadCtx) :
    let y := x.online.head
    y.monitor = { sampleTimer := some (x.now + x.head.params.samplePeriod), lowRun := 0, nonLowRun := 0, highRun := 0, nonHighRun := 0,
                  live := x.head.monitor.live &&& 0xF0, ready := 0, inject := x.head.monitor.inject } ∧
    y.counters = x.head.counters ∧ y.timesChange x.now x.head ∧ y.state ≠ .safe := by
  have fresh := x.head.monitor.fresh_eq (x.now + x.head.params.samplePeriod)
  by_cases opened : x.head.platen = .opened
  · rw [HeadCtx.online_opened opened]
    exact ⟨fresh, rfl, rfl, Head.enterHeating_state _ _⟩
  · by_cases waits : x.head.params.loopMode = .dry ∨ x.openLevel = false ∨ x.closedLevel = true
    · rw [HeadCtx.online_waits opened waits, Head.virtualOpen_eq]
      exact ⟨fresh, rfl, rfl, nofun⟩
    · rw [HeadCtx.online_confirmed opened waits]
      exact ⟨fresh, rfl, if_pos rfl, Head.enterHeating_state _ _⟩

end Online

section Requests

variable (e : b.toNat = h.val)
include e

theorem actHeadOnline_refused {r : Result} (head : (s.head h).state ≠ .offline ∧ r = .wrongState ∨
      (s.head h).state = .offline ∧ s.store.isLoading = true ∧ r = .notLoaded ∨
      (s.head h).state = .offline ∧ ¬s.store.isLoading = true ∧ s.store.isWriting h = true ∧ r = .wrongState) :
    actHeadOnline b s = answered (.refuse r 1) s := by
  simp only [actHeadOnline, headOf_eq e]
  rcases head with ⟨on, rfl⟩ | ⟨off, loading, rfl⟩ | ⟨off, loaded, writing, rfl⟩
  · exact if_pos on
  · rw [if_neg (not_not.2 off)]; exact if_pos loading
  · rw [if_neg (not_not.2 off), if_neg loaded]; exact if_pos writing

theorem actHeadOnline_accepted (offline : (s.head h).state = .offline) (loaded : ¬s.store.isLoading = true)
    (free : ¬s.store.isWriting h = true) :
    let y := (s.ctx h).online.head
    actHeadOnline b s = answered (.ok (u8 y.state.code)) (s.putHead h y) := by
  obtain ⟨out, status⟩ := (s.ctx h).online_rest
  obtain ⟨-, -, -, notSafe⟩ := (s.ctx h).online_keeps
  have act : s.actHead h HeadCtx.online = s.putHead h (s.ctx h).online.head := by
    rw [s.actHead_quiet h _ out (iff_of_false notSafe (by simp [offline])), status]
    exact State.withHead_status_same h _
  simp only [actHeadOnline, headOf_eq e]
  rw [if_neg (not_not.2 offline), if_neg loaded, if_neg free, act, stateEntered, State.putHead_head_self]

end Requests

end Sys2Proof.Machine

open Sys2Proof Sys2Proof.Machine

/-- Settles O28: the release phase that begins is confirmed at once or waits, and with the platen OPEN there is none. -/
theorem headOnlineStartsSampling : Obligations.HeadOnlineStartsSampling := by
  intro s tag b h now e x loading writing offline
  have loads : loading ↔ s.store.isLoading = true := s.store.isLoading_iff.symm
  have writes : writing ↔ s.store.isWriting h = true := s.store.isWriting_iff.symm
  refine ⟨fun busy => ?_, fun off load => ?_, fun off loaded free => ?_⟩
  · refine exec_answered (.headOnline tag b) now s (.refuse .wrongState 1) (actHeadOnline_refused e ?_)
    by_cases off : offline
    · obtain ⟨write, idle⟩ := busy.resolve_left (not_not.2 off)
      exact .inr (.inr ⟨off, mt loads.2 idle, writes.1 write, rfl⟩)
    · exact .inl ⟨off, rfl⟩
  · exact exec_answered (.headOnline tag b) now s (.refuse .notLoaded 1)
      (actHeadOnline_refused e (.inr (.inl ⟨off, loads.1 load, rfl⟩)))
  · have done := exec_answered (.headOnline tag b) now _ _ (actHeadOnline_accepted e off (mt loads.2 loaded) (mt writes.2 free))
    obtain ⟨monitor, counters, times, -⟩ := (s.ctx h).online_keeps
    refine ⟨(s.ctx h).online.head, done, monitor, HeadCtx.online_head_params _, HeadCtx.online_head_coeffs _, counters,
      HeadCtx.online_head_held _, fun opened => ?_, fun closed waits => ?_, times, fun closed confirmed => ?_⟩
    · rw [HeadCtx.online_opened opened]
      exact ⟨Head.enterHeating_restsIn _ _, opened⟩
    · rw [HeadCtx.online_waits (x := s.ctx h) closed waits, Head.virtualOpen_eq]
      exact ⟨⟨rfl, rfl, rfl, nofun⟩, rfl, rfl, rfl, rfl, Head.virtualAtOpening_congr rfl rfl _⟩
    · rw [HeadCtx.online_confirmed (x := s.ctx h) closed confirmed]
      exact ⟨Head.enterHeating_restsIn _ _, rfl, rfl⟩
end

section
/-! PROOFS. The expiry of a HOLD or a RAMP, and the dose evaluation at the last DOSE segment (R78, R80, R81, R100, R126 to R128). -/

namespace Sys2Proof.Machine

variable {s t : State} {h : Fin 16} {r : Run} {g : Segment}

/-! ### The last step of a ramp (R100) -/

section RampEnd

variable {x : Head}

theorem Head.rampEnd_eq (running : x.state = .running) {p : Ramp} (ramp : x.ramp = some p) (now : Nat) :
    x.rampEnd now p = x.atRampEnd now := by
  unfold Head.atRampEnd
  split
  · rename_i none
    cases ramp.symm.trans none
  rename_i p' some
  obtain rfl : p = p' := Option.some.inj (ramp.symm.trans some)
  unfold Head.rampEnd
  rcases p with ⟨start, duration, next, _ | ⟨t0, t⟩, _ | ⟨p0, w⟩⟩ <;> dsimp only [Option.map, Option.getD]
  · simp [Head.cycleClamped_eq]
  · rw [Head.setPres_eq running]
    simp [Head.cycleClamped_eq]
  · rw [Head.setTemp_eq running]
    simp [Head.cycleClamped_eq]
  · rw [Head.twoMoves_eq running]
    simp [Head.cycleClamped_eq, Head.steppedTo]

/-- The last step of a ramp moves setpoints and codes, and marks the cycle at most (R100, R103). -/
theorem Head.atRampEnd_keeps (x : Head) (now : Nat) :
    (x.atRampEnd now).state = x.state ∧ (x.atRampEnd now).packRef = x.packRef ∧ (x.atRampEnd now).counters = x.counters ∧
      ∀ r, x.run? = some r → ∃ b, (x.atRampEnd now).run? = some { r with outputClamped := b } := by
  unfold Head.atRampEnd
  split
  · exact ⟨rfl, rfl, rfl, fun r run => ⟨r.outputClamped, run⟩⟩
  · refine ⟨rfl, rfl, rfl, fun r run => ?_⟩
    dsimp only [Head.run?] at run ⊢
    rw [Head.cycleClamped_eq, flagCycle_run?, run]
    exact ⟨_, by simp only [Option.map_some, Bool.or_false]; rfl⟩

theorem Head.atRampEnd_tempSet {p : Ramp} (ramp : x.ramp = some p) (now : Nat) :
    (x.atRampEnd now).tempSet = (p.temperature.map Prod.snd).getD x.tempSet := by
  simp only [Head.atRampEnd, ramp]

theorem Head.atRampEnd_presSet {p : Ramp} (ramp : x.ramp = some p) (now : Nat) :
    (x.atRampEnd now).presSet = (p.pressure.map Prod.snd).getD x.presSet := by
  simp only [Head.atRampEnd, ramp]

theorem HeadCtx.segmentExpiry_eq (x : HeadCtx) (running : x.head.state = .running) :
    x.segmentExpiry = HeadCtx.advance { x with head := x.head.atRampEnd x.now } := by
  unfold HeadCtx.segmentExpiry
  rcases ramp : x.head.ramp with _ | p
  · rw [Head.atRampEnd, ramp]
  · exact congrArg (fun y : Head => HeadCtx.advance { x with head := y }) (Head.rampEnd_eq running ramp x.now)

end RampEnd

/-- The expiry of a HOLD or a RAMP: its segment ends where the ramp has reached its targets, and the cycle goes on (R78, R80, R100). -/
theorem exec_segmentExpiry (running : (s.head h).state = .running) (run : (s.head h).run? = some r)
    (seg : r.segments[r.current]? = some g) (kind : g.kind = .hold ∨ g.kind = .ramp) :
    ∃ t m y, exec (.segmentExpiry h) s = .next t ∧ Head.endsSegment m y ((s.head h).atRampEnd (max s.now r.segDue)) ∧
      (s.setNow (max s.now r.segDue)).goesOn h m y t := by
  obtain ⟨state, ref, -, marked⟩ := (s.head h).atRampEnd_keeps (max s.now r.segDue)
  obtain ⟨b, run'⟩ := marked r run
  have due : (s.head h).segmentDue [.hold, .ramp] = some r.segDue := Head.segmentDue_of run seg (by simpa using kind)
  obtain ⟨m, y, ends, goes⟩ := State.actHead_advances (s := s.setNow (max s.now r.segDue)) (h := h) (f := HeadCtx.segmentExpiry)
    (state.trans running) run' (show (s.head h).state ≠ .safe by simp [running]) ref (HeadCtx.segmentExpiry_eq _ running)
  exact ⟨_, m, y, congrArg Host.Outcome.next (State.expireHead_eq _ due), ends, goes⟩

/-! ### Where the cycle goes on (R76, R80) -/

/-- What ends a segment that calls for no dose evaluation. -/
theorem Head.endsSegment.plain {m : Nat} {x y : Head} (ends : y.endsSegment m x) (run : x.run? = some r) (plain : ¬r.endsDose) :
    m = r.current + 1 ∧ y = x.segmentEnded := by
  obtain ⟨r', run', noDose, -, -⟩ := ends
  obtain rfl : r = r' := Option.some.inj (run.symm.trans run')
  exact noDose plain

theorem Head.endsSegment.resealed {m : Nat} {x y : Head} (ends : y.endsSegment m x) (run : x.run? = some r) (last : r.endsDose)
    (reseals : r.reseals) : (∃ g, r.resealsAt m g) ∧ y = x.resealing := by
  obtain ⟨r', run', -, resealed, -⟩ := ends
  obtain rfl : r = r' := Option.some.inj (run.symm.trans run')
  exact resealed last reseals

theorem Head.endsSegment.verdict {m : Nat} {x y : Head} (ends : y.endsSegment m x) (run : x.run? = some r) (last : r.endsDose)
    (final : ¬r.reseals) : m = r.current + 1 ∧ y = x.withVerdict r.judged := by
  obtain ⟨r', run', -, -, judged⟩ := ends
  obtain rfl : r = r' := Option.some.inj (run.symm.trans run')
  exact judged last final

theorem Head.plainSegment.not_endsDose {x : Head} {kind : SegKind} (plain : x.plainSegment kind r g) : ¬r.endsDose :=
  fun last => plain.not_lastDose (r.endsDose_iff.1 last)

theorem Head.lastDoseHold.endsDose {x : Head} (last : x.lastDoseHold r g) : r.endsDose := by
  obtain ⟨-, -, seg, -, dose, none⟩ := last
  exact ⟨⟨g, seg, dose⟩, none⟩

/-! ### The dose evaluation (R126, R127) -/

theorem Run.judged_low_iff (r : Run) :
    r.judged = .low ↔ ∃ lo hi, r.window = some (lo, hi) ∧ min 65535 (r.dose / 10000) < lo := by
  unfold Run.judged
  generalize min 65535 (r.dose / 10000) = dose
  rcases r.window with _ | ⟨lo, hi⟩
  · simp
  · by_cases below : dose < lo
    · simp [below]
    · by_cases above : hi < dose <;> simp [below, above]

/-- The verdict of a dose is the one that the window gives it. -/
theorem Run.eq_judged (r : Run) {v : DoseVerdict}
    (low : (∃ lo hi, r.window = some (lo, hi) ∧ min 65535 (r.dose / 10000) < lo) → v = .low)
    (high : (∃ lo hi, r.window = some (lo, hi) ∧ lo ≤ min 65535 (r.dose / 10000) ∧ hi < min 65535 (r.dose / 10000)) → v = .high)
    (ok : (¬∃ lo hi, r.window = some (lo, hi) ∧ min 65535 (r.dose / 10000) < lo) →
      (¬∃ lo hi, r.window = some (lo, hi) ∧ lo ≤ min 65535 (r.dose / 10000) ∧ hi < min 65535 (r.dose / 10000)) → v = .ok) :
    v = r.judged := by
  unfold Run.judged
  generalize min 65535 (r.dose / 10000) = dose at low high ok ⊢
  rcases hw : r.window with _ | ⟨lo, hi⟩ <;> rw [hw] at low high ok
  · exact ok nofun nofun
  · by_cases below : dose < lo
    · simpa [below] using low ⟨lo, hi, rfl, below⟩
    · by_cases above : hi < dose
      · simpa [below, above] using high ⟨lo, hi, rfl, by omega, above⟩
      · have fits := ok (by rintro ⟨_, _, e, k⟩; cases e; exact below k) (by rintro ⟨_, _, e, -, k⟩; cases e; exact above k)
        simpa [below, above] using fits

theorem Run.resealsAt_unique {p p' : Nat} {g' g'' : Segment} (a : r.resealsAt p g') (b : r.resealsAt p' g'') : p = p' := by
  obtain ⟨seg, marked, first⟩ := a
  obtain ⟨seg', marked', first'⟩ := b
  rcases Nat.lt_trichotomy p p' with before | rfl | after
  · rw [first' p before g' seg] at marked
    cases marked
  · rfl
  · rw [first p' after g'' seg'] at marked'
    cases marked'

/-- A cycle that goes on at a segment that takes time runs it. -/
theorem Head.continues.runs {now n : Nat} {x y : Head} {u v : HeadStatus} {ended : Option (EndReason × Head)}
    (goes : Head.continues now h n x u y v ended) (run : x.run? = some r) (seg : r.segments[n]? = some g) (lasts : ¬g.atOnce) :
    y.runsSegment now n g x := by
  obtain ⟨m, w, u', r', passes, run', begun, -⟩ := goes
  cases passes with
  | stands =>
    obtain rfl : r = r' := Option.some.inj (run.symm.trans run')
    exact (begun g seg).1
  | pass hr hg instant =>
    cases run.symm.trans hr
    cases seg.symm.trans hg
    exact absurd instant lasts

end Sys2Proof.Machine

open Sys2Proof Sys2Proof.Machine

/-- Settles O36: the segment that ends calls for no dose evaluation, so the next one follows, from the targets of the ramp. -/
theorem segmentExpiryGoesOn : Obligations.SegmentExpiryGoesOn := by
  intro s h r g plain now
  obtain ⟨running, run, seg, kind, dose⟩ : (s.head h).state = .running ∧ (s.head h).run? = some r ∧
      r.segments[r.current]? = some g ∧ (g.kind = .hold ∨ g.kind = .ramp) ∧ ¬r.endsDose := by
    rcases plain with p | p
    · exact ⟨p.1, p.2.1, p.2.2.1, .inl p.2.2.2.1, p.not_endsDose⟩
    · exact ⟨p.1, p.2.1, p.2.2.1, .inr p.2.2.2.1, p.not_endsDose⟩
  obtain ⟨t, m, y, done, ends, goes⟩ := exec_segmentExpiry running run seg kind
  obtain ⟨-, -, -, marked⟩ := (s.head h).atRampEnd_keeps now
  obtain ⟨b, run'⟩ := marked r run
  obtain ⟨rfl, rfl⟩ := ends.plain run' dose
  refine ⟨t, done, goes, fun p g' ramp next lasts => ?_⟩
  obtain ⟨-, -, -, ended, goesOn, -⟩ := goes
  have runs := goesOn.runs (x := ((s.head h).atRampEnd now).segmentEnded) run' next (fun k => by simp [g'.atOnce_iff.1 k] at lasts)
  have takesTime (k : g'.kind = .ramp) : g'.duration ≠ 0 := fun z => by simp [Segment.instant, k, z] at lasts
  obtain ⟨-, -, -, -, steps, stays, -⟩ := runs
  refine ⟨fun untouched s0 v target => ?_, fun untouched s0 v target => ?_⟩
  · have reached : ((s.head h).atRampEnd now).tempSet = v := by rw [Head.atRampEnd_tempSet ramp, target]; rfl
    by_cases k : g'.kind = .ramp
    · exact (stays ⟨k, takesTime k⟩).1.trans reached
    · refine (steps fun ramps => k ramps.1).1.trans ?_
      rw [untouched.resolve_left k]
      exact reached
  · have reached : ((s.head h).atRampEnd now).presSet = v := by rw [Head.atRampEnd_presSet ramp, target]; rfl
    rcases untouched with k | ⟨k, absent⟩
    · exact (stays ⟨k, takesTime k⟩).2.trans reached
    · refine ((steps fun ramps => by simp [k] at ramps).2 (by simp [k])).trans ?_
      rw [absent]
      exact reached

/-- Settles O37: the evaluation takes the reseal point where the dose is low and a reseal is left, and the verdict otherwise. -/
theorem lastDoseSegmentIsJudged : Obligations.LastDoseSegmentIsJudged := by
  intro s h r g hold later x ended dose low high reseals
  have last := hold.endsDose
  obtain ⟨running, run, seg, kind, -⟩ := hold
  obtain ⟨t, m, y, done, ends, goes⟩ := exec_segmentExpiry running run seg (.inl kind)
  obtain ⟨-, -, counters, marked⟩ := (s.head h).atRampEnd_keeps (max s.now r.segDue)
  obtain ⟨b, run'⟩ := marked r run
  have reseals_iff : r.reseals ↔ reseals := and_congr_left fun _ => r.judged_low_iff
  refine ⟨fun yes p g' at' => ?_, fun no v isLow isHigh isOk => ?_⟩
  · obtain ⟨⟨g'', at''⟩, rfl⟩ := ends.resealed run' last (reseals_iff.2 yes)
    obtain rfl : p = m := Run.resealsAt_unique at' at''
    exact ⟨t, done, by rw [Head.resealing, counters] at goes; exact goes⟩
  · obtain ⟨rfl, rfl⟩ := ends.verdict run' last (mt reseals_iff.1 no)
    have verdict : v = r.judged := r.eq_judged isLow isHigh isOk
    exact ⟨t, done, verdict ▸ goes⟩
end

section
/-! PROOFS. Platen edges, physical and virtual (R71, R77, R79, R85, R165). -/

namespace Sys2Proof.Machine

variable {s t : State} {h : Fin 16}

/-! ### The platen edges as acts of the head (R71, R77, R79, R85) -/

section Edges

variable {x : HeadCtx} {r : Run}

theorem HeadCtx.closedEdge_still (e : x.head.platen ≠ .closing) : x.closedEdge = x := by
  unfold HeadCtx.closedEdge
  split
  · exact absurd ‹_› e
  · exact absurd ‹_› e
  · rfl

theorem HeadCtx.closedEdge_idle (e : x.head.platen = .closing) (run : x.head.run? = none) :
    x.closedEdge = x.mapHead fun y => { y with platen := .closed } := by
  unfold HeadCtx.closedEdge
  rw [e, run]

/-- A head whose CLOSE segment the platen has ended, with its closure time (R71, R77). -/
def Head.closed (time : Nat) (x : Head) : Head :=
  { x.updateRun (fun r => { r with closure := some time }) with
    platen := .closed
    counters := { x.counters with longest := max x.counters.longest time } }

theorem Head.closed_run? {x : Head} (run : x.run? = some r) (time : Nat) :
    (x.closed time).run? = some { r with closure := some time } :=
  (x.updateRun_run? _).trans (by rw [run]; rfl)

theorem HeadCtx.closedEdge_ends (e : x.head.platen = .closing) (run : x.head.run? = some r)
    (seg : x.head.segment.map Segment.kind = some .close) :
    x.closedEdge = HeadCtx.advance { x with head := x.head.closed (min (x.now - r.segStart) (r.segDue - r.segStart)) } := by
  unfold HeadCtx.closedEdge
  rw [e, run]
  exact if_pos seg

theorem HeadCtx.openEdge_still (e : ¬(x.head.platen = .unknown ∨ x.head.platen = .opening)) : x.openEdge = x := by
  unfold HeadCtx.openEdge
  split
  · exact absurd (.inl ‹_›) e
  · exact absurd (.inr ‹_›) e
  all_goals rfl

section Moves

variable (e : x.head.platen = .unknown ∨ x.head.platen = .opening)
include e

theorem HeadCtx.openEdge_releases {r : Release} (release : x.head.release = some r) :
    x.openEdge = (x.mapHead fun y => { y with platen := .opened }).confirm r := by
  rcases e with e | e <;> simp only [HeadCtx.openEdge, e, release]

theorem HeadCtx.openEdge_idle (release : x.head.release = none) (run : x.head.run? = none) :
    x.openEdge = x.mapHead fun y => { y with platen := .opened } := by
  have segment : x.head.segment = none := by rw [Head.segment, run]; rfl
  rcases e with e | e <;> simp [HeadCtx.openEdge, e, release, segment]

theorem HeadCtx.openEdge_ends (release : x.head.release = none) (seg : x.head.segment.map Segment.kind = some .openUp) :
    x.openEdge = (x.mapHead fun y => { y with platen := .opened }).advance := by
  rcases e with e | e <;> simp only [HeadCtx.openEdge, e, release, seg, if_true]

end Moves

theorem Head.plainSegment.segment_kind {kind : SegKind} {y : Head} {g : Segment} (plain : y.plainSegment kind r g) :
    y.segment.map Segment.kind = some kind := by
  obtain ⟨-, run, seg, k, -⟩ := plain
  simp [Head.segment, run, Run.segment, seg, k]

end Edges

theorem Head.enterReady_restsIn (x : Head) (now : Nat) : (x.enterReady now).restsIn .ready := by
  simp [Head.enterReady, Head.rest, Head.restsIn]

/-- The confirmation of a release phase (R85). -/
theorem HeadCtx.confirm_spec (x : HeadCtx) (r : Release) :
    (x.confirm r).head.platen = .opened ∧ (x.confirm r).head.release = none ∧ (x.confirm r).head.packRef = none ∧
      (x.confirm r).head.params = x.head.params ∧ (r.dest = .ready → (x.confirm r).head.restsIn .ready) ∧
      (r.dest = .heating → (x.confirm r).head.restsIn .heating) ∧ (r.dest = .safe → (x.confirm r).head.state = x.head.state) := by
  rw [HeadCtx.confirm_head]
  rcases r.dest with _ | _ | _
  · exact ⟨rfl, rfl, rfl, rfl, fun _ => Head.enterReady_restsIn _ _, nofun, nofun⟩
  · exact ⟨rfl, rfl, rfl, rfl, nofun, fun _ => Head.enterHeating_restsIn _ _, nofun⟩
  · exact ⟨rfl, rfl, rfl, rfl, nofun, nofun, fun _ => rfl⟩

/-! ### The edges in the device -/

section Taken

theorem State.actHead_closedEdge (s : State) (h : Fin 16) : s.closedEdgeTaken h (s.actHead h HeadCtx.closedEdge) := by
  refine ⟨fun e => State.actHead_unmoved (HeadCtx.closedEdge_still e), fun e run => ?_, fun r g e plain => ?_⟩
  · have act := HeadCtx.closedEdge_idle (x := s.ctx h) e run
    rw [State.actHead_congr act, s.actHead_quiet h _ rfl Iff.rfl]
    exact State.withHead_status_same h _
  · obtain ⟨running, run, -⟩ := id plain
    have act := HeadCtx.closedEdge_ends (x := s.ctx h) e run plain.segment_kind
    obtain ⟨m, y, ends, goes⟩ := State.actHead_advances (f := HeadCtx.closedEdge)
      (x := (s.head h).closed (min (s.now - r.segStart) (r.segDue - r.segStart))) running
      (Head.closed_run? run _) (by simp [running]) rfl act
    obtain ⟨rfl, rfl⟩ := ends.plain (Head.closed_run? run _) plain.not_endsDose
    exact goes

theorem State.actHead_openEdge (s : State) (h : Fin 16) : s.openEdgeTaken h (s.actHead h HeadCtx.openEdge) := by
  refine ⟨fun e => State.actHead_unmoved (HeadCtx.openEdge_still e), fun e release run => ?_, fun r e release => ?_,
    fun r g e release plain => ?_⟩
  · have act := HeadCtx.openEdge_idle (x := s.ctx h) e release run
    rw [State.actHead_congr act, s.actHead_quiet h _ rfl Iff.rfl]
    exact State.withHead_status_same h _
  · have act := HeadCtx.openEdge_releases (x := s.ctx h) e release
    obtain ⟨only, track⟩ := State.actHead_silent (s := s) (h := h) (f := HeadCtx.openEdge) (by rw [act, HeadCtx.confirm_out]; rfl)
    obtain ⟨platen, gone, ref, params, ready, heating, safe⟩ :=
      HeadCtx.confirm_spec ((s.ctx h).mapHead fun y => { y with platen := .opened }) r
    refine ⟨only, track, ?_⟩
    rw [State.actHead_head_self, State.actHead_status_self, act]
    exact ⟨platen, gone, ref, params, HeadCtx.confirm_status _ _, ready, heating, safe⟩
  · obtain ⟨running, run, -⟩ := id plain
    have act := HeadCtx.openEdge_ends (x := s.ctx h) e release plain.segment_kind
    obtain ⟨m, y, ends, goes⟩ := State.actHead_advances (f := HeadCtx.openEdge)
      (x := { s.head h with platen := .opened }) running run (by simp [running]) rfl act
    obtain ⟨rfl, rfl⟩ := ends.plain run plain.not_endsDose
    exact goes

/-- An act on a head whose record has been replaced, in or out of SAFE as it was. -/
theorem State.putHead_actHead (s : State) (h : Fin 16) (x : Head) (f : HeadCtx → HeadCtx) (same : x.state = (s.head h).state) :
    (s.putHead h x).actHead h f = s.actHead h fun c => f { c with head := x } := by
  have ctx : (s.putHead h x).ctx h = { s.ctx h with head := x } := by
    simp only [State.ctx, State.putHead_head_self]; rfl
  have put (y : Head) : (s.putHead h x).putHead h y = s.putHead h y := by
    simp only [State.putHead, State.setHeads, Bank.set_set]
  unfold State.actHead
  simp only [ctx, put, State.putHead_head_self, same]

/-- The edge that a virtual-edge timer gives, taken as a physical one (R165). -/
def VirtualEdge.edge : VirtualEdge → HeadCtx → HeadCtx
  | .closed => HeadCtx.closedEdge
  | .opened => HeadCtx.openEdge

/-- The virtual-edge timer expires: its edge is taken by a head whose timer is idle (R165). -/
theorem exec_virtualEdgeExpiry {due : Nat} {e : VirtualEdge} (timer : (s.head h).virtual = some (e, due)) :
    exec (.virtualEdgeExpiry h) s =
      .next (((s.setNow (max s.now due)).putHead h { s.head h with virtual := none }).actHead h e.edge) := by
  have act : exec (.virtualEdgeExpiry h) s = .next ((s.setNow (max s.now due)).actHead h (HeadCtx.virtualEdge e)) := by
    simp only [exec, execVirtualEdgeExpiry, timer]; rfl
  have idle := State.putHead_actHead (s.setNow (max s.now due)) h { s.head h with virtual := none } e.edge rfl
  refine act.trans (congrArg Host.Outcome.next (Eq.trans (State.actHead_congr ?_) idle.symm))
  cases e <;> rfl

theorem State.actHead_physicalEdge_dry {edge : HeadCtx → HeadCtx} (dry : (s.head h).params.loopMode = .dry) :
    s.actHead h (HeadCtx.physicalEdge edge) = s :=
  State.actHead_unmoved (if_pos (show (s.head h).isDry = true by simpa [Head.isDry] using dry))

theorem State.actHead_physicalEdge_driven {edge : HeadCtx → HeadCtx} (driven : (s.head h).params.loopMode ≠ .dry) :
    s.actHead h (HeadCtx.physicalEdge edge) = s.actHead h edge :=
  State.actHead_congr (if_neg (show ¬(s.head h).isDry = true by simpa [Head.isDry] using driven))

end Taken

end Sys2Proof.Machine

open Sys2Proof Sys2Proof.Machine

/-- Settles O35: a physical edge outside DRY and a virtual edge with its timer idle are one act of the head. -/
theorem platenEdgesAreTaken : Obligations.PlatenEdgesAreTaken := by
  intro s h other
  refine ⟨fun due e timer => ?_, ?_⟩
  · intro idle
    refine ⟨_, exec_virtualEdgeExpiry timer, ?_, ?_⟩
    · rintro rfl
      exact idle.actHead_closedEdge h
    · rintro rfl
      exact idle.actHead_openEdge h
  intro heard
  refine ⟨fun dry => ⟨?_, ?_⟩, fun driven => ⟨⟨_, ?_, (heard true other).actHead_closedEdge h⟩,
    ⟨_, ?_, (heard other true).actHead_openEdge h⟩⟩⟩
  · exact congrArg Host.Outcome.next (State.actHead_physicalEdge_dry (s := heard true other) dry)
  · exact congrArg Host.Outcome.next (State.actHead_physicalEdge_dry (s := heard other true) dry)
  · exact congrArg Host.Outcome.next (State.actHead_physicalEdge_driven (s := heard true other) driven)
  · exact congrArg Host.Outcome.next (State.actHead_physicalEdge_driven (s := heard other true) driven)
end

section
/-! PROOFS. CYCLE-ONCE: its checks and the cycle it starts (R170, R171). -/

namespace Sys2Proof.Machine

variable {s t : State} {b : Byte} {h : Fin 16} {q : CycleOnceReq}

/-- The value check of CYCLE-ONCE (R170). -/
theorem cycleOnceOk_iff (q : CycleOnceReq) :
    cycleOnceOk q = true ↔ 1 ≤ q.profile.toNat ∧ q.profile.toNat ≤ 24 ∧
      (q.flags.getLsbD 0 = true → q.windowMin.toNat ≤ q.windowMax.toNat) := by
  unfold cycleOnceOk profileIdOk windowOf
  rw [show flag q.flags 0 = q.flags.getLsbD 0 from rfl, Bool.and_eq_true, within_iff, and_assoc]
  cases q.flags.getLsbD 0 <;> simp

/-- The end of a CYCLE-ONCE writes to no pack (R82). -/
theorem State.goesOn.track_of_once {n : Nat} {x : Head} (g : s.goesOn h n x t) (once : x.cycle.map Cycle.origin = some .once) :
    t.track = s.track := by
  obtain ⟨-, -, -, ended, goes, stays, writes⟩ := g
  rcases ended with _ | ⟨reason, w⟩
  · exact stays rfl
  · obtain ⟨unwritten, -⟩ := writes reason w rfl
    exact unwritten (.inl (by rw [goes.keeps.1, once]; decide))

theorem State.actHead_once (ready : (s.head h).state = .ready) (q : CycleOnceReq) (gs : List Segment) :
    s.goesOn h 0 ((s.head h).started .once none (.atStart q.profile.toNat gs 0 4000 (windowOf q) false))
      (s.actHead h (HeadCtx.once q gs)) := by
  obtain ⟨ended, goes, out⟩ := HeadCtx.launch_continues ((s.ctx h).mapHead fun y => { y with packRef := none }) .once
    (.fresh q.profile.toNat gs 0 4000 (windowOf q) false)
  exact State.actHead_goesOn rfl (by simp [ready]) nofun ⟨ended, goes, out⟩

section Requests

variable (e : b.toNat = h.val)
include e

/-- The checks of CYCLE-ONCE in their order (R170). -/
theorem actCycleOnce_eq (q : CycleOnceReq) :
    actCycleOnce b q s =
      if ¬cycleOnceOk q = true then answered (.refuse .badValue 0) s
      else if s.track.mode = .run then answered (.refuse .wrongMode 0) s
      else if ¬((s.head h).state = .ready ∧ (s.head h).params.loopMode ≠ .monitor) then answered (.refuse .wrongState 0) s
      else (s.library.profile q.profile.toNat).elim (answered (.refuse .unknownProfile 0) s) fun gs =>
        answered (.ok []) (s.actHead h (HeadCtx.once q gs)) := by
  simp only [actCycleOnce, headOf_eq e, Bool.not_eq_true', Bool.not_eq_true, not_and_or, not_not, ne_eq]
  cases s.library.profile q.profile.toNat <;> rfl

end Requests

end Sys2Proof.Machine

open Sys2Proof Sys2Proof.Machine

/-- Settles O39: an accepted CYCLE-ONCE goes on at segment 0 as every started cycle does, and its end writes to no pack. -/
theorem cycleOnceStarts : Obligations.CycleOnceStarts := by
  intro s tag b h q now e x id good ready
  have ok : cycleOnceOk q = true ↔ good := cycleOnceOk_iff q
  have act := actCycleOnce_eq (s := s) e q
  refine ⟨fun bad => ?_, fun fine run => ?_, fun fine mode idle => ?_, fun fine mode rdy absent => ?_, fun fine mode rdy gs stored => ?_⟩
  · exact exec_answered (.cycleOnce tag b q) now s (.refuse .badValue 0) (act.trans (if_pos (mt ok.1 bad)))
  all_goals rw [if_neg (not_not.2 (ok.2 fine))] at act
  · exact exec_answered (.cycleOnce tag b q) now s (.refuse .wrongMode 0) (act.trans (if_pos run))
  all_goals rw [if_neg mode] at act
  · exact exec_answered (.cycleOnce tag b q) now s (.refuse .wrongState 0) (act.trans (if_pos idle))
  all_goals rw [if_neg (not_not.2 rdy)] at act
  · rw [absent] at act
    exact exec_answered (.cycleOnce tag b q) now s (.refuse .unknownProfile 0) act
  · rw [stored] at act
    have goes := State.actHead_once rdy.1 q gs
    have done := exec_answered (.cycleOnce tag b q) now _ (.ok []) act
    exact ⟨_, done, goes, goes.track_of_once rfl⟩
end

section
/-! PROOFS. Setpoint arithmetic: the corrected code of a setpoint, and the ramp step of a RUNNING head (R99, R101 to R106). -/

namespace Sys2Proof.Machine

/-! ### The corrected code (R102 to R104) -/

/-- R103's whole-number form of the sum is the exact sum rounded half up: both are one fraction over 262144. -/
theorem correctedSum_eq_floor (ideal : Nat) (gain offset : Half) :
    correctedSum ideal gain offset =
      ⌊(ideal : ℚ) + ideal * gain.toInt / 262144 + offset.toInt / 4 + 1 / 2⌋ := by
  have fraction : (ideal : ℚ) + ideal * gain.toInt / 262144 + offset.toInt / 4 + 1 / 2 =
      (((ideal : Int) * (262144 + gain.toInt) + offset.toInt * 65536 + 131072 : Int) : ℚ) / (262144 : Nat) := by
    push_cast
    ring
  rw [fraction, Rat.floor_intCast_div_natCast]
  rfl

/-- The limit of R103 as one expression, with the values it changes. -/
theorem limitCode_eq (x : Int) : limitCode x = ((max 0 (min 65535 x)).toNat, decide (x < 0 ∨ 65535 < x)) := by
  unfold limitCode
  split
  next below => rw [max_eq_left (by omega), decide_eq_true (.inl below)]; rfl
  next low =>
    split
    next above => rw [min_eq_left (by omega), decide_eq_true (.inr above)]; rfl
    next high => rw [min_eq_right (by omega), max_eq_right (by omega), decide_eq_false (by omega)]

theorem correctedCode_zero (o : Output) (c : CoeffItems) : correctedCode o c 0 = (0, false) := rfl

/-! ### The value of a ramp step (R99) -/

section RampValue

variable {s0 v e d : Nat}

theorem rampValue_of_le (up : s0 ≤ v) : rampValue s0 v e d = s0 + (v - s0) * e / d := by
  unfold rampValue
  rw [← Int.ofNat_sub up, ← Int.natCast_mul, ← Int.ofNat_tdiv, ← Int.natCast_add, Int.toNat_natCast]

/-- Downward the quotient is negative, and truncation toward zero takes the whole part of its size. -/
theorem rampValue_of_ge (down : v ≤ s0) : rampValue s0 v e d = s0 - (s0 - v) * e / d := by
  unfold rampValue
  rw [← neg_sub (s0 : Int), neg_mul, Int.neg_tdiv, ← Int.ofNat_sub down, ← Int.natCast_mul, ← Int.ofNat_tdiv,
    ← sub_eq_add_neg, Int.toNat_sub]

theorem rampValue_eq (s0 v e d : Nat) :
    rampValue s0 v e d = if s0 ≤ v then s0 + (v - s0) * e / d else s0 - (s0 - v) * e / d := by
  split
  next up => exact rampValue_of_le up
  next down => exact rampValue_of_ge (by omega)

/-- Before the end of the ramp a part of the way has been made, and no more than the whole. -/
theorem rampValue_between (before : e ≤ d) : min s0 v ≤ rampValue s0 v e d ∧ rampValue s0 v e d ≤ max s0 v := by
  have part (n : Nat) : n * e / d ≤ n := Nat.div_le_of_le_mul (by rw [Nat.mul_comm d]; exact Nat.mul_le_mul_left n before)
  rcases le_total s0 v with up | down
  · rw [rampValue_of_le up, min_eq_left up, max_eq_right up]
    exact ⟨Nat.le_add_right _ _, Nat.add_le_of_le_sub' up (part _)⟩
  · rw [rampValue_of_ge down, min_eq_right down, max_eq_left down]
    exact ⟨Nat.le_sub_of_add_le (Nat.add_le_of_le_sub' down (part _)), Nat.sub_le _ _⟩

end RampValue

/-! ### The ramp step (R99, R101, R103, R105) -/

/-- The setpoint of an output at an elapsed time of a ramp: one without a target stands (R99). -/
def rampAt (target : Option (Nat × Nat)) (elapsed duration standing : Nat) : Nat :=
  (target.map fun q => rampValue q.1 q.2 elapsed duration).getD standing

@[simp] theorem rampAt_none (e d standing : Nat) : rampAt none e d standing = standing := rfl

@[simp] theorem rampAt_some (s0 v e d standing : Nat) : rampAt (some (s0, v)) e d standing = rampValue s0 v e d := rfl

/-- An output with a target stands between start and target before the end of the ramp (R99). -/
theorem rampAt_target {target : Option (Nat × Nat)} {s0 v e d : Nat} (moves : target = some (s0, v)) (before : e ≤ d)
    (standing : Nat) :
    rampAt target e d standing = (if s0 ≤ v then s0 + (v - s0) * e / d else s0 - (s0 - v) * e / d) ∧
      min s0 v ≤ rampAt target e d standing ∧ rampAt target e d standing ≤ max s0 v := by
  subst moves
  exact ⟨rampValue_eq .., rampValue_between before⟩

theorem Head.setTemp_of_eq {x : Head} {now v : Nat} (same : v = x.tempSet) : x.setTemp now v = x := if_pos same
theorem Head.setPres_of_eq {x : Head} {v : Nat} (same : v = x.presSet) : x.setPres v = x := if_pos same

/-- A head that has taken a ramp step: both outputs where they stand at the elapsed time, and the next step 10 ms on. -/
def Head.afterRampStep (now : Nat) (p : Ramp) (x : Head) : Head :=
  { x.steppedTo now (rampAt p.temperature p.next p.duration x.tempSet) (rampAt p.pressure p.next p.duration x.presSet) false with
    ramp := some { p with next := p.next + 10 } }

/-- Both outputs moved at once: one without a target moves to where it stands, which is no change (R101, R105). -/
theorem Head.rampTo_eq {x : Head} (running : x.state = .running) (now e : Nat) (p : Ramp) :
    x.rampTo now e p =
      x.steppedTo now (rampAt p.temperature e p.duration x.tempSet) (rampAt p.pressure e p.duration x.presSet) false := by
  rw [← Head.twoMoves_eq running]
  unfold Head.rampTo
  rcases p.temperature with _ | ⟨t0, t⟩ <;> rcases p.pressure with _ | ⟨p0, w⟩ <;> simp only [rampAt_none, rampAt_some]
  · rw [Head.setTemp_of_eq rfl, Head.setPres_of_eq rfl]
  · rw [Head.setTemp_of_eq rfl]
  · rw [Head.setPres_of_eq (x.setTemp_presSet now _).symm]

theorem HeadCtx.rampStep_eq {x : HeadCtx} (running : x.head.state = .running) (p : Ramp) :
    x.rampStep p = { x with head := x.head.afterRampStep x.now p } :=
  congrArg (fun y : Head => { x with head := { y with ramp := some { p with next := p.next + 10 } } })
    (Head.rampTo_eq running x.now p.next p)

/-- The act of a ramp step writes the record of its head and nothing else. -/
theorem State.actHead_rampStep {s : State} {h : Fin 16} (running : (s.head h).state = .running) (p : Ramp) :
    s.actHead h (HeadCtx.rampStep p) = s.putHead h ((s.head h).afterRampStep s.now p) := by
  have act := HeadCtx.rampStep_eq (x := s.ctx h) running p
  rw [State.actHead_quiet s h _ (by rw [act]; rfl) (by rw [act]; rfl), act]
  exact s.withHead_status_same h _

theorem exec_rampStep {s : State} {h : Fin 16} {p : Ramp} (running : (s.head h).state = .running)
    (ramp : (s.head h).ramp = some p) (before : p.next < p.duration) :
    exec (.rampStep h) s =
      .next ((s.setNow (max s.now (p.start + p.next))).putHead h
        ((s.head h).afterRampStep (max s.now (p.start + p.next)) p)) := by
  have due : p.due = some (p.start + p.next) := if_pos before
  simp only [exec, execRampStep, ramp, State.expireHead_eq _ due]
  exact congrArg Host.Outcome.next (State.actHead_rampStep (s := s.setNow (max s.now (p.start + p.next))) running p)

end Sys2Proof.Machine

open Sys2Proof Sys2Proof.Machine

/-- Settles O38: the step is one write of the head's record, whose outputs stand where the ramp is at its elapsed time. -/
theorem rampStepMovesSetpoints : Obligations.RampStepMovesSetpoints := by
  intro s h p running ramp before between
  refine ⟨_, exec_rampStep running ramp before, rfl, rfl, rfl, rfl, rfl, rfl, rfl, rfl, rfl, rfl, ?_, rfl, rfl, ?_, ?_, ?_, ?_⟩
  · exact (Head.cycleClamped_eq ..).symm
  · exact fun s0 v moves => rampAt_target moves before.le _
  · exact fun s0 v moves => rampAt_target moves before.le _
  · intro stands
    simp [Head.afterRampStep, Head.steppedTo, stands]
  · intro stands
    simp [Head.afterRampStep, Head.steppedTo, stands]

/-- Settles O51: the whole-number sum of the model is the floor of the exact sum and a half, and the limit is that of R103. -/
theorem correctedCodeIsRounded : Obligations.CorrectedCodeIsRounded := by
  intro o c setpoint scale gain offset ideal exactSum rounded
  refine ⟨?_, fun on => ?_⟩
  · rintro rfl
    exact correctedCode_zero o c
  rw [← limitCode_eq]
  have sum : correctedSum (setpoint * scale) gain offset = rounded := by
    rw [correctedSum_eq_floor, Nat.cast_mul]
  rw [← sum]
  cases o <;> exact if_neg on
end

section
/-! PROOFS. Acts that write a head's own records and nothing else, and conditions that clear in them (R122, R153, R154). -/

namespace Sys2Proof.Machine

variable {s : State}

/-- An act that writes its head's own two records and nothing else, and leaves the head in its state. -/
def HeadCtx.keepsToRecords (f : HeadCtx → HeadCtx) : Prop :=
  ∀ x, (f x).out = x.out ∧ (f x).head.state = x.head.state

theorem State.actHead_keepsToRecords {h : Fin 16} {f : HeadCtx → HeadCtx} (own : HeadCtx.keepsToRecords f) :
    s.actHead h f = s.withHead h (f (s.ctx h)).head (f (s.ctx h)).status := by
  obtain ⟨out, state⟩ := own (s.ctx h)
  exact s.actHead_quiet h f out (by rw [state]; rfl)

/-- Such acts of the heads in turn leave everything but the heads' records. -/
theorem State.actHeads_keepsToRecords {f : Fin 16 → HeadCtx → HeadCtx} (own : ∀ h, HeadCtx.keepsToRecords (f h))
    (hs : List (Fin 16)) : { s.actHeads f hs with heads := s.heads, statuses := s.statuses } = s :=
  State.actHeads_induction (p := fun t => { t with heads := s.heads, statuses := s.statuses } = s) hs rfl fun u h _ hu => by
    rw [State.actHead_keepsToRecords (own h)]
    exact hu

theorem BitSet.remove_of_absent {w : Nat} {x : BitVec w} {i : Nat} (absent : x.getLsbD i = false) : BitSet.remove x i = x := by
  ext j hj
  by_cases e : j = i
  · subst e
    rw [BitVec.getLsbD_eq_getElem hj] at absent
    simp [BitSet.remove, absent]
  · simp [BitSet.remove, BitVec.getElem_twoPow, e]

/-- A condition cleared or declared in an act: its presence, and the status record it joins (R122, R153, R154). -/
theorem HeadCtx.setCond_eq (c : Cond) (on : Bool) (x : HeadCtx) :
    x.setCond c on =
      { x with
        head := { x.head with monitor := x.head.monitor.setLive c on }
        status := x.status.joinedBy (BitVec.twoPow 8 c.bit) } := by
  rw [HeadCtx.setCond, HeadStatus.change_eq]

end Sys2Proof.Machine
end

section
/-! PROOFS. The counters: copied, read and returned to 0 (R131 to R133). -/

namespace Sys2Proof.Machine

variable {s : State} {b : Byte} {h : Fin 16}

/-- A head whose live counters are returned to 0 (R133). -/
def Head.zeroed (x : Head) : Head :=
  { x with
    counters := {}
    monitor :=
      { x.monitor with
        live := if x.counters.deviations = 65535 then x.monitor.live &&& 0xEF else x.monitor.live } }

theorem HeadCtx.zeroCounters_eq (x : HeadCtx) :
    x.zeroCounters =
      { x with
        head := x.head.zeroed
        status := x.status.joinedBy (if x.head.counters.deviations = 65535 then 0x10 else 0) } := by
  unfold HeadCtx.zeroCounters Head.zeroed
  by_cases full : x.head.counters.deviations = 65535
  · simp only [full, if_true, HeadCtx.setCond_eq]
    rfl
  · simp only [full, if_false]
    exact congrArg (fun u => { x with head := { x.head with counters := {} }, status := u }) x.status.joinedBy_zero.symm

theorem HeadCtx.zeroCounters_keepsToRecords : HeadCtx.keepsToRecords HeadCtx.zeroCounters := fun x => by
  rw [x.zeroCounters_eq]
  exact ⟨rfl, rfl⟩

/-- The byte of a head number is the one the request carried (R201, R202). -/
theorem u8_head (e : b.toNat = h.val) : u8 h.val = [b] := by
  rw [u8, ← e, BitVec.ofNat_toNat, BitVec.setWidth_eq]

section Requests

variable (e : b.toNat = h.val)
include e

theorem actCountRead_eq :
    actCountRead b s =
      answered (.ok ([b] ++ twoBytes (s.head h).held.deviations ++ twoBytes (s.head h).held.sensorFaults ++
        fourBytes (s.head h).held.started ++ twoBytes (s.head h).held.failed ++ twoBytes (s.head h).held.reseals ++
        twoBytes (s.head h).held.longest)) s := by
  simp only [actCountRead, headOf_eq e, Counters.bytes, u8_head e, u16_eq, u32_eq]

theorem actCountZero_one {g : Byte} (one : g.getLsbD 0 = false) :
    actCountZero g b s = answered (.ok []) (s.actHead h HeadCtx.zeroCounters) := by
  have unmarked : flag g 0 = false := one
  simp only [actCountZero, unmarked, headOf_eq e, Bool.false_eq_true, if_false]

end Requests

theorem actCountZero_all {g : Byte} (all : g.getLsbD 0 = true) :
    actCountZero g b s = answered (.ok []) (s.actHeads (fun _ => HeadCtx.zeroCounters) allHeads) :=
  if_pos all

end Sys2Proof.Machine

open Sys2Proof Sys2Proof.Machine

/-- Settles O44: the snapshot maps every head, a reset leaves every head's held counters at their first values, and COUNT-ZERO is an act
that keeps to the records of the heads it names. -/
theorem countersAreHeldReadAndZeroed : Obligations.CountersAreHeldReadAndZeroed := by
  refine ⟨⟨fun s tag now => ?_, fun s tag b now => ⟨fun above => ?_, fun h e => ?_⟩, fun h => ?_, fun s opens closeds => ?_,
    fun s tag now => ?_⟩, fun s tag flags b now => ⟨fun one above => ?_, fun all => ?_, fun h one e => ?_⟩⟩
  · have act := exec_answered (.countSnapshot tag) now (s.setHeads (s.heads.map Head.snapshot)) (.ok []) rfl
    exact ⟨_, act, rfl, fun h => Bank.get_map s.heads Head.snapshot h⟩
  · exact exec_answered (.countRead tag b) now s (.refuse .badValue 15) (actCountRead_noHead above)
  · exact exec_answered (.countRead tag b) now s _ (actCountRead_eq e)
  · exact congrArg Head.held (Bank.get_fill h _)
  · exact ⟨_, rfl, fun h => congrArg Head.held (Bank.get_map _ _ h)⟩
  · exact ⟨_, exec_answered (.partReset tag) now s.softReset (.ok []) rfl, fun h => congrArg Head.held (Bank.get_map s.heads _ h)⟩
  · exact exec_answered (.countZero tag flags b) now s (.refuse .badValue 0) (actCountZero_noHead above one)
  · have act := exec_answered (.countZero tag flags b) now _ (.ok []) (actCountZero_all all)
    refine ⟨_, act, State.actHeads_keepsToRecords (fun _ => HeadCtx.zeroCounters_keepsToRecords) allHeads, fun h => ?_⟩
    obtain ⟨head, status⟩ := s.actHeads_all (fun _ => HeadCtx.zeroCounters) h
    rw [HeadCtx.zeroCounters_eq] at head status
    exact ⟨head, status⟩
  · have act := exec_answered (.countZero tag flags b) now _ (.ok []) (actCountZero_one e one)
    have head := s.actHead_head_self h HeadCtx.zeroCounters
    have status := s.actHead_status_self h HeadCtx.zeroCounters
    rw [HeadCtx.zeroCounters_eq] at head status
    refine ⟨_, act, ?_, ⟨head, status⟩, fun h' ne => s.actHead_of_ne _ ne⟩
    rw [State.actHead_keepsToRecords HeadCtx.zeroCounters_keepsToRecords]
    rfl
end

section
/-! PROOFS. The coefficient store: the check of a record, the load and a write (R174, R175, R178, R179). -/

namespace Sys2Proof.Machine

variable {s : State} {b : Byte} {h : Fin 16} {c : CoeffItems}

/-! ### The check of a record (R174) -/

theorem dataSum_le (c : CoeffItems) : dataSum c ≤ 8 * 255 :=
  List.sum_le_card_nsmul (c.bytes.map BitVec.toNat) 255 fun n m => by
    obtain ⟨v, -, rfl⟩ := List.mem_map.1 m
    omega

/-- The check that the data bytes form makes their sum 65535 (R174). -/
theorem formCheck_add_dataSum (c : CoeffItems) : (formCheck c).toNat + dataSum c = 65535 := by
  have small := dataSum_le c
  rw [formCheck, BitVec.toNat_ofNat]
  omega

theorem StoreRecord.valid_iff (r : StoreRecord) : r.valid = true ↔ r.check.toNat + dataSum r.items = 65535 := by
  have formed := formCheck_add_dataSum r.items
  rw [StoreRecord.valid, beq_iff_eq, ← BitVec.toNat_inj]
  omega

theorem StoreRecord.judge_eq (r : StoreRecord) :
    r.judge = if r.check.toNat + dataSum r.items = 65535 then some r.items else none :=
  if_congr r.valid_iff rfl rfl

/-! ### The load (R175) -/

/-- The results of a load after the record of the next head. -/
theorem Store.judgedWith_eq {l : List (Option CoeffItems)} (e : l.length = h.val) (t : Store) :
    t.judgedWith l = l ++ [(t.records.get h).judge] := by
  have bound : l.length < 16 := e ▸ h.isLt
  have next : (⟨l.length, bound⟩ : Fin 16) = h := Fin.ext e
  rw [Store.judgedWith, dif_pos bound, next]

theorem exec_loadRecordJudged {l : List (Option CoeffItems)} (loading : s.store.op = .loading l) :
    exec .loadRecordJudged s = .next ((s.setNow (max s.now s.store.due)).judgeRecord l s.store.due) := by
  simp only [exec, execLoadRecordJudged, loading]
  rfl

/-- A record that passed its check: its items become active, and UNCAL is not live. -/
theorem HeadCtx.loadCoeffs_some (c : CoeffItems) (x : HeadCtx) :
    x.loadCoeffs (some c) =
      { x with
        head := { x.head with coeffs := c, monitor := { x.head.monitor with live := x.head.monitor.live &&& 0xDF } } } :=
  rfl

/-- A record that failed its check: zeros become active, and UNCAL is declared. -/
theorem HeadCtx.loadCoeffs_none (x : HeadCtx) :
    x.loadCoeffs none =
      { x with
        head :=
          { x.head with
            coeffs := ⟨0, 0, 0, 0⟩
            monitor := { x.head.monitor with live := x.head.monitor.live ||| 0x20 } }
        status := x.status.joinedBy 0x20 } :=
  HeadCtx.setCond_eq .uncal true { x with head := { x.head with coeffs := ⟨0, 0, 0, 0⟩ } }

theorem HeadCtx.loadCoeffs_keepsToRecords (items : Option CoeffItems) : HeadCtx.keepsToRecords (HeadCtx.loadCoeffs items) :=
  fun _ => by cases items <;> exact ⟨rfl, rfl⟩

theorem State.endLoad_status (judged : List (Option CoeffItems)) (i : Fin 16) :
    (s.endLoad judged).status i = ((s.ctx i).loadCoeffs ((judged[i.val]?).join)).status :=
  (State.actHeads_all (s := s.setStore { s.store with op := .idle }) (fun h x => x.loadCoeffs ((judged[h.val]?).join)) i).2

/-- The end of the load leaves all but the heads' records and the store, which it leaves IDLE. -/
theorem State.endLoad_rest (judged : List (Option CoeffItems)) (s : State) :
    { s.endLoad judged with heads := s.heads, statuses := s.statuses } = s.setStore { s.store with op := .idle } :=
  State.actHeads_keepsToRecords (s := s.setStore { s.store with op := .idle })
    (fun h => HeadCtx.loadCoeffs_keepsToRecords ((judged[h.val]?).join)) allHeads

/-! ### COEFF-WRITE (R178, R179) -/

theorem Store.isIdle_iff (t : Store) : t.isIdle = true ↔ t.op = .idle := by
  unfold Store.isIdle
  split <;> simp [*]

/-- The checks of COEFF-WRITE in their order (R178). -/
theorem actCoeffWrite_eq (e : b.toNat = h.val) :
    actCoeffWrite b c s =
      if s.store.op ≠ .idle then answered (.refuse .storeBusy 0) s
      else if (s.head h).state ≠ .offline then answered (.refuse .wrongState 0) s
      else answered (.ok []) (s.setStore { s.store with op := .writing h c, due := s.now + 20, lastWrite := some h }) := by
  simp only [actCoeffWrite, headOf_eq e, Bool.not_eq_true', ← Bool.not_eq_true, Store.isIdle_iff]
  rfl

/-- The end of a write at its head: the items become active, and UNCAL clears where it was live (R179). -/
theorem HeadCtx.writeCoeffs_eq (c : CoeffItems) (x : HeadCtx) :
    x.writeCoeffs c =
      { x with
        head := { x.head with coeffs := c, monitor := { x.head.monitor with live := x.head.monitor.live &&& 0xDF } }
        status := x.status.joinedBy (if x.head.monitor.live.getLsbD 5 then 0x20 else 0) } := by
  unfold HeadCtx.writeCoeffs
  cases live : x.head.monitor.live.getLsbD 5 with
  | true =>
    rw [if_pos (show x.head.isLive .uncal = true from live), HeadCtx.setCond_eq]
    rfl
  | false =>
    have absent : x.head.monitor.live &&& 0xDF = x.head.monitor.live := BitSet.remove_of_absent live
    rw [if_neg (by rw [show x.head.isLive .uncal = false from live]; decide), absent]
    exact congrArg (fun u => { x with head := { x.head with coeffs := c }, status := u }) x.status.joinedBy_zero.symm

theorem HeadCtx.writeCoeffs_keepsToRecords (c : CoeffItems) : HeadCtx.keepsToRecords (HeadCtx.writeCoeffs c) := fun x => by
  rw [x.writeCoeffs_eq c]
  exact ⟨rfl, rfl⟩

theorem exec_coeffWriteEnd (writing : s.store.op = .writing h c) :
    exec .coeffWriteEnd s =
      .next (((s.setNow (max s.now s.store.due)).setStore
        { s.store with op := .idle, records := s.store.records.set h (.written c) }).actHead h (HeadCtx.writeCoeffs c)) := by
  simp only [exec, execCoeffWriteEnd, writing]
  rfl

end Sys2Proof.Machine

open Sys2Proof Sys2Proof.Machine

/-- Settles O49: the checks in their order, and a written record whose check its items form. -/
theorem coeffWriteStoresRecord : Obligations.CoeffWriteStoresRecord := by
  intro s tag b h c e
  refine ⟨fun now => ⟨fun busy => ?_, fun idle online => ?_, fun idle offline => ?_⟩, fun writing => ?_⟩
  · exact exec_answered (.coeffWrite tag b c) now s (.refuse .storeBusy 0) ((actCoeffWrite_eq e).trans (if_pos busy))
  · exact exec_answered (.coeffWrite tag b c) now s (.refuse .wrongState 0)
      ((actCoeffWrite_eq e).trans ((if_neg (not_not.2 idle)).trans (if_pos online)))
  · exact exec_answered (.coeffWrite tag b c) now _ (.ok [])
      ((actCoeffWrite_eq e).trans ((if_neg (not_not.2 idle)).trans (if_neg (not_not.2 offline))))
  · have done := exec_coeffWriteEnd writing
    rw [State.actHead_keepsToRecords (HeadCtx.writeCoeffs_keepsToRecords c), HeadCtx.writeCoeffs_eq] at done
    exact ⟨_, _, .written c, done, rfl, formCheck_add_dataSum c, rfl, rfl⟩

/-- Settles O50: fifteen records leave the load going on, and the sixteenth ends it at every head by the result of its record. -/
theorem loadJudgesRecords : Obligations.LoadJudgesRecords := by
  intro s l h loading next r sum judged
  have results : s.store.judgedWith l = judged := by
    rw [Store.judgedWith_eq next, StoreRecord.judge_eq]
    rfl
  have act := exec_loadRecordJudged loading
  rw [State.judgeRecord, State.setNow_store, results] at act
  refine ⟨fun before => ?_, fun last => ?_⟩
  · rw [if_neg (by omega)] at act
    exact act
  · rw [if_pos (by omega)] at act
    have rest := (s.setNow (max s.now s.store.due)).endLoad_rest judged
    refine ⟨_, act, congrArg (fun u : State => { u with store := s.store, now := s.now }) rest, congrArg State.now rest,
      congrArg State.store rest, fun h' => ⟨fun c passed => ?_, fun failed => ?_⟩⟩
    · rw [State.endLoad_head, State.endLoad_status, passed, Option.join_some, HeadCtx.loadCoeffs_some]
      exact ⟨rfl, rfl⟩
    · rw [State.endLoad_head, State.endLoad_status, failed, Option.join_some, HeadCtx.loadCoeffs_none]
      exact ⟨rfl, rfl⟩
end

section
/-! PROOFS. The Gate Unit's own acts: GATE-SETUP, the punch, the diverter decision and its pulse, and the reject-confirm edge
(R135, R138, R139, R141, R142). -/

namespace Sys2Proof.Machine

variable {s : State}

/-! ### GATE-SETUP (R135) -/

section Setup

variable {r : GateSetupReq}

/-- The ranges of GATE-SETUP on the items of the request (R135). -/
theorem gateConfigOf_valid (r : GateSetupReq) :
    (gateConfigOf r).valid = true ↔
      r.punchDelay.toNat ≤ 1000 ∧ 10 ≤ r.punchWidth.toNat ∧ r.punchWidth.toNat ≤ 500 ∧
      r.diverterDelay.toNat ≤ 2000 ∧ 20 ≤ r.diverterWidth.toNat ∧ r.diverterWidth.toNat ≤ 500 ∧
      r.confirmGrace.toNat ≤ 500 := by
  simp only [GateConfig.valid, gateConfigOf, Bool.and_eq_true, within_iff, Nat.zero_le, true_and, and_assoc]

theorem actGateSetup_wrongMode (mode : s.track.mode ≠ .halted) :
    actGateSetup r s = answered (.refuse .wrongMode 0) s :=
  if_pos mode

theorem actGateSetup_badValue (mode : s.track.mode = .halted) (bad : ¬(gateConfigOf r).valid = true) :
    actGateSetup r s = answered (.refuse .badValue 0) s :=
  (if_neg (not_not.2 mode)).trans (if_pos (by simpa using bad))

theorem actGateSetup_replaces (mode : s.track.mode = .halted) (ok : (gateConfigOf r).valid = true) :
    actGateSetup r s = answered (.ok []) (s.setGate { s.gate with config := gateConfigOf r }) :=
  (if_neg (not_not.2 mode)).trans (if_neg (by simp [ok]))

end Setup

section Timers

variable {a : GateActivity} {due : Nat}

/-! ### The acts of the gate on its activity record -/

theorem Gate.update_eq {g : Gate} (activity : g.activity = some a) (f : GateActivity → GateActivity) :
    g.update f = { g with activity := some (f a) } := by
  rw [Gate.update, activity, Option.map_some]

/-- A gate timer that runs in its phase expires: the clock is brought up to it and the act taken (log entry 2). -/
theorem State.expire_gateTimer {timer : Option Nat} {phase : GateActivity → Bool} (activity : s.gate.activity = some a)
    (runs : timer = some due) (inPhase : phase a = true) (f : State → State) :
    s.expire (s.gate.timerIn phase timer) f = f (s.setNow (max s.now due)) := by
  rw [Gate.timerIn_eq_some.2 ⟨⟨a, activity, inPhase⟩, runs⟩]
  rfl

/-! ### The punch (R138) -/

theorem exec_punchDelayExpiry (activity : s.gate.activity = some a) (runs : s.gate.punchTimer = some due)
    (phase : a.punch = .delay) :
    exec .punchDelayExpiry s = .next ((s.setNow (max s.now due)).setGate (s.gate.strike (max s.now due))) :=
  congrArg Host.Outcome.next (State.expire_gateTimer activity runs (by exact beq_iff_eq.2 phase) _)

theorem exec_punchWidthExpiry (activity : s.gate.activity = some a) (runs : s.gate.punchTimer = some due)
    (phase : a.punch = .asserted) :
    exec .punchWidthExpiry s = .next ((s.setNow (max s.now due)).setGate s.gate.punchDone) :=
  congrArg Host.Outcome.next (State.expire_gateTimer activity runs (by exact beq_iff_eq.2 phase) _)

/-! ### The diverter (R139, R141) -/

theorem exec_diverterDelayExpiry (activity : s.gate.activity = some a) (runs : s.gate.diverterTimer = some due)
    (phase : a.diverter = .delay) :
    exec .diverterDelayExpiry s = .next (s.setNow (max s.now due)).divert :=
  congrArg Host.Outcome.next (State.expire_gateTimer activity runs (by exact beq_iff_eq.2 phase) _)

theorem exec_diverterWidthExpiry (activity : s.gate.activity = some a) (runs : s.gate.diverterTimer = some due)
    (phase : a.diverter = .pulse) :
    exec .diverterWidthExpiry s = .next ((s.setNow (max s.now due)).setGate s.gate.pulseDone) :=
  congrArg Host.Outcome.next (State.expire_gateTimer activity runs (by exact beq_iff_eq.2 phase) _)

variable {p : Nat} {n : Nest}

/-- The nest of a serial number after the decision on it stands where it stood. -/
theorem Track.find_updateNest_decide {t : Track} {k : Nat} (required : Bool) (found : t.find k = some (p, n)) :
    (t.updateNest k (Nest.decide required)).find k = some (p, n.decide required) := by
  rw [Track.find_updateNest t k k (Nest.decide required) fun _ => rfl, found]
  exact congrArg some (Prod.ext rfl (if_pos (Track.find_serial found)))

/-- The diverter decision on a gate nest that is in the track: its packs are decided, and the lanes they divert are pulsed. -/
theorem State.divert_eq (activity : s.gate.activity = some a) (found : s.track.find a.serial = some (p, n)) :
    s.divert =
      (s.setTrack (s.track.updateNest a.serial (Nest.decide s.track.config.verdictRequired))).setGate
        (s.gate.pulse s.now (n.decide s.track.config.verdictRequired).divertedLanes) := by
  simp only [State.divert, activity, Track.find_updateNest_decide _ found]

/-! ### The reject-confirm edge (R142) -/

/-- An edge inside the confirm window is counted. -/
theorem exec_rejectConfirmEdge_inside (activity : s.gate.activity = some a)
    (inside : a.diverter = .pulse ∨ a.diverter = .window) :
    exec .rejectConfirmEdge s = .next (s.setGate s.gate.count) :=
  congrArg Host.Outcome.next (if_pos ((Option.any_eq_true _ _).2 ⟨a, activity, a.windowOpen_iff.2 inside⟩))

theorem exec_rejectConfirmEdge_outside
    (outside : ∀ a, s.gate.activity = some a → a.diverter ≠ .pulse ∧ a.diverter ≠ .window) :
    exec .rejectConfirmEdge s = .next s := by
  refine congrArg Host.Outcome.next (if_neg fun window => ?_)
  obtain ⟨a, activity, isOpen⟩ := (Option.any_eq_true _ _).1 window
  exact not_or.2 (outside a activity) (a.windowOpen_iff.1 isOpen)

end Timers

end Sys2Proof.Machine

open Sys2Proof Sys2Proof.Machine

/-- Settles O16, by the refusals in their order. -/
theorem gateSetupReplacesConfiguration : Obligations.GateSetupReplacesConfiguration := by
  intro s tag r now good
  have valid : (gateConfigOf r).valid = true ↔ good := gateConfigOf_valid r
  refine ⟨fun mode => ?_, fun mode bad => ?_, fun mode ok => ?_⟩
  · exact exec_answered (.gateSetup tag r) now s (.refuse .wrongMode 0) (actGateSetup_wrongMode mode)
  · exact exec_answered (.gateSetup tag r) now s (.refuse .badValue 0) (actGateSetup_badValue mode (valid.not.2 bad))
  · exact exec_answered (.gateSetup tag r) now _ (.ok []) (actGateSetup_replaces mode (valid.2 ok))

/-- Settles O54: the decision on the packs of the gate nest, and the lanes it diverts. -/
theorem decisionDivertsRejectedPacks : Obligations.DecisionDivertsRejectedPacks := by
  intro s a due p n activity timer found now
  refine ⟨fun delay => ?_, fun pulse => ?_⟩
  · let required := s.track.config.verdictRequired
    have decision := exec_diverterDelayExpiry activity timer delay
    rw [State.divert_eq (s := s.setNow now) activity found] at decision
    refine ⟨_, n.decide required, (n.decide required).divertedLanes, decision, rfl, rfl,
      State.packsKept_updateNest fun _ => rfl, Track.find_updateNest_decide required found, Nest.decide_decidedAs required n, ?_⟩
    rw [State.setGate_gate, Gate.pulse, State.setNow_gate, Gate.update_eq activity]
    rfl
  · rw [exec_diverterWidthExpiry activity timer pulse, Gate.pulseDone, Gate.update_eq activity]

/-- Settles O53: the punch by its phase, and an edge by whether the confirm window is open. -/
theorem punchStrikesAndEdgesCount : Obligations.PunchStrikesAndEdgesCount := by
  constructor
  · intro s a due activity timer later
    refine ⟨fun delay => ?_, fun asserted => ?_⟩
    · rw [exec_punchDelayExpiry activity timer delay, Gate.strike, Gate.update_eq activity]
    · rw [exec_punchWidthExpiry activity timer asserted, Gate.punchDone, Gate.update_eq activity]
  · intro s
    refine ⟨fun a activity inside => ?_, exec_rejectConfirmEdge_outside⟩
    rw [exec_rejectConfirmEdge_inside activity inside, Gate.count, Gate.update_eq activity]
end

section
/-! PROOFS. The order in which the transmitter chooses its messages, a head's status record and the track status: what joins
them, and what the two takes reply and leave (R30, R151 to R160, R188, R197, R198). -/

namespace Sys2Proof

/-- A message takes time on the line (R182). -/
theorem Frame.sendTime_pos (f : Frame) : 0 < f.sendTime := by
  have bytes : 0 < f.wire.length := by simp [Frame.wire]
  rw [Frame.sendTime, Config.lineRate]
  omega

/-- The lowest head that passes a test is the one the search through the heads finds. -/
theorem find?_allHeads_lowest {p : Fin 16 → Bool} {h : Fin 16} (passes : p h = true) (lowest : ∀ h' < h, p h' = false) :
    allHeads.find? p = some h := by
  have place : ∀ i : Fin 16, allHeads[i.val]'i.isLt = i := by decide
  refine List.find?_eq_some_iff_getElem.2 ⟨passes, h.val, h.isLt, place h, fun j below => ?_⟩
  have fails : p (allHeads[j]'(below.trans h.isLt)) = false :=
    (congrArg p (place ⟨j, below.trans h.isLt⟩)).trans (lowest ⟨j, below.trans h.isLt⟩ below)
  exact congrArg not fails

end Sys2Proof

namespace Sys2Proof.Machine

variable {s : State}

/-! ### The choice of a message (R188) -/

theorem State.nextMessage_reply {f : Frame} {rest : List Frame} (filled : s.link.filled = f :: rest) :
    s.nextMessage = some (f, .reply, s) := by
  simp only [State.nextMessage, filled]

theorem State.nextMessage_report {n : Nest} {rest : List Nest} (noReply : s.link.filled = [])
    (outcomes : s.track.outcomes = n :: rest) :
    s.nextMessage = some (⟨0xE2, 0, n.layout⟩, .report, s) := by
  simp only [State.nextMessage, noReply, outcomes, Nest.bytes_eq]
  rfl

section Notices

variable (noReply : s.link.filled = []) (noReport : s.track.outcomes = [])
include noReply noReport

theorem State.nextMessage_headNotice {h : Fin 16} (owed : (s.status h).owed = true)
    (lowest : ∀ h' < h, (s.status h').owed = false) :
    s.nextMessage =
      some (⟨0xE0, 0, [BitVec.ofNat 8 h.val, BitVec.ofNat 8 (s.status h).pending.code]⟩, .notice,
        s.putStatus h { s.status h with owed := false }) := by
  have found : (allHeads.find? fun h => (s.status h).owed) = some h := find?_allHeads_lowest owed lowest
  simp only [State.nextMessage, noReply, noReport, found]
  rfl

/-- With no head notice owed, the track notice is chosen or nothing. -/
theorem State.nextMessage_trackNotice (noHead : ∀ h, (s.status h).owed = false) :
    s.nextMessage =
      if s.trackStatus.owed then
        some (⟨0xE1, 0, [s.trackStatus.changed]⟩, .notice, s.setTrackStatus { s.trackStatus with owed := false })
      else none := by
  have found : (allHeads.find? fun h => (s.status h).owed) = none :=
    List.find?_eq_none.2 fun h _ => by rw [noHead h]; exact Bool.false_ne_true
  simp only [State.nextMessage, noReply, noReport, found]
  rfl

end Notices

/-- A transmitter that is sending, or that host-hold stops, begins nothing (R182, R188). -/
theorem State.beginMessage_stopped (stopped : s.lines.hostHold = true ∨ s.link.sending.isSome = true) :
    s.beginMessage = s := by
  refine if_neg fun may => ?_
  obtain ⟨free, unheld⟩ := Bool.and_eq_true_iff.1 may
  rcases stopped with hold | sending
  · rw [hold] at unheld; exact Bool.false_ne_true unheld
  · rw [Option.isNone_iff_eq_none.1 free] at sending; exact Bool.false_ne_true sending

section Free

variable (unheld : s.lines.hostHold = false) (free : s.link.sending = none)
include unheld free

theorem State.mayBegin : (s.link.sending.isNone && !s.lines.hostHold) = true := by
  rw [free, unheld]; rfl

theorem State.beginMessage_silent (silent : s.nextMessage = none) : s.beginMessage = s :=
  (if_pos (State.mayBegin unheld free)).trans (by rw [silent])

/-- A free transmitter sends the message chosen; its last byte is out after the present millisecond. -/
theorem State.beginMessage_sends {f : Frame} {source : Source} {u : State} (chosen : s.nextMessage = some (f, source, u)) :
    ∃ due, s.now < due ∧ s.beginMessage = u.setLink { u.link with sending := some ⟨f, source, due⟩ } := by
  refine ⟨s.now + f.sendTime, Nat.lt_add_of_pos_right f.sendTime_pos, (if_pos (State.mayBegin unheld free)).trans ?_⟩
  rw [chosen]; rfl

end Free

/-! ### Marks and bytes -/

/-- Two marks in one byte, bit 0 first. -/
theorem marks_two : ∀ a b : Bool, BitVec.ofNat 8 (marks [a, b]) = (if a then 1 else 0) ||| (if b then 2 else 0) := by
  decide

/-- Three marks in one byte, bit 0 first. -/
theorem marks_three : ∀ a b c : Bool,
    BitVec.ofNat 8 (marks [a, b, c]) = (if a then 1 else 0) ||| (if b then 2 else 0) ||| (if c then 4 else 0) := by
  decide

/-- A 16-bit set as two bytes, the high byte first (R192). -/
theorem bytes16_eq (x : Half) : bytes16 x = twoBytes x.toNat := by
  rw [← u16_eq, u16, BitVec.ofNat_toNat, BitVec.setWidth_eq]

/-- The flags of a station result as one number (R197). -/
theorem StationResult.marks_flags (r : StationResult) :
    marks r.flags =
      (if r.resealed then 1 else 0) + (if r.ceilingClamped then 2 else 0) + (if r.outputClamped then 4 else 0) +
        (if r.lowSeen then 8 else 0) + (if r.tainted then 16 else 0) + (if r.dose = none then 0 else 32) +
        (if r.closure = none then 0 else 64) := by
  simp only [mark_mul, mark_isSome_mul, StationResult.flags, marks]
  omega

/-! ### Solicited events (R151, R152) -/

/-- The content of one event alone (R151). -/
theorem Solicited.one_eq (e : SolicitedEvent) :
    Solicited.one e = ⟨BitVec.twoPow 8 e.bit, e.reasons, e.record, e.segment, 1⟩ := by
  rw [Solicited.one, BitSet.add, BitVec.ofNat_eq_ofNat, BitVec.zero_or]

/-- An event merged into content, with the fields it may lack written out (R152). -/
theorem Solicited.merge_eq (e : SolicitedEvent) (c : Solicited) :
    c.merge e =
      ⟨c.kinds ||| BitVec.twoPow 8 e.bit, c.reasons ||| e.reasons, if c.first = none then e.record else c.first,
        if e.segment = none then c.notify else e.segment, min 255 (c.merged + 1)⟩ := by
  have first : c.first.or e.record = if c.first = none then e.record else c.first := by
    rcases c.first with _ | r <;> rfl
  have newest : e.segment.or c.notify = if e.segment = none then c.notify else e.segment := by
    rcases e.segment with _ | n <;> rfl
  rw [Solicited.merge, BitSet.add, first, newest]

section Post

variable {t : HeadStatus} {c : Solicited} (e : SolicitedEvent)

theorem HeadStatus.post_empty (pending : t.pending = .empty) :
    t.post e = { t with pending := .solicited (.one e), owed := true } := by
  cases t; cases pending; rfl

theorem HeadStatus.post_solicited (pending : t.pending = .solicited c) :
    t.post e = { t with pending := .solicited (c.merge e) } := by
  cases t; cases pending; rfl

theorem HeadStatus.post_alert (pending : t.pending = .alert) (held : t.held = none) :
    t.post e = { t with held := some (.one e) } := by
  cases t; cases pending; cases held; rfl

theorem HeadStatus.post_alert_held (pending : t.pending = .alert) (held : t.held = some c) :
    t.post e = { t with held := some (c.merge e) } := by
  cases t; cases pending; cases held; rfl

end Post

/-! ### STATUS-TAKE (R154, R155) -/

/-- The changed set that STATUS-TAKE leaves: empty after alert content (R155). -/
def HeadStatus.changedLeft (t : HeadStatus) : Byte :=
  if t.pending = .alert then 0 else t.changed

section Take

variable {t : HeadStatus}

/-- Held content moves up, and no alert test is made. -/
theorem HeadStatus.take_held {c : Solicited} (held : t.held = some c) :
    t.take = { t with pending := .solicited c, held := none, changed := t.changedLeft, owed := true } := by
  cases t; cases held; rfl

/-- With nothing held, the alert test is made on a status that is empty. -/
theorem HeadStatus.take_tests (noneHeld : t.held = none) :
    t.take = HeadStatus.alertTest { t with pending := .empty, changed := t.changedLeft, owed := false } := by
  cases t; cases noneHeld; rfl

theorem HeadStatus.take_alerts (noneHeld : t.held = none) (enabled : t.changedLeft &&& t.enable ≠ 0) :
    t.take = { t with pending := .alert, changed := t.changedLeft, owed := true } :=
  (HeadStatus.take_tests noneHeld).trans (if_pos ⟨rfl, enabled⟩)

theorem HeadStatus.take_rests (noneHeld : t.held = none) (masked : t.changedLeft &&& t.enable = 0) :
    t.take = { t with pending := .empty, changed := t.changedLeft, owed := false } :=
  (HeadStatus.take_tests noneHeld).trans (if_neg fun both => both.2 masked)

/-- Whatever moves up or alerts, the take keeps the enable mask and leaves nothing held. -/
theorem HeadStatus.take_leaves (t : HeadStatus) :
    t.take.enable = t.enable ∧ t.take.changed = t.changedLeft ∧ t.take.held = none := by
  rcases held : t.held with _ | c
  · by_cases masked : t.changedLeft &&& t.enable = 0
    · rw [HeadStatus.take_rests held masked]; exact ⟨rfl, rfl, held⟩
    · rw [HeadStatus.take_alerts held masked]; exact ⟨rfl, rfl, held⟩
  · rw [HeadStatus.take_held held]; exact ⟨rfl, rfl, rfl⟩

end Take

/-! ### The track live set (R30, R198) -/

theorem State.trackLive_eq :
    s.trackLive =
      (if s.track.runsLow then 1 else 0) ||| (if s.causes = 0 then 0 else 2) ||| (if s.causes.getLsbD 7 then 4 else 0) := by
  have hold : (if s.holdAsserted then (2 : Byte) else 0) = if s.causes = 0 then 0 else 2 := by
    by_cases none : s.causes = 0 <;> simp [State.holdAsserted, none]
  rw [State.trackLive, marks_three, hold]
  rfl

end Sys2Proof.Machine

open Sys2Proof Sys2Proof.Machine

/-- Settles O11: the choice is made once the line is read, source by source; the rest is the transmitter, free or not. -/
theorem transmitterChoosesInOrder : Obligations.TransmitterChoosesInOrder := by
  intro s hold heard sends
  refine ⟨fun stopped => congrArg _ (State.beginMessage_stopped stopped), fun hold free => ?_⟩
  have begins {f : Frame} {source : Source} {u : State} (chosen : heard.nextMessage = some (f, source, u)) :
      sends u f source := by
    obtain ⟨due, later, sent⟩ := State.beginMessage_sends (s := heard) hold free chosen
    exact ⟨due, later, congrArg _ sent⟩
  refine ⟨fun f rest filled => begins (State.nextMessage_reply filled), fun noReply =>
    ⟨fun n rest outcomes => begins (State.nextMessage_report noReply outcomes), fun noReport =>
      ⟨fun h owed lowest => begins (State.nextMessage_headNotice (s := heard) noReply noReport owed lowest),
        fun noHead => ?_⟩⟩⟩
  have last := State.nextMessage_trackNotice (s := heard) noReply noReport noHead
  exact ⟨fun owed => begins (last.trans (if_pos owed)), fun notOwed =>
    congrArg _ (State.beginMessage_silent (s := heard) hold free (last.trans (if_neg (by simp [heard, notOwed]))))⟩

/-- Settles O40: an event alone and an event merged are what the statement writes out, and the status has four forms. -/
theorem solicitedEventsMerge : Obligations.SolicitedEventsMerge := by
  intro e t bit reasons record segment alone merged
  have bitOf : BitVec.twoPow 8 e.bit = bit := by cases e <;> rfl
  have reasonsOf : e.reasons = reasons := by cases e <;> rfl
  have recordOf : e.record = record := by cases e <;> rfl
  have segmentOf : e.segment = segment := by cases e <;> rfl
  have one : Solicited.one e = alone := by
    rw [Solicited.one_eq, bitOf, reasonsOf, recordOf, segmentOf]
  have merge (c : Solicited) : c.merge e = merged c := by
    rw [Solicited.merge_eq, bitOf, reasonsOf, recordOf, segmentOf]
  refine ⟨fun pending => ?_, fun c pending => ?_, fun pending held => ?_, fun c pending held => ?_⟩
  · rw [HeadStatus.post_empty e pending, one]
  · rw [HeadStatus.post_solicited e pending, merge]
  · rw [HeadStatus.post_alert e pending held, one]
  · rw [HeadStatus.post_alert_held e pending held, merge]

/-- Settles O41: the reply is laid out field by field before the take, which leaves a status of one of three forms. -/
theorem statusTakeDrainsStatus : Obligations.StatusTakeDrainsStatus := by
  intro s tag b h now e y changed code two flags first content
  have recordLaid (o : Option CycleRecord) : recordBytes o = first o := by
    rcases o with _ | ⟨origin, serial, lane, result⟩
    · rfl
    · simp only [recordBytes, StationResult.marks_flags, u16_eq]
      cases origin <;> cases lane <;> rfl
  have contentLaid : y.pending.bytes = content := by
    simp only [content]
    rcases y.pending with _ | c | _
    · rfl
    · simp only [PendingStatus.bytes, recordLaid, marks_two, bytes16_eq, u8, ite_eq_none]
      rfl
    · rfl
  have named : BitVec.ofNat 8 h.val = b := by rw [← e, BitVec.ofNat_toNat, BitVec.setWidth_eq]
  have coded : BitVec.ofNat 8 y.pending.code = code := by
    simp only [code]
    cases y.pending <;> rfl
  have reply : statusBytes h (s.head h).monitor.live y = [b, code, (s.head h).monitor.live, y.changed] ++ content ++ [0, 0] := by
    rw [statusBytes, u8, u8, named, coded, contentLaid]
    rfl
  have act : requestAct (.statusTake tag b) s = (s.putStatus h y.take, some (.ok (statusBytes h (s.head h).monitor.live y))) := by
    simp only [requestAct, actStatusTake, headOf_eq e]; rfl
  rw [reply] at act
  have done := exec_answered (.statusTake tag b) now _ _ act nofun rfl
  obtain ⟨enable, left, held⟩ := y.take_leaves
  refine ⟨y.take, done, enable, left, held, fun c moves => ?_, fun noneHeld alerts => ?_, fun noneHeld rests => ?_⟩
  · rw [HeadStatus.take_held moves]; exact ⟨rfl, rfl⟩
  · rw [HeadStatus.take_alerts noneHeld alerts]; exact ⟨rfl, rfl⟩
  · rw [HeadStatus.take_rests noneHeld rests]; exact ⟨rfl, rfl⟩

/-- Settles O42: the reply is formed of the two sets before the take. -/
theorem trackStatusTakeEmptiesSet : Obligations.TrackStatusTakeEmptiesSet := by
  intro s tag flags mask now live
  have reply : s.trackLive = live := State.trackLive_eq
  rw [← reply]
  exact exec_answered (.trackStatusTake tag flags mask) now _ (.ok [s.trackStatus.changed, s.trackLive]) rfl nofun rfl
end

section
/-! PROOFS. COEFF-READ: its refusal, the read it begins, and the reply formed at the end of the read (R174, R177, R202). -/

namespace Sys2Proof.Machine

variable {s : State} {b : Byte} {h : Fin 16}

/-- The check of COEFF-READ, and the read that an accepted one begins (R177). -/
theorem actCoeffRead_eq (e : b.toNat = h.val) :
    actCoeffRead b s =
      if s.store.op ≠ .idle then answered (.refuse .storeBusy 10) s
      else (s.setStore { s.store with op := .reading h, due := s.now + 3 }, none) := by
  simp only [actCoeffRead, headOf_eq e, Bool.not_eq_true', ← Bool.not_eq_true, Store.isIdle_iff]
  rfl

/-- The validity mark of a record is R174's test of its check. -/
theorem StoreRecord.validMark_eq (r : StoreRecord) :
    u8 (mark r.valid) = [if r.check.toNat + dataSum r.items = 65535 then 1 else 0] := by
  by_cases sums : r.check.toNat + dataSum r.items = 65535
  · rw [r.valid_iff.2 sums, if_pos sums]; rfl
  · rw [Bool.eq_false_iff.2 (mt r.valid_iff.1 sums), if_neg sums]; rfl

/-- The content of the reply: the head's byte, the items as stored and the validity mark (R177, R202). -/
theorem readBytes_eq (e : b.toNat = h.val) (r : StoreRecord) :
    readBytes h r r.valid =
      [b] ++ r.items.bytes ++ [if r.check.toNat + dataSum r.items = 65535 then 1 else 0] := by
  rw [readBytes, u8_head e, StoreRecord.validMark_eq]

theorem exec_coeffReadEnd (reading : s.store.op = .reading h) :
    exec .coeffReadEnd s =
      .next (((s.setNow (max s.now s.store.due)).setStore { s.store with op := .idle }).setLink
        (s.link.complete Kind.coeffRead (.ok (readBytes h (s.store.records.get h) (s.store.records.get h).valid)))) := by
  simp only [exec, execCoeffReadEnd, reading]
  rfl

end Sys2Proof.Machine

open Sys2Proof Sys2Proof.Machine

/-- Settles O48: the read is refused or begins with its slot reserved, and its end fills the oldest slot of its kind. -/
theorem coeffReadReportsRecord : Obligations.CoeffReadReportsRecord := by
  intro s tag b h e
  refine ⟨fun now => ⟨fun busy => ?_, fun idle => ?_⟩, fun older younger reading reserved no => ?_⟩
  · exact exec_answered (.coeffRead tag b) now s (.refuse .storeBusy 10) ((actCoeffRead_eq e).trans (if_pos busy))
  · exact exec_reserved (.coeffRead tag b) now _ ((actCoeffRead_eq e).trans (if_neg (not_not.2 idle)))
  · rw [exec_coeffReadEnd reading, readBytes_eq e, Link.complete_oldest (kind := Kind.coeffRead) _ reserved no]
    rfl
end

section
/-! PROOFS. The frames of requests (R184, R186, R192 to R195, R200, R201). -/

namespace Sys2Proof

/-! ### Two-byte values and lists of segment records (R192, R194) -/

/-- The bytes of a two-byte value spell it. -/
theorem be16_bytes (x : Half) : be16 (x.extractLsb' 8 8) (x.extractLsb' 0 8) = x := by
  unfold be16
  rw [BitVec.extractLsb'_append_extractLsb'_eq_extractLsb' (by rfl)]
  exact BitVec.extractLsb'_eq_self

/-- The value of two bytes has those bytes. -/
theorem bytes16_be16 (hi lo : Byte) : bytes16 (be16 hi lo) = [hi, lo] := by
  unfold bytes16 be16
  rw [BitVec.extractLsb'_append_eq_left, BitVec.extractLsb'_append_eq_right]

/-- The bytes of segment records spell those records. -/
theorem segmentsOf_bytes (gs : List SegmentReq) : segmentsOf (gs.flatMap SegmentReq.bytes) = some gs := by
  induction gs with
  | nil => rfl
  | cons g gs ih =>
    change (segmentsOf (gs.flatMap SegmentReq.bytes)).map _ = _
    rw [ih]
    simp only [Option.map_some, be16_bytes]

/-- Segment records that bytes spell have those bytes. -/
theorem bytes_segmentsOf {l : List Byte} {gs : List SegmentReq} (spelled : segmentsOf l = some gs) :
    gs.flatMap SegmentReq.bytes = l := by
  induction l using segmentsOf.induct generalizing gs with
  | case1 => cases spelled; rfl
  | case2 k g t1 t0 p1 p0 d1 d0 rest ih =>
    rw [segmentsOf] at spelled
    obtain ⟨others, e, rfl⟩ := Option.map_eq_some_iff.1 spelled
    rw [List.flatMap_cons, ih e]
    simp only [SegmentReq.bytes, bytes16_be16]
    rfl
  | case3 l nonempty short =>
    rw [segmentsOf] at spelled
    · cases spelled
    all_goals assumption

/-! ### The check (R184) -/

/-- The check's test value, by the register after each byte (R184). -/
theorem crc16_testValue : crc16 [0x31, 0x32, 0x33, 0x34, 0x35, 0x36, 0x37, 0x38, 0x39] = 0x29B1 := by
  have after1 : crcByte 0xFFFF 0x31 = 0xC782 := rfl
  have after2 : crcByte 0xC782 0x32 = 0x3DBA := rfl
  have after3 : crcByte 0x3DBA 0x33 = 0x5BCE := rfl
  have after4 : crcByte 0x5BCE 0x34 = 0x5349 := rfl
  have after5 : crcByte 0x5349 0x35 = 0x4560 := rfl
  have after6 : crcByte 0x4560 0x36 = 0x2EF4 := rfl
  have after7 : crcByte 0x2EF4 0x37 = 0x7718 := rfl
  have after8 : crcByte 0x7718 0x38 = 0xA12B := rfl
  have after9 : crcByte 0xA12B 0x39 = 0x29B1 := rfl
  simp only [crc16, List.foldl_cons, List.foldl_nil, after1, after2, after3, after4, after5, after6, after7, after8, after9]

/-! ### Requests and their frames (R186, R200, R201) -/

/-- The frame of a PROFILE-PUT that fits a frame spells it: the count byte says how many segment records follow (R192, R201). -/
theorem payloadProfilePut_bytes (tag id : Byte) {gs : List SegmentReq} (fits : 2 + 8 * gs.length ≤ maxPayload) :
    payloadProfilePut tag ([id, BitVec.ofNat 8 gs.length] ++ gs.flatMap SegmentReq.bytes) = .request (.profilePut tag id gs) := by
  have counted : gs.length = (BitVec.ofNat 8 gs.length).toNat := by
    unfold maxPayload at fits
    rw [BitVec.toNat_ofNat, Nat.mod_eq_of_lt (by omega)]
  simp only [List.cons_append, List.nil_append, payloadProfilePut, segmentsOf_bytes]
  exact if_pos counted

/-- What is judged a PROFILE-PUT has the payload of one: the count byte is the number of its segment records. -/
theorem payloadProfilePut_encodes {tag : Byte} {p : List Byte} {i : Instr} (e : payloadProfilePut tag p = .request i) :
    encodeFrame i = some ⟨Kind.profilePut, tag, p⟩ := by
  unfold payloadProfilePut at e
  split at e
  · split at e
    · rename_i id count rest _ gs spelled
      split at e
      · rename_i counted
        cases e
        rw [encodeFrame, counted, BitVec.ofNat_toNat, BitVec.setWidth_eq, bytes_segmentsOf spelled]
        rfl
      · cases e
    · cases e
  · cases e

/-- The frame of a well-formed request is judged to be that request, kind by kind; an event has no frame (R186, R200, R201). -/
theorem decodeFrame_encodeFrame {i : Instr} {f : Frame} (wf : i.wellFormed = true) (e : encodeFrame i = some f)
    (known : f.kind ∈ requestKinds) : decodeFrame f = .request i := by
  cases i
  case profilePut tag id gs =>
    cases e
    exact payloadProfilePut_bytes tag id (of_decide_eq_true wf)
  case unknownKindFrame kind tag payload =>
    cases e
    obtain ⟨unknown, -⟩ := Bool.and_eq_true_iff.1 wf
    have absent : kind ∉ requestKinds := by simpa using unknown
    exact absurd known absent
  all_goals
    cases e
  all_goals
    exact congrArg Judged.request (by simp only [be16_bytes])

/-- A frame judged to be a request is the frame of it, kind by kind: each byte of the payload stands in a field. -/
theorem encodeFrame_of_decodeFrame {f : Frame} {i : Instr} (e : decodeFrame f = .request i) : encodeFrame i = some f := by
  obtain ⟨kind, tag, p⟩ := f
  unfold decodeFrame at e
  dsimp only at e
  split at e
  case h_8 k =>
    rw [(BitVec.toNat_eq_nat.1 k).2]
    exact payloadProfilePut_encodes e
  case h_36 => cases e
  all_goals
    rename_i k
    rw [(BitVec.toNat_eq_nat.1 k).2]
    simp only [payloadPartReset, payloadTrackSetup, payloadGateSetup, payloadHeadSetup, payloadHeadEnables, payloadFormatPut,
      payloadFormatDrop, payloadProfileDrop, payloadTrackStart, payloadTrackStop, payloadManifestPost, payloadManifestFlush,
      payloadVerdict, payloadHoldRelease, payloadHeadOnline, payloadHeadOffline, payloadHeadHalt, payloadHeadCancel,
      payloadHeadClear, payloadHeadRelease, payloadStatusTake, payloadTrackStatusTake, payloadHeadQuery, payloadTrackQuery,
      payloadNestQuery, payloadCountSnapshot, payloadCountRead, payloadCountZero, payloadCoeffRead, payloadCoeffWrite,
      payloadStoreQuery, payloadCycleOnce, payloadInject, payloadStep] at e
    split at e
    · cases e
      simp only [encodeFrame, DoseFields.bytes, CoeffItems.bytes, bytes16_be16]
      rfl
    · cases e

/-- A kind that R200 does not list is judged unknown, whatever the payload (R186). -/
theorem decodeFrame_of_unlisted {f : Frame} (unlisted : f.kind ∉ requestKinds) : decodeFrame f = .unknownKind := by
  unfold decodeFrame
  split
  case h_36 => rfl
  all_goals
    rename_i k
    have listed : f.kind ∈ requestKinds := by rw [(BitVec.toNat_eq_nat.1 k).2]; decide
    exact absurd listed unlisted

end Sys2Proof

open Sys2Proof

/-- Settles O4, by the kind of the request: its bytes spell its fields. -/
theorem requestFramesRoundTrip : Obligations.RequestFramesRoundTrip :=
  fun _ _ => decodeFrame_encodeFrame

/-- Settles O5, by the kind of the frame: the payload of each kind has no bytes beside the request's fields. -/
theorem judgedFramesAreRequests : Obligations.JudgedFramesAreRequests :=
  ⟨fun _ _ => encodeFrame_of_decodeFrame, fun _ => decodeFrame_of_unlisted⟩

/-- Settles O7, by computation: each frame is a closed one. -/
theorem writtenFramesDecode : Obligations.WrittenFramesDecode :=
  ⟨crc16_testValue, rfl, rfl, rfl, rfl, rfl, rfl⟩
end

section
/-! PROOFS. The receiver: bytes, gaps and the frame they make (R183, R184, R193). -/

namespace Sys2Proof

theorem Frame.counted_length (f : Frame) : f.counted.length = f.payload.length + 2 := rfl

/-- The length byte of a frame that fits the line. -/
theorem Frame.lengthByte_toNat (f : Frame) (fits : f.payload.length ≤ 250) : f.lengthByte.toNat = f.counted.length := by
  have length := f.counted_length
  rw [Frame.lengthByte, BitVec.toNat_ofNat, Nat.mod_eq_of_lt (by omega)]

end Sys2Proof

namespace Sys2Proof.Machine

variable {now : Nat} {k : Link} {b : Byte} {stopBit : Bool} {s : State}

/-! ### One byte (R183) -/

/-- A frame in progress and more than 5 ms since its last byte. -/
theorem Link.gapPassed_iff :
    k.gapPassed now = true ↔ k.receiver.complete = none ∧ ∃ l, k.lastByte = some l ∧ l + 5 < now := by
  unfold Link.gapPassed
  rcases k.lastByte with _ | l
  · simp
  · rw [Bool.and_eq_true, Option.isNone_iff_eq_none, decide_eq_true_eq]
    simp [Config.gapLimit]

/-- Only a frame in progress has a time of its last byte. -/
theorem Link.byte_lastByte :
    (k.byte now b stopBit).lastByte = if (k.byte now b stopBit).receiver = .hunt then none else some now := rfl

/-- A byte with a missing stop bit leaves HUNT. -/
theorem Link.byte_noStopBit : (k.byte now b false).receiver = .hunt := rfl

/-- A good byte in HUNT, or after a gap, is judged in HUNT. -/
theorem Link.byte_hunting (hunting : k.receiver = .hunt ∨ k.gapPassed now = true) :
    (k.byte now b true).receiver = if b = 0xA5 then .sync else .hunt := by
  have judged : (if k.gapPassed now then Receiver.hunt else k.receiver) = .hunt := by
    rcases hunting with hunting | passed
    · rw [hunting, ite_self]
    · exact if_pos passed
  exact congrArg (Receiver.take b) judged

/-- A good byte without a gap is judged by the receiver's state. -/
theorem Link.byte_inTime (inTime : ∀ l, k.lastByte = some l → now ≤ l + 5) :
    (k.byte now b true).receiver = k.receiver.take b := by
  refine congrArg (Receiver.take b) (if_neg fun passed => ?_)
  obtain ⟨-, l, last, late⟩ := Link.gapPassed_iff.1 passed
  exact absurd (inTime l last) (by omega)

theorem Receiver.take_length (b : Byte) :
    Receiver.length.take b = if 2 ≤ b.toNat ∧ b.toNat ≤ 252 then .body b.toNat [] else .hunt := by
  simp only [Receiver.take, within_iff]

theorem Receiver.take_body (n : Nat) (l : List Byte) (b : Byte) :
    (Receiver.body n l).take b = if l.length + 1 < n then .body n (l ++ [b]) else .check n (l ++ [b]) [] := by
  simp only [Receiver.take, ← not_lt, ite_not]

/-! ### Bytes without a gap (R183, R184, R193) -/

/-- Good bytes judged one after another. -/
def Receiver.takeAll (l : List Byte) (r : Receiver) : Receiver :=
  l.foldl (fun r b => r.take b) r

theorem Receiver.takeAll_append (l m : List Byte) (r : Receiver) : r.takeAll (l ++ m) = (r.takeAll l).takeAll m :=
  List.foldl_append

/-- Bytes at one millisecond are judged one after another by the receiver's state. -/
theorem Link.bytes_receiver (l : List Byte) (inTime : ∀ t, k.lastByte = some t → now ≤ t + 5) :
    (l.foldl (fun k b => k.byte now b true) k).receiver = k.receiver.takeAll l := by
  induction l generalizing k with
  | nil => rfl
  | cons b l ih =>
    have judgedInTime : ∀ t, (k.byte now b true).lastByte = some t → now ≤ t + 5 := by
      intro t last
      rw [Link.byte_lastByte] at last
      split at last <;> cases last
      omega
    rw [List.foldl_cons, ih judgedInTime, Link.byte_inTime inTime]
    rfl

/-- BODY collects the bytes that the length byte counts, and CHECK follows. -/
theorem Receiver.takeAll_counted {n : Nat} (got l : List Byte) (more : l ≠ []) (counted : got.length + l.length = n) :
    (Receiver.body n got).takeAll l = .check n (got ++ l) [] := by
  induction l generalizing got with
  | nil => exact absurd rfl more
  | cons b l ih =>
    change ((Receiver.body n got).take b).takeAll l = _
    rw [Receiver.take_body]
    rw [List.length_cons] at counted
    rcases l with _ | ⟨c, l⟩
    · rw [List.length_nil] at counted
      rw [if_neg (by omega)]
      rfl
    · rw [List.length_cons] at counted
      rw [if_pos (by omega), ih _ (List.cons_ne_nil c l) (by simp; omega), List.append_assoc]
      rfl

/-- The bytes of a frame after its first sync byte leave the receiver in CHECK with all of it (R183, R193). -/
theorem Receiver.takeAll_wire {f : Frame} (fits : f.payload.length ≤ 250) :
    Receiver.sync.takeAll ([0x5A, f.lengthByte] ++ f.counted ++ bytes16 f.check) =
      .check f.counted.length f.counted (bytes16 f.check) := by
  have length := f.counted_length
  have begun : Receiver.sync.takeAll [0x5A, f.lengthByte] = .body f.counted.length [] := by
    change Receiver.length.take f.lengthByte = _
    rw [Receiver.take_length, f.lengthByte_toNat fits, if_pos (by omega)]
  have collected : (Receiver.body f.counted.length []).takeAll f.counted = .check f.counted.length f.counted [] :=
    Receiver.takeAll_counted [] f.counted (List.cons_ne_nil _ _) (Nat.zero_add _)
  rw [Receiver.takeAll_append, Receiver.takeAll_append, begun, collected]
  rfl

/-- A frame with its own two check bytes is whole (R184). -/
theorem Receiver.complete_wire (f : Frame) :
    (Receiver.check f.counted.length f.counted (bytes16 f.check)).complete = some (f, true) := by
  change some (f, f.check == be16 (f.check.extractLsb' 8 8) (f.check.extractLsb' 0 8)) = _
  rw [be16_bytes, beq_self_eq_true]

/-! ### The receiver's commands -/

theorem State.judgeFrame_none (noFrame : s.link.receiver.complete = none) : s.judgeFrame = s := by
  rw [State.judgeFrame, noFrame]

theorem exec_byteReceived (noFrame : s.link.receiver.complete = none) :
    exec (.byteReceived b stopBit) s = .next (s.setLink (s.link.byte s.now b stopBit)) := by
  change Host.Outcome.next (s.judgeFrame.mapLink _) = _
  rw [State.judgeFrame_none noFrame]
  rfl

/-- Where a frame is in progress, the gap is over 6 ms after its last byte (log entry 7). -/
theorem Link.gapDue_eq {l : Nat} (noFrame : k.receiver.complete = none) (last : k.lastByte = some l) :
    k.gapDue = some (l + 6) := by
  rw [Link.gapDue, noFrame, last]
  rfl

end Sys2Proof.Machine

open Sys2Proof Sys2Proof.Machine

/-- Settles O6: the first sync byte leaves HUNT, and the others find no gap. -/
theorem wireFramesAreReceived : Obligations.WireFramesAreReceived := by
  intro f k now fits hunting
  have synced : (k.byte now 0xA5 true).receiver = .sync := Link.byte_hunting (.inl hunting)
  change (([0x5A, f.lengthByte] ++ f.counted ++ bytes16 f.check).foldl (fun k b => k.byte now b true)
    (k.byte now 0xA5 true)).receiver.complete = _
  rw [Link.bytes_receiver, synced, Receiver.takeAll_wire fits, Receiver.complete_wire]
  intro t last
  rw [Link.byte_lastByte, synced] at last
  cases last
  omega

/-- Settles O8, by the gap and the receiver's state. -/
theorem byteMovesReceiver : Obligations.ByteMovesReceiver := by
  refine ⟨fun s b stopBit noFrame => ⟨_, exec_byteReceived noFrame, rfl, rfl, Link.byte_lastByte, ?_, ?_, ?_⟩,
    fun s l noFrame last => ?_⟩
  · rintro rfl
    exact Link.byte_noStopBit
  · rintro rfl hunting
    exact Link.byte_hunting (hunting.imp_right fun late => Link.gapPassed_iff.2 ⟨noFrame, late⟩)
  · rintro rfl inTime
    rw [State.setLink_link, Link.byte_inTime inTime]
    refine ⟨fun state => ?_, fun state => ?_, fun n l state => ?_, fun n l c state => ?_⟩ <;> rw [state]
    · rfl
    · exact Receiver.take_length b
    · exact Receiver.take_body n l b
    · rfl
  · change Host.Outcome.next (s.expire s.link.gapDue _) = _
    rw [Link.gapDue_eq noFrame last]
    rfl
end

section
/-! PROOFS. A whole frame: offered to the buffer, or taken where a slot is free (R184 to R186). -/

namespace Sys2Proof.Machine

variable {s : State} {f : Frame} {i : Instr}

/-! ### A frame offered to the buffer (R185) -/

/-- With no slot free a frame waits, or is lost when the buffer holds four. -/
theorem State.offerFrame_full (full : 8 ≤ s.link.slotsUsed) :
    s.offerFrame f =
      if s.link.buffer.length < 4 then s.setLink { s.link with buffer := s.link.buffer ++ [f] } else s := by
  by_cases room : s.link.buffer.length < 4
  · have pushed : s.link.push f = { s.link with buffer := s.link.buffer ++ [f] } := if_pos room
    rw [State.offerFrame, State.mapLink, pushed, if_pos room]
    exact State.resumeTaking_stop (.inr full)
  · have kept : s.link.push f = s.link := if_neg room
    rw [State.offerFrame, State.mapLink, kept, if_neg room]
    exact State.resumeTaking_stop (.inr full)

/-- With the buffer empty and a slot free a frame is taken as it arrives. -/
theorem State.offerFrame_takesNow (now : s.takesNow) : s.offerFrame f = s.takeFrame f := by
  obtain ⟨empty, free⟩ := now
  have pushed : s.mapLink (Link.push f) = s.waiting [f] := by
    rw [State.mapLink, Link.push, empty]
    rfl
  have emptied : s.waiting [] = s := by
    rw [State.waiting, ← empty]
    rfl
  rw [State.offerFrame, pushed]
  exact (if_pos ((Link.slotFree_iff _).2 free)).trans (congrArg (State.takeFrame f) emptied)

theorem State.takeFrame_unknownKind (e : decodeFrame f = .unknownKind) : s.takeFrame f = s.withReply 0xFF f.tag [1] := by
  rw [State.takeFrame, e]
  rfl

theorem State.takeFrame_badLength (e : decodeFrame f = .badLength) :
    s.takeFrame f = s.withReply (f.kind + 0x80) f.tag [2] := by
  rw [State.takeFrame, e]
  rfl

/-! ### A collected frame (R184) -/

/-- The receiver back in HUNT, as a judged frame leaves it. -/
def State.hunting (s : State) : State :=
  s.setLink { s.link with receiver := .hunt, lastByte := none }

/-- A collected frame is discarded, or offered to the buffer when its check agrees. -/
theorem exec_frameReceived {agrees : Bool} (collected : s.link.receiver.complete = some (f, agrees)) :
    exec .frameReceived s = .next (if agrees then s.hunting.offerFrame f else s.hunting) := by
  change Host.Outcome.next s.judgeFrame = _
  rw [State.judgeFrame, collected]
  rfl

/-! ### A request without a free slot (R185) -/

theorem State.request_full (code : encodeFrame i = some f) (full : 8 ≤ s.link.slotsUsed)
    (act : State → State × Option Answer) : s.request i act = s.offerFrame f := by
  have taken : ¬(s.link.buffer.isEmpty && s.link.slotFree) = true := fun free =>
    absurd ((Link.slotFree_iff _).1 (Bool.and_eq_true_iff.1 free).2) (by omega)
  rw [State.request, code]
  exact if_neg taken

/-- Every command that a frame spells offers its frame to the buffer when no slot is free. -/
theorem exec_full (code : encodeFrame i = some f) (full : 8 ≤ s.link.slotsUsed) : exec i s = .next (s.offerFrame f) := by
  cases i with
  | unknownKindFrame => cases code; rfl
  | deviceReset | frameReceived | receiveGapTimeout | syntheticIndexDone | indexStart | indexDone | stallExpiry
  | platenClosedEdge | platenOpenEdge | startLineEdge | startDelayExpiry | startLimitExpiry | segmentExpiry | closeLimitExpiry
  | openLimitExpiry | rampStep | releaseOpenLimitExpiry | sample | virtualEdgeExpiry | rejectConfirmEdge | punchDelayExpiry
  | punchWidthExpiry | diverterDelayExpiry | diverterWidthExpiry | confirmWindowExpiry | loadRecordJudged | coeffReadEnd
  | coeffWriteEnd | transmitBegin | messageLastByte | byteReceived => cases code
  | _ => exact congrArg Host.Outcome.next (State.request_full code full _)

end Sys2Proof.Machine

open Sys2Proof Sys2Proof.Machine

/-- Settles O9, by the check and the slots; what is taken is judged by its kind and its length. -/
theorem collectedFrameIsJudged : Obligations.CollectedFrameIsJudged := by
  intro s f agrees collected hunting
  rw [exec_frameReceived collected]
  refine ⟨?_, ?_, ?_⟩
  · rintro rfl
    rfl
  · rintro rfl full
    exact congrArg _ (State.offerFrame_full full)
  · rintro rfl takes
    have now : hunting.takesNow := takes
    have taken : s.hunting.offerFrame f = hunting.takeFrame f := State.offerFrame_takesNow now
    rw [if_pos rfl, taken]
    refine ⟨fun i e => ?_, fun e => ?_, fun e => ?_⟩
    · exact (exec_of_decodeFrame now e).symm
    · exact congrArg _ (State.takeFrame_unknownKind e)
    · exact congrArg _ (State.takeFrame_badLength e)

/-- Settles O10: with no slot free every request's frame is offered to the buffer alone; a kind that is not listed is
judged unknown. -/
theorem framesWaitOrAreAnswered : Obligations.FramesWaitOrAreAnswered := by
  refine ⟨fun s i f code full => ?_, fun s kind tag payload now unlisted => ?_⟩
  · rw [exec_full code full, State.offerFrame_full full]
  · change Host.Outcome.next (s.offerFrame ⟨kind, tag, payload⟩) = _
    rw [State.offerFrame_takesNow now, State.takeFrame_unknownKind (decodeFrame_of_unlisted unlisted)]
end

