-- ==== Sys2Proof/Proofs/CommandQueue.lean ====
section
/-! PROOFS. Every command answers a next state, and none touches the queue of commands that wait (log entries 1 and 18). -/

namespace Sys2Proof.Machine

variable {s t : State}

/-! ### Acts of requests and the queue -/

/-- An act's outcome that leaves the queue of commands as it was in `s`. -/
def State.KeepsQueue (s : State) (r : State × Option Answer) : Prop :=
  r.1.pending = s.pending

theorem keepsQueue_reply (a : Answer) : s.KeepsQueue (answered a s) :=
  rfl

theorem keepsQueue_ite {c : Prop} [Decidable c] {x y : State × Option Answer} (hx : s.KeepsQueue x)
    (hy : s.KeepsQueue y) : s.KeepsQueue (if c then x else y) := by
  split
  · exact hx
  · exact hy

/-- A check that refuses, and what follows it. -/
theorem keepsQueue_guard {c : Prop} [Decidable c] {refusal : Answer} {x : State × Option Answer}
    (hx : s.KeepsQueue x) : s.KeepsQueue (if c then answered refusal s else x) :=
  keepsQueue_ite (keepsQueue_reply refusal) hx

/-- The act of a request that names a head: the number looked at first. -/
theorem keepsQueue_head {head : Byte} {refusal : Answer} {act : Fin 16 → State × Option Answer}
    (h : ∀ i, s.KeepsQueue (act i)) :
    s.KeepsQueue (match headOf head with | none => answered refusal s | some i => act i) := by
  rcases headOf head with _ | i
  · exact keepsQueue_reply refusal
  · exact h i

theorem actManifestPost_keepsQueue (codes : Lanes Byte) : s.KeepsQueue (actManifestPost codes s) := by
  refine keepsQueue_guard ?_
  rcases s.library.manifestFault (codes.map BitVec.toNat) allLanes with _ | ⟨r, lane⟩
  · exact State.crossManifest_pending _ _
  · exact keepsQueue_reply _

theorem actVerdict_keepsQueue (serial : Half) (mask reason : Byte) :
    s.KeepsQueue (actVerdict serial mask reason s) := by
  refine keepsQueue_guard ?_
  rcases s.track.find serial.toNat with _ | ⟨p, n⟩
  · exact keepsQueue_reply _
  · exact rfl

theorem actNestQuery_keepsQueue (serial : Half) : s.KeepsQueue (actNestQuery serial s) := by
  refine keepsQueue_guard ?_
  rcases s.track.find serial.toNat with _ | ⟨p, n⟩
  · exact keepsQueue_reply _
  · exact keepsQueue_reply _

theorem actFormatPut_keepsQueue (r : FormatReq) : s.KeepsQueue (actFormatPut r s) := by
  unfold actFormatPut
  rcases formatOf r with _ | f
  · exact keepsQueue_reply _
  · exact keepsQueue_guard (keepsQueue_guard rfl)

theorem actProfilePut_keepsQueue (id : Byte) (segments : List SegmentReq) :
    s.KeepsQueue (actProfilePut id segments s) := by
  refine keepsQueue_guard ?_
  rcases segmentList segments with _ | gs
  · exact keepsQueue_reply _
  · dsimp only
    rcases profileFault gs with _ | n
    · exact keepsQueue_guard rfl
    · exact keepsQueue_reply _

theorem actProfileDrop_keepsQueue (id : Byte) : s.KeepsQueue (actProfileDrop id s) := by
  refine keepsQueue_guard (keepsQueue_guard ?_)
  rcases s.library.lowestNaming id.toNat with _ | code
  · exact rfl
  · exact keepsQueue_reply _

theorem actHeadSetup_keepsQueue (head : Byte) (r : HeadSetupReq) : s.KeepsQueue (actHeadSetup head r s) := by
  refine keepsQueue_head fun h => keepsQueue_guard ?_
  rcases headParamsOf r with _ | p
  · exact keepsQueue_reply _
  · exact keepsQueue_guard (keepsQueue_guard rfl)

theorem actCycleOnce_keepsQueue (head : Byte) (r : CycleOnceReq) : s.KeepsQueue (actCycleOnce head r s) := by
  refine keepsQueue_head fun h => keepsQueue_guard (keepsQueue_guard (keepsQueue_guard ?_))
  rcases s.library.profile r.profile.toNat with _ | gs
  · exact keepsQueue_reply _
  · exact State.actHead_pending _ h _

/-- No block touches the queue for a request it owns. -/
theorem requestAct_keepsQueue (i : Instr) (s : State) : s.KeepsQueue (requestAct i s) := by
  cases i with
  | partReset => exact State.softReset_pending _
  | trackSetup => exact keepsQueue_guard (keepsQueue_guard (keepsQueue_guard (State.crossManifest_pending _ _)))
  | gateSetup => exact keepsQueue_guard (keepsQueue_guard rfl)
  | headSetup _ h r => exact actHeadSetup_keepsQueue h r
  | headEnables => exact keepsQueue_head fun h => State.actHead_pending _ h _
  | formatPut _ r => exact actFormatPut_keepsQueue r
  | formatDrop => exact keepsQueue_guard (keepsQueue_guard (keepsQueue_guard rfl))
  | profilePut _ id gs => exact actProfilePut_keepsQueue id gs
  | profileDrop _ id => exact actProfileDrop_keepsQueue id
  | trackStart => exact keepsQueue_guard (keepsQueue_guard rfl)
  | trackStop => exact keepsQueue_guard (State.stopTrack_pending _)
  | manifestPost _ codes => exact actManifestPost_keepsQueue codes
  | manifestFlush => exact State.crossManifest_pending _ _
  | verdict _ n m r => exact actVerdict_keepsQueue n m r
  | holdRelease => exact State.changeCauses_pending _ _
  | headOnline =>
    exact keepsQueue_head fun h => keepsQueue_guard (keepsQueue_guard (keepsQueue_guard (State.actHead_pending _ h _)))
  | headOffline => exact keepsQueue_head fun h => State.actHead_pending _ h _
  | headHalt | headCancel => exact keepsQueue_head fun h => keepsQueue_ite (State.actHead_pending _ h _) (keepsQueue_reply _)
  | headClear | headRelease => exact keepsQueue_head fun h => keepsQueue_guard (State.actHead_pending _ h _)
  | nestQuery _ n => exact actNestQuery_keepsQueue n
  | statusTake | headQuery | countRead => exact keepsQueue_head fun _ => rfl
  | countZero => exact keepsQueue_ite (State.actHeads_pending _ _ _) (keepsQueue_head fun h => State.actHead_pending _ h _)
  | coeffRead => exact keepsQueue_head fun _ => keepsQueue_guard rfl
  | coeffWrite | inject => exact keepsQueue_head fun _ => keepsQueue_guard (keepsQueue_guard rfl)
  | cycleOnce _ h r => exact actCycleOnce_keepsQueue h r
  | step => exact keepsQueue_guard (keepsQueue_guard ((State.setTrack_pending _ _).trans (State.takeIndexStart_pending s)))
  | _ => exact rfl

/-! ### Taking and the queue (R185, R186) -/

theorem State.take_pending {kind tag : Byte} {act : State → State × Option Answer} (h : s.KeepsQueue (act s)) :
    (s.take kind tag act).pending = s.pending := by
  unfold State.take
  split
  all_goals
    rename_i e
    rw [e] at h
    exact h

@[simp] theorem State.takeFrame_pending (f : Frame) : (s.takeFrame f).pending = s.pending := by
  unfold State.takeFrame
  split
  · rfl
  · rfl
  · exact State.take_pending (requestAct_keepsQueue _ s)

@[simp] theorem State.takeFrames_pending (n : Nat) (s : State) : (s.takeFrames n).pending = s.pending := by
  induction n generalizing s with
  | zero => rfl
  | succ n ih =>
    unfold State.takeFrames
    split
    · rfl
    · split
      · rw [ih, State.takeFrame_pending, mapLink_pending]
      · rfl

@[simp] theorem State.resumeTaking_pending : s.resumeTaking.pending = s.pending :=
  State.takeFrames_pending _ s

@[simp] theorem State.offerFrame_pending (f : Frame) : (s.offerFrame f).pending = s.pending :=
  State.resumeTaking_pending

theorem State.request_pending (i : Instr) {act : State → State × Option Answer} (h : s.KeepsQueue (act s)) :
    (s.request i act).pending = s.pending := by
  unfold State.request
  split
  · rfl
  · split
    · exact State.take_pending h
    · exact State.offerFrame_pending _

/-! ### Events and the queue -/

theorem State.expire_pending {due : Option Nat} {f : State → State} (h : ∀ u : State, (f u).pending = u.pending) :
    (s.expire due f).pending = s.pending := by
  unfold State.expire
  split
  · rfl
  · exact h _

@[simp] theorem State.expireHead_pending (h : Fin 16) (due : Option Nat) (f : HeadCtx → HeadCtx) :
    (s.expireHead h due f).pending = s.pending :=
  State.expire_pending fun _ => State.actHead_pending _ h f

@[simp] theorem State.startPending_pending (h : Fin 16) : (s.startPending h).pending = s.pending :=
  State.actHead_pending _ h _

@[simp] theorem State.endWindow_pending : s.endWindow.pending = s.pending := by
  unfold State.endWindow
  split
  · rfl
  · exact State.windowEnd_pending _ _

@[simp] theorem State.judgeFrame_pending : s.judgeFrame.pending = s.pending := by
  unfold State.judgeFrame
  split
  · rfl
  · dsimp only
    split
    · exact State.offerFrame_pending _
    · rfl

theorem State.nextMessage_pending {f : Frame} {src : Source} (h : s.nextMessage = some (f, src, t)) :
    t.pending = s.pending := by
  unfold State.nextMessage at h
  split at h
  · cases h; rfl
  · cases h; rfl
  · cases h; rfl
  · split at h
    · cases h; rfl
    · cases h

@[simp] theorem State.beginMessage_pending : s.beginMessage.pending = s.pending := by
  unfold State.beginMessage
  split
  · split
    · rename_i e
      exact (mapLink_pending _ _).trans (State.nextMessage_pending e)
    · rfl
  · rfl

/-! ### Commands and the queue (log entries 1 and 18) -/

/-- An answer that is a next state with the queue of commands as it was in `s`. -/
def State.Completes (s : State) (o : Answered) : Prop :=
  ∃ t, o = .next t ∧ t.pending = s.pending

theorem completes_next (h : t.pending = s.pending) : s.Completes (.next t) :=
  ⟨t, rfl, h⟩

theorem execMessageLastByte_completes : s.Completes (execMessageLastByte s) := by
  unfold execMessageLastByte
  split
  · exact completes_next rfl
  · exact completes_next (by simp)

theorem execSyntheticIndexDone_completes : s.Completes (execSyntheticIndexDone s) := by
  unfold execSyntheticIndexDone
  split
  · exact completes_next rfl
  · exact completes_next (State.takeIndexDone_pending _ .test)

theorem execVirtualEdgeExpiry_completes (h : Fin 16) : s.Completes (execVirtualEdgeExpiry h s) := by
  unfold execVirtualEdgeExpiry
  split
  · exact completes_next rfl
  · exact completes_next (State.actHead_pending _ h _)

theorem execStartLineEdge_completes (h : Fin 16) : s.Completes (execStartLineEdge h s) := by
  refine completes_next ?_
  split
  · exact State.startPending_pending h
  · rfl

theorem execRampStep_completes (h : Fin 16) : s.Completes (execRampStep h s) := by
  unfold execRampStep
  split
  · exact completes_next rfl
  · exact completes_next (State.expireHead_pending h _ _)

theorem execSample_completes (h : Fin 16) (reading : Option Nat) (closedLevel openLevel : Bool) :
    s.Completes (execSample h reading closedLevel openLevel s) := by
  simp only [execSample]
  split
  · exact completes_next rfl
  · exact completes_next (State.actHead_pending _ h _)

theorem execRejectConfirmEdge_completes : s.Completes (execRejectConfirmEdge s) := by
  refine completes_next ?_
  split <;> rfl

theorem execLoadRecordJudged_completes : s.Completes (execLoadRecordJudged s) := by
  unfold execLoadRecordJudged
  split
  · exact completes_next (State.judgeRecord_pending _ _ _)
  all_goals exact completes_next rfl

theorem execCoeffReadEnd_completes : s.Completes (execCoeffReadEnd s) := by
  unfold execCoeffReadEnd
  split
  all_goals exact completes_next rfl

theorem execCoeffWriteEnd_completes : s.Completes (execCoeffWriteEnd s) := by
  unfold execCoeffWriteEnd
  split
  · exact completes_next (State.endWrite_pending _ _ _)
  all_goals exact completes_next rfl

/-- A request is taken at once or offered to the buffer, and acted on by the block that owns it. -/
theorem exec_request_completes (i : Instr) (h : exec i s = .next (s.request i (requestAct i))) : s.Completes (exec i s) := by
  rw [h]
  exact completes_next (State.request_pending i (requestAct_keepsQueue i s))

/-- Every command answers a next state and leaves the queue: a request by its block's act, an event by its own. -/
theorem exec_completes (i : Instr) (s : State) : s.Completes (exec i s) := by
  cases i with
  | deviceReset => exact completes_next rfl
  | frameReceived => exact completes_next State.judgeFrame_pending
  | receiveGapTimeout => exact completes_next (State.expire_pending fun _ => rfl)
  | unknownKindFrame => exact completes_next (State.offerFrame_pending _)
  | syntheticIndexDone => exact execSyntheticIndexDone_completes
  | indexStart => exact completes_next (State.takeIndexStart_pending _)
  | indexDone => exact completes_next (State.takeIndexDone_pending _ .run)
  | stallExpiry => exact completes_next (State.expire_pending fun _ => State.postCause_pending _ .indexStall)
  | platenClosedEdge h | platenOpenEdge h => exact completes_next (State.actHead_pending _ h _)
  | startLineEdge h => exact execStartLineEdge_completes h
  | startDelayExpiry h => exact completes_next (State.expire_pending fun _ => State.startPending_pending h)
  | startLimitExpiry h | segmentExpiry h | closeLimitExpiry h | openLimitExpiry h | releaseOpenLimitExpiry h =>
    exact completes_next (State.expireHead_pending h _ _)
  | rampStep h => exact execRampStep_completes h
  | sample h r c o => exact execSample_completes h r c o
  | virtualEdgeExpiry h => exact execVirtualEdgeExpiry_completes h
  | rejectConfirmEdge => exact execRejectConfirmEdge_completes
  | punchDelayExpiry | punchWidthExpiry | diverterWidthExpiry => exact completes_next (State.expire_pending fun _ => rfl)
  | diverterDelayExpiry => exact completes_next (State.expire_pending fun _ => State.divert_pending _)
  | confirmWindowExpiry => exact completes_next (State.expire_pending fun _ => State.endWindow_pending)
  | loadRecordJudged => exact execLoadRecordJudged_completes
  | coeffReadEnd => exact execCoeffReadEnd_completes
  | coeffWriteEnd => exact execCoeffWriteEnd_completes
  | transmitBegin => exact completes_next State.beginMessage_pending
  | messageLastByte => exact execMessageLastByte_completes
  | byteReceived => exact completes_next State.judgeFrame_pending
  | _ => exact exec_request_completes _ rfl

end Sys2Proof.Machine

open Sys2Proof.Machine

/-- Settles O1, by the step's split on the queue. -/
theorem stepTakesFrontCommand : Obligations.StepTakesFrontCommand := by
  intro c rest s front
  rw [step, front]

/-- Settles O3, by what each command does with the queue. -/
theorem everyCommandCompletes : Obligations.EveryCommandCompletes :=
  exec_completes
end
